-- ==== Sys2Proof/Word.lean ====
section
/-! DEFINITION. The word types of the block: 64-bit registers (R15) and bytes, all little-endian. -/

namespace Sys2Proof

/-- A 64-bit register or instruction word (R15, R217). -/
abbrev Word := BitVec 64

/-- A byte of memory. -/
abbrev Byte := BitVec 8

/-- A sparse table: keys and values, keys strictly rising. -/
abbrev Tab (α : Type) := List (Nat × α)

end Sys2Proof
end

