-- ==== Sys2Proof/Syntax.lean ====
section
/-! DEFINITION. The commands of the block, one constructor per row of spec/opcode_table.json, with their operands.
An Afnel command names the core that dispatches; the instruction word is what the core fetches at its program counter.
A host command carries its port; an event of the environment carries what the environment decides. -/

namespace Sys2Proof

/-- The engine queues of a core (R62). -/
inductive EUnit where
  | me0 | me1 | ve | mover
  deriving DecidableEq, Repr

/-- The data of a BAR0 write: 64 bits, or the low or high 32 bits of the register (R15). -/
inductive BarData where
  | full (v : BitVec 64)
  | low (v : BitVec 32)
  | high (v : BitVec 32)
  deriving DecidableEq, Repr

/-- Who waits: the sequencer of a core, an engine queue of a core, or a mover transfer of a die. -/
inductive Accessor where
  | seq (c : Fin 256)
  | unit (c : Fin 256) (u : EUnit)
  | xfer (d : Fin 4) (id : Nat)
  | pass (d : Fin 4)
  deriving DecidableEq, Repr

/-- What befalls one stored word of an array (`src`: 1 HBM, 2 local portion, 3 remote portion, 4 tile store): its index within
physical memory (PA / 8), flipped data and check bits, and the address it was encoded for, when a misdirected write put it
there. With `src` 0 a parity error meets entry `word` of the die's translation cache (R272). -/
structure Flip where
  word : Nat
  data : BitVec 64
  check : BitVec 16
  addr : Option (BitVec 28)
  src : Fin 5
  deriving DecidableEq, Repr

/-- A TIMESYNC packet that arrives on the parent link (R427): a member's REQUEST with the time until the answer leaves; the
parent's RESPONSE with the four stamps and its DEPTH; NOT_READY. -/
inductive TimeMsg where
  | request (q : Fin 24) (hold : BitVec 16)
  | response (t1 t2 t3 t4 : BitVec 64) (depth : BitVec 8)
  | notReady
  deriving DecidableEq, Repr

/-- A request that the part sent to a host and that gets no completion (R489): the fetch of a stream's next command, the read
of a descriptor of its LAUNCH, a block of a mover transfer, the pager's read of a handle it prefetches. -/
inductive HostReq where
  | fetch (s : Fin 4096)
  | descriptor (s : Fin 4096) (i : Fin 256)
  | block (d : Fin 4) (id n : Nat)
  | reserve (h : Fin 65536)
  deriving DecidableEq, Repr

/-- What fails in a matrix engine (R138): parity of a register file, a bank, an operand buffer or the drain unit; an internal
self-test; its clocking. Or parity of the scalar or descriptor registers of its core's sequencer (R462). -/
inductive EngineFault where
  | parity | selfTest | clocking | registers
  deriving DecidableEq, Repr

/-- What the environment decides of verifying an image (log entry 24): the root key file entry matches its digest, the
signatures verify, the digest of the body matches, every word was read. -/
structure ImageFacts where
  rootOk : Bool
  sigOk : Bool
  bodyOk : Bool
  readOk : Bool
  deriving DecidableEq, Repr

/-- What the environment decides of a signed item (R537): the certificate's root key matches its digest, both signatures of
the certificate verify, both of the item verify. -/
structure CertFacts where
  rootOk : Bool
  certOk : Bool
  itemOk : Bool
  deriving DecidableEq, Repr

/-- A frame as the receiver of a bundle sees it (R22, R23): whether it is idle, the frame strobe and the 68 physical data
wires, bit k of each in UI k. -/
structure BundleFrame where
  idle : Bool
  strobe : BitVec 8
  wires : List (BitVec 8)
  deriving DecidableEq, Repr

/-- A sample of a physical wire in the wire survey (R38): phase (0 stands for phase 1), UI within the phase, value read. -/
structure WireSample where
  phase : Fin 5
  ui : Nat
  wire : Fin 68
  value : Bool
  deriving DecidableEq, Repr

/-- What the wire survey reads of one bundle (R38, R39): site and index of its receiving base die, whether the receiver
locks, the frame strobes of phases 3 to 5 and the wires as sampled; what is not listed reads as it was driven. -/
structure WireSurvey where
  site : Fin 4
  index : Fin 2176
  lock : Bool
  strobes : List (BitVec 8)
  samples : List WireSample
  deriving DecidableEq, Repr

/-- A sample of the burst that a bundle sends in W2 (R48): die and index of the bundle, UI, physical wire, value read. -/
structure BurstSample where
  die : Fin 4
  index : Fin 2176
  ui : Fin 4096
  wire : Fin 68
  value : Bool
  deriving DecidableEq, Repr

/-- A recovery record tried on a die's raw response (R32, R33): the record; in how many cells the response differs from the
one the record was made of; the serial of that one; the serial that a correction beyond its limit yields; and the check
value of the serial yielded. -/
structure RecoveryTry where
  record : Fin 20
  flips : Fin 1025
  serial : BitVec 64
  astray : BitVec 64
  check : BitVec 32
  deriving DecidableEq, Repr

/-- What a start finds (R525, R528): every sensor is below 100 °C; the step that passes its limit, if any; the FEED_ID straps;
for compute dies and base dies by site and stacks by site and PHY site, the recovery records tried; for each lateral edge
(bit i: L0 of site i) whether its clock is detected and its sideband answers; a conflicting assignment, or a die that no
assignment reaches; the three images; the signatures of the two grade record copies; vertical ports (8 x site + cluster)
whose sideband failed; what the wire survey reads; the dies that take the image body whole (bit d); the flash takes
writes; HBM channels (stack, channel) that fail to train at 10 Gb/s and at 8 Gb/s. At a warm start also: the digests that
came across an edge, by the die they speak for; what the bursts read; and whether every retained body passes. -/
structure StartFacts where
  cool : Bool
  overrun : Option (Fin 16)
  straps : BitVec 4
  tries : List (List RecoveryTry)
  clocks : BitVec 4
  sidebands : BitVec 4
  conflict : Bool
  unassigned : Bool
  imageA : ImageFacts
  imageB : ImageFacts
  imageR : ImageFacts
  gradeSig : CertFacts × CertFacts
  ports : List (Fin 32)
  wires : List WireSurvey
  bodies : BitVec 4
  flashOk : Bool
  hbmFast : List (Fin 12 × Fin 32)
  hbmSlow : List (Fin 12 × Fin 32)
  digests : List (Fin 4 × BitVec 64)
  bursts : List BurstSample
  retainedOk : Bool
  deriving DecidableEq, Repr

/-- What the environment decides while an order is applied: of a start it orders, and of a signed object it submits. -/
structure Env where
  start : StartFacts
  cert : CertFacts
  deriving DecidableEq, Repr

/-- The commands, in the order of the table; each row is named with its rule. -/
inductive Instr where
  /-- NOP (R228) -/
  | nop (c : Fin 256)
  /-- ADD (R228) -/
  | add (c : Fin 256)
  /-- SUB (R228) -/
  | sub (c : Fin 256)
  /-- AND (R228) -/
  | and (c : Fin 256)
  /-- OR (R228) -/
  | or (c : Fin 256)
  /-- XOR (R228) -/
  | xor (c : Fin 256)
  /-- SHL (R228) -/
  | shl (c : Fin 256)
  /-- SHR (R228) -/
  | shr (c : Fin 256)
  /-- SRA (R228) -/
  | sra (c : Fin 256)
  /-- MUL (R228) -/
  | mul (c : Fin 256)
  /-- SLT (R228) -/
  | slt (c : Fin 256)
  /-- SLTU (R228) -/
  | sltu (c : Fin 256)
  /-- ADDI (R228) -/
  | addi (c : Fin 256)
  /-- ORI (R228) -/
  | ori (c : Fin 256)
  /-- LIH (R228) -/
  | lih (c : Fin 256)
  /-- LD (R229) -/
  | ld (c : Fin 256)
  /-- ST (R229) -/
  | st (c : Fin 256)
  /-- BEQ (R228) -/
  | beq (c : Fin 256)
  /-- BNE (R228) -/
  | bne (c : Fin 256)
  /-- BLT (R228) -/
  | blt (c : Fin 256)
  /-- BGE (R228) -/
  | bge (c : Fin 256)
  /-- JAL (R228) -/
  | jal (c : Fin 256)
  /-- JR (R229) -/
  | jr (c : Fin 256)
  /-- TD_LD (R228) -/
  | tdLd (c : Fin 256)
  /-- TD_ST (R228) -/
  | tdSt (c : Fin 256)
  /-- TD_ADV (R228) -/
  | tdAdv (c : Fin 256)
  /-- CR_RD (R223) -/
  | crRd (c : Fin 256)
  /-- CR_WR (R223) -/
  | crWr (c : Fin 256)
  /-- BRK (R594) -/
  | brk (c : Fin 256)
  /-- MTX_MAC (R230) -/
  | mtxMac (c : Fin 256)
  /-- MTX_L1 (R230) -/
  | mtxL1 (c : Fin 256)
  /-- MTX_L2S (R230) -/
  | mtxL2s (c : Fin 256)
  /-- MTX_MINP (R230) -/
  | mtxMinp (c : Fin 256)
  /-- MTX_MAXP (R230) -/
  | mtxMaxp (c : Fin 256)
  /-- MTX_EQC (R230) -/
  | mtxEqc (c : Fin 256)
  /-- MTX_GTC (R230) -/
  | mtxGtc (c : Fin 256)
  /-- ACC_CLR (R232) -/
  | accClr (c : Fin 256)
  /-- ACC_LD (R232) -/
  | accLd (c : Fin 256)
  /-- ACC_DRAIN (R119) -/
  | accDrain (c : Fin 256)
  /-- RELAY_SEND (R183) -/
  | relaySend (c : Fin 256)
  /-- RELAY_RECV (R183) -/
  | relayRecv (c : Fin 256)
  /-- V_ADD (R202) -/
  | vAdd (c : Fin 256)
  /-- V_SUB (R202) -/
  | vSub (c : Fin 256)
  /-- V_MUL (R202) -/
  | vMul (c : Fin 256)
  /-- V_FMA (R202) -/
  | vFma (c : Fin 256)
  /-- V_ABS (R202) -/
  | vAbs (c : Fin 256)
  /-- V_NEG (R202) -/
  | vNeg (c : Fin 256)
  /-- V_MIN (R205) -/
  | vMin (c : Fin 256)
  /-- V_MAX (R205) -/
  | vMax (c : Fin 256)
  /-- V_CMP (R203) -/
  | vCmp (c : Fin 256)
  /-- V_SEL (R204) -/
  | vSel (c : Fin 256)
  /-- V_CVT (R206) -/
  | vCvt (c : Fin 256)
  /-- V_RSUM (R208) -/
  | vRsum (c : Fin 256)
  /-- V_RMAX (R208) -/
  | vRmax (c : Fin 256)
  /-- V_RMIN (R208) -/
  | vRmin (c : Fin 256)
  /-- V_AMAX (R209) -/
  | vAmax (c : Fin 256)
  /-- V_EXP2 (R210) -/
  | vExp2 (c : Fin 256)
  /-- V_LOG2 (R210) -/
  | vLog2 (c : Fin 256)
  /-- V_RCP (R210) -/
  | vRcp (c : Fin 256)
  /-- V_RSQRT (R210) -/
  | vRsqrt (c : Fin 256)
  /-- V_SIN (R210) -/
  | vSin (c : Fin 256)
  /-- V_COS (R210) -/
  | vCos (c : Fin 256)
  /-- MOV_D (R235) -/
  | movD (c : Fin 256)
  /-- MOV_FADD (R236) -/
  | movFadd (c : Fin 256)
  /-- MOV_IADD (R236) -/
  | movIadd (c : Fin 256)
  /-- PG_ALLOC (R281) -/
  | pgAlloc (c : Fin 256)
  /-- PG_FREE (R282) -/
  | pgFree (c : Fin 256)
  /-- PG_OFFLOAD (R282) -/
  | pgOffload (c : Fin 256)
  /-- PG_PREFETCH (R282) -/
  | pgPrefetch (c : Fin 256)
  /-- PG_PIN (R282) -/
  | pgPin (c : Fin 256)
  /-- WAIT (R238) -/
  | wait (c : Fin 256)
  /-- SIG (R239) -/
  | sig (c : Fin 256)
  /-- FENCE_ACQ (R240) -/
  | fenceAcq (c : Fin 256)
  /-- FENCE_REL (R240) -/
  | fenceRel (c : Fin 256)
  /-- SPAN_BEGIN (R454) -/
  | spanBegin (c : Fin 256)
  /-- SPAN_COMMIT (R241) -/
  | spanCommit (c : Fin 256)
  /-- TASK_END (R88) -/
  | taskEnd (c : Fin 256)
  /-- WARM (R135) -/
  | warm (c : Fin 256)
  /-- LAUNCH_AT (R242) -/
  | launchAt (c : Fin 256)
  /-- QUEUE_ISSUE (R64) -/
  | queueIssue (c : Fin 256) (u : EUnit)
  /-- INSTRUCTION_COMPLETE (R72): `i` counts the unit's instructions in flight; bits flipped in elements of the bank an
  MTX leaves, of the core itself and of a paired follower -/
  | instructionComplete (c : Fin 256) (u : EUnit) (i : Nat) (err ferr : List (Nat × BitVec 32))
  /-- RELAY_WAIT_TIMEOUT (R186) -/
  | relayWaitTimeout (c : Fin 256) (e : Fin 2) (i : Nat)
  /-- BANK_WINDOW_ACCESS (R116) -/
  | bankWindowAccess (a : Accessor)
  /-- KEEPER_WINDOW_EXPIRY (R132) -/
  | keeperWindowExpiry (e : Fin 512)
  /-- KEEPER_LANE_FALL (R133) -/
  | keeperLaneFall (e : Fin 512)
  /-- KEEPER_LANE_RISE (R134) -/
  | keeperLaneRise (e : Fin 512)
  /-- GOVERNOR_HOLD_RELEASE (R136) -/
  | governorHoldRelease (d : Fin 4)
  /-- LSA_RELEASE (R136) -/
  | lsaRelease (d : Fin 4)
  /-- ENGINE_PARITY_FAULT (R138): the engine, and what failed -/
  | engineParityFault (e : Fin 512 × EngineFault)
  /-- VE_PARITY_FAULT (R212): the core of the vector engine, and the output elements written before it -/
  | veParityFault (c : Fin 256 × Nat)
  /-- POST_WINDOW_WRITE (R81) -/
  | postWindowWrite (port : Fin 2) (k : Fin 32) (w : Fin 8) (v : BarData)
  /-- WATCH_REPORT (R85) -/
  | watchReport (c : Fin 256) (i : Nat)
  /-- TASK_PULL (R86) -/
  | taskPull (c : Fin 256)
  /-- TASK_START (R87) -/
  | taskStart (c : Fin 256)
  /-- SLOT_RELEASE (R84) -/
  | slotRelease (port : Fin 2) (k : Fin 32) (slot : Fin 256)
  /-- TOKEN_POKE (R101) -/
  | tokenPoke (port : Fin 2) (c : Fin 256) (v : BarData)
  /-- GAIT_CTRL_WRITE (R354) -/
  | gaitCtrlWrite (port : Fin 2) (k : Fin 32) (v : BarData)
  /-- XLATE_INVAL_GO (R279) -/
  | xlateInvalGo (port : Fin 2) (d : Fin 4) (v : BitVec 64)
  /-- XLATE_INVAL_COMPLETE (R279) -/
  | xlateInvalComplete (d : Fin 4)
  /-- REMOTE_MODE_WRITE (R256) -/
  | remoteModeWrite (port : Fin 2) (d : Fin 4) (mode : Fin 4)
  /-- REMOTE_MODE_CHANGE_COMPLETE (R256) -/
  | remoteModeChangeComplete (d : Fin 4)
  /-- SCRUB_PASS (R272) -/
  | scrubPass (d : Fin 4) (flips : List Flip)
  /-- PAGER_OFFLOAD_COMPLETE (R282) -/
  | pagerOffloadComplete (h : Fin 65536)
  /-- PAGER_PREFETCH_COMPLETE (R282) -/
  | pagerPrefetchComplete (h : Fin 65536)
  /-- DEMAND_LIMIT_EXPIRY (R286) -/
  | demandLimitExpiry (a : Accessor)
  /-- MOVER_ADMIT (R301) -/
  | moverAdmit (d : Fin 4)
  /-- MOVER_TRANSFER_COMPLETE (R315) -/
  | moverTransferComplete (d : Fin 4) (id : Nat)
  /-- UPDATE_PASS_START (R344) -/
  | updatePassStart (d : Fin 4)
  /-- UPDATE_ROUND_WRITE (R347), with or without a parity error in a lane (R348) -/
  | updateRoundWrite (d : Fin 4) (parity : Bool)
  /-- UPDATE_PASS_COMPLETE (R350) -/
  | updatePassComplete (d : Fin 4)
  /-- ROUTER_FRAME (R369): one frame of a die's router; the frames its ports receive, and the ports whose frame held an
  uncorrectable codeword -/
  | routerFrame (d : Fin 4) (ins : List (Nat × List Byte)) (bad : List Nat)
  /-- BOUNCE_HOLD_EXPIRY (R371) -/
  | bounceHoldExpiry (d : Fin 4) (i : Nat)
  /-- WRITE_PACKET (R377) -/
  | writePacket (d : Fin 4)
  /-- RELAY_PACKET (R377) -/
  | relayPacket (d : Fin 4)
  /-- SIG_PACKET (R377) -/
  | sigPacket (d : Fin 4)
  /-- POST_PACKET (R363) -/
  | postPacket (d : Fin 4) (id : Nat)
  /-- ACK (R378) -/
  | ack (d : Fin 4)
  /-- NACK (R379) -/
  | nack (d : Fin 4)
  /-- RELEASE_PACKET (R381) -/
  | releasePacket (d : Fin 4)
  /-- PROBE (R392) -/
  | probe (q : Fin 24) (node : BitVec 16) (far : Fin 24) (crcOk fecOk : Bool)
  /-- TIMESYNC (R427) -/
  | timesync (m : TimeMsg)
  /-- ACK_DELAY_EXPIRY (R378) -/
  | ackDelayExpiry (i : Nat)
  /-- GAP_WAIT_EXPIRY (R379) -/
  | gapWaitExpiry (i j : Nat)
  /-- RESEND_TIMEOUT (R380) -/
  | resendTimeout (d : Fin 4) (i : Nat)
  /-- RELEASE_WAIT_EXPIRY (R381) -/
  | releaseWaitExpiry (d : Fin 4) (i : Nat)
  /-- RECORD_HOLD_EXPIRY (R381) -/
  | recordHoldExpiry (d : Fin 4) (i : Nat)
  /-- PORT_ENABLE (R392) -/
  | portEnable (port : Fin 2) (q : Fin 24) (mode : Fin 4)
  /-- PORT_DISABLE (R360) -/
  | portDisable (port : Fin 2) (q : Fin 24) (mode : Fin 4)
  /-- PORT_TRAINING_COMPLETE (R391) -/
  | portTrainingComplete (q : Fin 24) (lanes : BitVec 4) (delay : BitVec 8)
  /-- PORT_TEST_COMPLETE (R392) -/
  | portTestComplete (q : Fin 24)
  /-- PORT_DOWN (R360) -/
  | portDown (q : Fin 24)
  /-- BANK_CONFIRM (R387) -/
  | bankConfirm (port : Fin 2) (d : Fin 4) (b : Fin 2) (v : BitVec 64)
  /-- EPOCH_FLIP_AT_WRITE (R389) -/
  | epochFlipAtWrite (port : Fin 2) (m : BitVec 64)
  /-- EPOCH_FLIP (R388) -/
  | epochFlip
  /-- EPOCH_BANK_REOPEN (R388) -/
  | epochBankReopen
  /-- BUNDLE_RETIRE_LIVE (R29): the bundle, and the frames that its receiver took in (R22, R23) -/
  | bundleRetireLive (d : Fin 4) (i : Fin 2176 × List BundleFrame)
  /-- RETIREMENT_NOTICE_ACK (R29) -/
  | retirementNoticeAck (d : Fin 4) (i : Fin 2176) (flashOk : Bool)
  /-- MERIDIAN_DIE_COMPARE (R424): whether dies 1 to 3 stay 1 ns off die 0, and on which side -/
  | meridianDieCompare (behind d1 d2 d3 : Bool)
  /-- PLL_LOCKED (R425) -/
  | pllLocked
  /-- HOLDOVER_ENTRY (R426) -/
  | holdoverEntry
  /-- SURVEY_GO (R430) -/
  | surveyGo (port : Fin 2) (v : BitVec 64)
  /-- TIMESYNC_RETRY (R427) -/
  | timesyncRetry
  /-- SURVEY_TIMEOUT (R430) -/
  | surveyTimeout
  /-- JOB_OFFSET_WRITE (R430) -/
  | jobOffsetWrite (port : Fin 2) (v : BitVec 64)
  /-- SLEW_END (R432) -/
  | slewEnd
  /-- DIGEST_RECORD_RECEIVE (R441) -/
  | digestRecordReceive (d : Fin 4)
  /-- TANDEM_WAIT_EXPIRY (R441) -/
  | tandemWaitExpiry (i : Nat)
  /-- MISMATCH_NOTICE (R442) -/
  | mismatchNotice (d : Fin 4)
  /-- TANDEM_RELEASE (R450) -/
  | tandemRelease (port : Fin 2) (v : BitVec 64)
  /-- PAIR_ENABLE (R443) -/
  | pairEnable (port : Fin 2) (d i : Fin 4) (v : BitVec 64)
  /-- REPLAY_DECISION (R461) -/
  | replayDecision (c : Fin 256)
  /-- CORE_EXCHANGE (R466) -/
  | coreExchange (c : Fin 256)
  /-- HELPER_WAIT_EXPIRY (R465) -/
  | helperWaitExpiry (c : Fin 256)
  /-- DECISION_DRAIN_COMPARE (R467) -/
  | decisionDrainCompare (c : Fin 256)
  /-- PAIR_MISMATCH_DECISION (R468) -/
  | pairMismatchDecision (c : Fin 256)
  /-- FARRIER_TEST_DUE (R470) -/
  | farrierTestDue (c : Fin 256)
  /-- FARRIER_TEST_START (R469) -/
  | farrierTestStart (d : Fin 4)
  /-- FARRIER_TEST_END (R473): which parts failed: matrix engines 0 and 1, vector engine, core, ring stop -/
  | farrierTestEnd (d : Fin 4) (fails : BitVec 5)
  /-- DUE_WINDOW_EXPIRY (R471) -/
  | dueWindowExpiry (c : Fin 256)
  /-- TEST_NOW (R471) -/
  | testNow (port : Fin 2) (d : Fin 4) (n : Fin 64)
  /-- DEFER (R471) -/
  | defer (port : Fin 2) (d : Fin 4) (n : Fin 64)
  /-- PARTNER_COPY_START (R476) -/
  | partnerCopyStart
  /-- PARTNER_COPY_COMPLETE (R476) -/
  | partnerCopyComplete (d : Fin 4)
  /-- PARTNER_COPY_FAIL (R477) -/
  | partnerCopyFail (d : Fin 4)
  /-- PARTNER_PAIRING (R479) -/
  | partnerPairing (port : Fin 2) (v : BitVec 64)
  /-- PARTNER_PEER_TIMEOUT (R479) -/
  | partnerPeerTimeout
  /-- REMOUNT_GO (R481) -/
  | remountGo (port : Fin 2) (d : Fin 4) (v : BitVec 64)
  /-- REMOUNT_COMPLETE (R481) -/
  | remountComplete (d : Fin 4)
  /-- BAR2_READ (R491) -/
  | bar2Read (port : Fin 2) (off n : Nat)
  /-- BAR2_WRITE (R491) -/
  | bar2Write (port : Fin 2) (off : Nat) (data : List Byte)
  /-- STREAM_DOORBELL (R512) -/
  | streamDoorbell (port : Fin 2) (s : Fin 4096) (v : BitVec 32)
  /-- LAUNCH (R514) -/
  | launch (port : Fin 2) (s : Fin 4096) (err : Option (Fin 256))
  /-- COPY (R514) -/
  | copy (port : Fin 2) (s : Fin 4096)
  /-- RESERVE (R514) -/
  | reserve (port : Fin 2) (s : Fin 4096)
  /-- MGMT (R514) -/
  | mgmt (port : Fin 2) (s : Fin 4096) (x : Env)
  /-- QUERY (R514) -/
  | query (port : Fin 2) (s : Fin 4096)
  /-- REGISTER_WRITE (R500) -/
  | registerWrite (port : Fin 2) (off n : Nat) (v : BitVec 64) (x : Env)
  /-- REGISTER_READ_CLEAR (R598) -/
  | registerReadClear (port : Fin 2) (off n : Nat)
  /-- ARB_COMMIT_GO (R415) -/
  | arbCommitGo (port : Fin 2) (d : Fin 4) (g : Fin 81)
  /-- ARB_SET_APPLY (R414) -/
  | arbSetApply (d : Fin 4) (g : Fin 81)
  /-- STARVATION_DETECT (R416) -/
  | starvationDetect (d : Fin 4) (g : Fin 81) (inst : Fin 32) (req : Fin 12)
  /-- LEASE_CLAIM (R504) -/
  | leaseClaim (port : Fin 2)
  /-- LEASE_RENEW (R504) -/
  | leaseRenew (port : Fin 2)
  /-- LEASE_RELEASE (R504) -/
  | leaseRelease (port : Fin 2)
  /-- LEASE_EXPIRY (R504) -/
  | leaseExpiry
  /-- HOST_LINK_DOWN (R494) -/
  | hostLinkDown (port : Fin 2)
  /-- FUNCTION_LEVEL_RESET (R494) -/
  | functionLevelReset (port : Fin 2)
  /-- HOST_COMPLETION_TIMEOUT (R489) -/
  | hostCompletionTimeout (port : Fin 2) (r : HostReq)
  /-- RESET_N_RELEASE (R524) -/
  | resetNRelease (x : StartFacts)
  /-- START_STEP_TIMEOUT (R525) -/
  | startStepTimeout (x : StartFacts)
  /-- RESET_N_ASSERT (R523) -/
  | resetNAssert
  /-- PERST_DEASSERT (R525) -/
  | perstDeassert (port : Fin 2)
  /-- WARM_START (R528) -/
  | warmStart (port : Fin 2) (x : StartFacts)
  /-- RETRY (R532) -/
  | retry (port : Fin 2) (x : StartFacts)
  /-- ROLLBACK_COMMIT (R544) -/
  | rollbackCommit (port : Fin 2)
  /-- ROOT_RETIRE (R544) -/
  | rootRetire (port : Fin 2) (root : BitVec 8)
  /-- FW_UPDATE_GO (R542) -/
  | fwUpdateGo (port : Fin 2) (v : BitVec 64)
  /-- FW_UPDATE_COMPLETE (R542) -/
  | fwUpdateComplete (x back : ImageFacts)
  /-- SUBMIT (R549) -/
  | submit (port : Fin 2) (x : CertFacts)
  /-- GET_VERSION (R547) -/
  | getVersion (t : Fin 3)
  /-- GET_CAPABILITIES (R547) -/
  | getCapabilities (t v : Fin 3)
  /-- NEGOTIATE_ALGORITHMS (R547) -/
  | negotiateAlgorithms (t : Fin 3) (sha384 : Bool)
  /-- GET_DIGESTS (R547) -/
  | getDigests (t : Fin 3)
  /-- GET_CERTIFICATE (R546) -/
  | getCertificate (t : Fin 3) (slot : Fin 8) (off len : Fin 65536)
  /-- CHALLENGE (R547) -/
  | challenge (t : Fin 3) (slot : Fin 8) (nonce : List Byte)
  /-- GET_MEASUREMENTS (R548) -/
  | getMeasurements (t : Fin 3) (index : Fin 256) (nonce : Option (List Byte))
  /-- MCTP_CONTROL (R531) -/
  | mctpControl (eid : Option (Fin 256))
  /-- PLDM_FIRMWARE_UPDATE (R531) -/
  | pldmFirmwareUpdate (slot : Fin 3) (image : List Byte) (x back : ImageFacts)
  /-- ACTIVATE_FIRMWARE (R532) -/
  | activateFirmware (x : StartFacts)
  /-- PLDM_PLATFORM_MONITORING (R574) -/
  | pldmPlatformMonitoring (n : Fin 68)
  /-- ALERT_RESPONSE_READ (R574) -/
  | alertResponseRead
  /-- SMBUS_CLOCK_TIMEOUT (R568) -/
  | smbusClockTimeout
  /-- UNLOCK_INSTRUMENT (R550) -/
  | unlockInstrument (obj : List Byte) (x : CertFacts)
  /-- BYPASS (R550) -/
  | bypass
  /-- IDCODE (R550) -/
  | idcode
  /-- SAMPLE_PRELOAD (R550) -/
  | samplePreload
  /-- EXTEST (R550) -/
  | extest
  /-- LEVEL_STEP (R560) -/
  | levelStep (d : Fin 4) (announce : Bool)
  /-- CAP_LOOP (R562) -/
  | capLoop (early : Option (Fin 4))
  /-- THERMAL_SAMPLE (R563) -/
  | thermalSample (temps : List (BitVec 16))
  /-- AVSBUS_POLL (R559) -/
  | avsbusPoll (readings : List (Fin 16 × Option (BitVec 16 × BitVec 16)))
  /-- AVSBUS_TIMEOUT (R568) -/
  | avsbusTimeout (r : Fin 16)
  /-- DROOP_ASSERT (R566) -/
  | droopAssert (d : Fin 4)
  /-- DROOP_DEASSERT (R566) -/
  | droopDeassert (d : Fin 4)
  /-- DROOP_STRETCH_END (R566) -/
  | droopStretchEnd (d : Fin 4)
  /-- DROOP_STUCK (R568) -/
  | droopStuck (d : Fin 4)
  /-- THROTTLE_ASSERT (R567) -/
  | throttleAssert
  /-- THROTTLE_RELEASE (R567) -/
  | throttleRelease
  /-- THROTTLE_STUCK (R568) -/
  | throttleStuck
  /-- REFCLK_PCIE_LOSS (R573) -/
  | refclkPcieLoss (port : Fin 2)
  /-- REFCLK_SD_LOSS (R573) -/
  | refclkSdLoss
  /-- REFCLK_PKG_LOSS (R573) -/
  | refclkPkgLoss
  /-- PD_SWITCH (R570) -/
  | pdSwitch (port : Fin 2) (v : BarData)
  /-- PD_POWER_UP_COMPLETE (R570) -/
  | pdPowerUpComplete (n : Fin 40)
  /-- TILE_STORE_CLEAR_COMPLETE (R253) -/
  | tileStoreClearComplete (k : Fin 32)
  /-- COUNTER_SNAP_GO (R586) -/
  | counterSnapGo (port : Fin 2)
  /-- COUNTER_LATCH (R586) -/
  | counterLatch
  /-- HALT (R593) -/
  | halt (port : Fin 2) (c : Fin 256) (arm : Fin 2)
  /-- STEP (R593) -/
  | step (port : Fin 2) (c : Fin 256) (arm : Fin 2)
  /-- RESUME (R593) -/
  | resume (port : Fin 2) (c : Fin 256) (arm : Fin 2)
  /-- DBG_SNAP_GO (R596) -/
  | dbgSnapGo (port : Fin 2) (c : Fin 256) (v : BitVec 64)
  /-- JOB_TIME_REACHED (R242) -/
  | jobTimeReached (c : Fin 256)
  /-- HOST_LINK_UP (R525) -/
  | hostLinkUp (port : Fin 2) (speed : Fin 7) (width : Fin 17) (patternOk : Bool)
    (tests : Option (List (Fin 256 × BitVec 5)))
  /-- CONFIG_REQUEST (R526) -/
  | configRequest (port : Fin 2)
  /-- DOE_DISCOVERY (R493) -/
  | doeDiscovery (port : Fin 2) (index : Fin 256)
  /-- DROOP_STUCK_CLEAR (R568) -/
  | droopStuckClear (d : Fin 4)
  /-- PEER_PAIRING_ANSWER (R479) -/
  | peerPairingAnswer (feed : Fin 16)
  deriving DecidableEq, Repr

end Sys2Proof
end

