-- ==== Sys2Proof/Decode.lean ====
section
/-! DEFINITION. The table gives no command any bits: the block has no instruction decoder of its own, and a command comes with
its operands. The Afnel instruction words that a core fetches are taken apart in Machine/Code.lean. -/

namespace Sys2Proof

/-- The command that a word of the table spells: the rows of spec/opcode_table.json carry no bits, so no word spells one. -/
def decodeTableWord (_nbits _w : Nat) : Option Instr := none

end Sys2Proof
end

