-- ==== Sys2Proof/Machine/RegMap.lean ====
section
/-! DEFINITION. The BAR0 register map (R521): every register with its offset, its array dimensions and its fields
(bits, access R16, class R17, reset), written from the register tables of spec/. -/

namespace Sys2Proof.Machine

/-- The registers of BAR0, one name per table of the spec. -/
inductive Reg where
  | PKG_SERIAL | PART_INFO | LEASE_CTRL | LEASE_STATUS | LEASE_EXPIRES | LEASE_ACTION | ORDER_RESULT 
  | VIEW_SEL | EVQ_BASE | EVQ_HEAD | EVQ_STATUS | MERIDIAN | JOB_OFFSET | TIME_CTRL | TIME_STATUS | REPRO_CTRL 
  | TANDEM_CTRL | TANDEM_STATUS | TANDEM_KEY | RECOVERY_CTRL | PARTNER_CTRL | PARTNER_STATUS | COUNTER 
  | COUNTER_LATCHED | COUNTER_SNAP | SNAP_TIME | START_STATUS | START_CTRL | FW_STATUS | FW_FLOORS | FW_UPDATE 
  | SIGNED_CTRL | DEBUG_NONCE | SIGNED_WINDOW | POWER_CTRL | POWER_STATUS | THERM_CTRL | PD_CTRL | PD_STATUS 
  | CLUSTER_POWER | DIE_TEMP | RAIL_STATUS | DIE_IDENT | BASE_SERIAL | COMPUTE_SERIAL | STACK_SERIAL 
  | EDGE_STATUS | DISABLED_MAP | REPAIR_MAP | DIST_CTRL | DIST_STATUS | GAIT_CTRL | GAIT_STATUS | POST_WINDOW 
  | POST_RESULT | SLOT_STATE | TOKEN_WORD | SYNC_STATUS | TOKEN_POKE | SEQ_FAULT | SEQ_FAULT_PC | ME_CTRL 
  | ME_STATUS | BANK_STATUS0 | BANK_STATUS1 | RAMP_CTRL | RAMP_STATUS | RELAY_CTRL | RELAY_STATUS | VE_CTRL 
  | VE_STATUS | FUNC_TABLE_ID | DCACHE_CTRL | MEM_STATUS | XLATE_ROOT | XLATE_INVAL | MEM_ERR_CTRL | MEM_ERR_STATUS 
  | UE_LOG | PAGER_CTRL | PAGER_ARENA | PAGER_POOL | PAGER_RESERVE | PAGER_STATUS | HANDLE_STATE | MOVER_CTRL 
  | MOVER_STATUS | MOVER_ERRORS | UPD_RING | UPD_STATUS | UPD_COUNTS | ARB_CTRL | ARB_CTRL_ACTIVE | ARB_COMMIT 
  | ARB_STATUS | ARB_STARVE | SLOT_PAIR | SLOT_PAIR_ACTIVE | PAIR_CTRL | RECOVERY_AREA | FARRIER_CTRL 
  | FARRIER_ORDER | FARRIER_STATUS | FARRIER_OVERDUE | CORE_PLACE | SECURE_TABLE | SECURE_DEST | SECURE_SLOT 
  | SECURE_STATUS | REMOUNT_SRC | REMOUNT_CTRL | REMOUNT_STATUS | FAB_NODE | EPOCH_CTRL | EPOCH_FLIP_AT 
  | PORT_CTRL | PORT_STATUS | RT_CTRL | RT_STATUS | E2E_CTRL | FAB_DROPS | ROUTE | CIRCUIT | HOST_PORT_STATUS 
  | BAR2_CTRL | STREAM_RING | STREAM_CPL | STREAM_STATUS | TRACE_CTRL | TRACE_BASE | TRACE_SIZE | TRACE_HEAD 
  | TRACE_STATUS | DBG_CTRL | DBG_STATUS | DBG_BP | DBG_SNAP 
  deriving DecidableEq, Repr

/-- The access types of R16. -/
inductive Access where
  | ro | rw | w1c | wo | rc
  deriving DecidableEq, Repr

/-- The classes of R17; `none` for a field without one. -/
inductive RegClass where
  | none | live | static | shadow | group
  deriving DecidableEq, Repr

/-- One field of a register table: bits [hi:lo], access, class and reset value. -/
structure FieldSpec where
  hi : Nat
  lo : Nat
  access : Access
  cls : RegClass
  reset : Nat
  deriving DecidableEq, Repr

/-- One register: BAR0 offset of element 0, array dimensions (count, stride) outermost first, and its fields from
the highest bits down; bits no field names are reserved. -/
structure RegInfo where
  base : Nat
  dims : List (Nat × Nat)
  fields : List FieldSpec
  deriving DecidableEq, Repr

/-- A named field of a named register. -/
structure Fld where
  reg : Reg
  hi : Nat
  lo : Nat
  deriving DecidableEq, Repr

/-- The register tables (R58, R93, R98, R139, R195, R213, R246, R287, R326, R356, R394, R418, R445, R484, R503,
R505, R509, R511, R518, R521, R551, R576, R585, R591, R597). -/
def Reg.info : Reg → RegInfo
  | .PKG_SERIAL => -- R521
    ⟨0x0, [], [⟨63, 0, .ro, .none, 0⟩]⟩
  | .PART_INFO => -- R521
    ⟨0x8, [], [⟨63, 48, .ro, .none, 0⟩, ⟨31, 0, .ro, .none, 0⟩]⟩
  | .LEASE_CTRL => -- R505
    ⟨0x1000, [], [⟨15, 0, .rw, .live, 50⟩]⟩
  | .LEASE_STATUS => -- R505
    ⟨0x1008, [], [⟨63, 32, .ro, .none, 0⟩, ⟨2, 2, .ro, .none, 0⟩, ⟨1, 0, .ro, .none, 3⟩]⟩
  | .LEASE_EXPIRES => -- R505
    ⟨0x1010, [], [⟨63, 0, .ro, .none, 0⟩]⟩
  | .LEASE_ACTION => -- R505
    ⟨0x1018, [], [⟨1, 0, .wo, .live, 0⟩]⟩
  | .ORDER_RESULT => -- R503
    ⟨0x2000, [(2, 0x8)], [⟨63, 40, .rc, .none, 0⟩, ⟨39, 32, .rc, .none, 0⟩, ⟨31, 16, .rc, .none, 0⟩,
      ⟨15, 0, .ro, .none, 0⟩]⟩
  | .VIEW_SEL => -- R509
    ⟨0x2100, [(2, 0x8)], [⟨0, 0, .rw, .live, 0⟩]⟩
  | .EVQ_BASE => -- R518
    ⟨0x3000, [(2, 0x20)], [⟨63, 12, .rw, .static, 0⟩, ⟨4, 4, .rw, .live, 0⟩, ⟨3, 0, .rw, .static, 0⟩]⟩
  | .EVQ_HEAD => -- R518
    ⟨0x3008, [(2, 0x20)], [⟨63, 32, .ro, .none, 0⟩, ⟨31, 0, .rw, .live, 0⟩]⟩
  | .EVQ_STATUS => -- R518
    ⟨0x3010, [(2, 0x20)], [⟨63, 32, .rc, .none, 0⟩]⟩
  | .MERIDIAN => -- R446
    ⟨0x100000, [], [⟨63, 0, .ro, .none, 0⟩]⟩
  | .JOB_OFFSET => -- R446
    ⟨0x100008, [], [⟨63, 0, .rw, .live, 0⟩]⟩
  | .TIME_CTRL => -- R447
    ⟨0x100010, [], [⟨47, 32, .rw, .live, 1000⟩, ⟨12, 8, .rw, .static, 0⟩, ⟨4, 4, .rw, .static, 0⟩,
      ⟨2, 2, .wo, .live, 0⟩, ⟨1, 0, .rw, .static, 0⟩]⟩
  | .TIME_STATUS => -- R448
    ⟨0x100018, [], [⟨63, 48, .ro, .none, 0⟩, ⟨47, 40, .ro, .none, 0⟩, ⟨39, 24, .ro, .none, 0⟩, ⟨6, 4, .ro, .none, 0⟩,
      ⟨3, 3, .ro, .none, 0⟩, ⟨2, 2, .ro, .none, 0⟩, ⟨0, 0, .ro, .none, 0⟩]⟩
  | .REPRO_CTRL => -- R449
    ⟨0x100020, [], [⟨0, 0, .rw, .live, 0⟩]⟩
  | .TANDEM_CTRL => -- R450
    ⟨0x100100, [], [⟨63, 48, .rw, .static, 65535⟩, ⟨47, 32, .rw, .live, 100⟩, ⟨31, 16, .rw, .static, 1024⟩,
      ⟨1, 1, .wo, .live, 0⟩, ⟨0, 0, .rw, .static, 0⟩]⟩
  | .TANDEM_STATUS => -- R451
    ⟨0x100108, [], [⟨63, 51, .ro, .none, 0⟩, ⟨47, 32, .ro, .none, 0⟩, ⟨31, 8, .ro, .none, 0⟩, ⟨2, 2, .ro, .none, 0⟩,
      ⟨1, 1, .ro, .none, 0⟩, ⟨0, 0, .ro, .none, 0⟩]⟩
  | .TANDEM_KEY => -- R451
    ⟨0x100110, [], [⟨63, 0, .ro, .none, 0⟩]⟩
  | .RECOVERY_CTRL => -- R485
    ⟨0x200000, [], [⟨31, 16, .rw, .live, 50⟩, ⟨15, 8, .rw, .live, 168⟩, ⟨0, 0, .rw, .live, 1⟩]⟩
  | .PARTNER_CTRL => -- R486
    ⟨0x200010, [], [⟨63, 48, .rw, .static, 65535⟩, ⟨47, 32, .rw, .static, 1⟩, ⟨31, 27, .rw, .static, 0⟩,
      ⟨2, 2, .rw, .static, 0⟩, ⟨1, 1, .rw, .static, 1⟩, ⟨0, 0, .rw, .live, 0⟩]⟩
  | .PARTNER_STATUS => -- R486
    ⟨0x200018, [], [⟨63, 32, .ro, .none, 0⟩, ⟨31, 16, .ro, .none, 0⟩, ⟨15, 12, .ro, .none, 15⟩,
      ⟨11, 8, .ro, .none, 15⟩, ⟨7, 7, .ro, .none, 0⟩, ⟨6, 6, .ro, .none, 0⟩, ⟨5, 5, .ro, .none, 0⟩,
      ⟨1, 0, .ro, .none, 0⟩]⟩
  | .COUNTER => -- R585
    ⟨0x300000, [(4, 0x100), (13, 0x8)], [⟨47, 0, .ro, .none, 0⟩]⟩
  | .COUNTER_LATCHED => -- R585
    ⟨0x301000, [(4, 0x100), (13, 0x8)], [⟨47, 0, .ro, .none, 0⟩]⟩
  | .COUNTER_SNAP => -- R586
    ⟨0x302000, [], [⟨1, 1, .ro, .none, 0⟩, ⟨0, 0, .wo, .live, 0⟩]⟩
  | .SNAP_TIME => -- R586
    ⟨0x302008, [], [⟨63, 0, .ro, .none, 0⟩]⟩
  | .START_STATUS => -- R552
    ⟨0x400000, [], [⟨55, 48, .ro, .none, 0⟩, ⟨47, 32, .ro, .none, 0⟩, ⟨31, 28, .ro, .none, 0⟩,
      ⟨27, 24, .ro, .none, 0⟩, ⟨23, 23, .ro, .none, 0⟩, ⟨22, 22, .ro, .none, 0⟩, ⟨21, 21, .ro, .none, 0⟩,
      ⟨20, 20, .ro, .none, 0⟩, ⟨19, 19, .ro, .none, 0⟩, ⟨18, 18, .ro, .none, 0⟩, ⟨17, 15, .ro, .none, 0⟩,
      ⟨14, 14, .ro, .none, 0⟩, ⟨0, 0, .ro, .none, 0⟩]⟩
  | .START_CTRL => -- R553
    ⟨0x400008, [], [⟨15, 8, .wo, .live, 0⟩, ⟨2, 0, .wo, .live, 0⟩]⟩
  | .FW_STATUS => -- R554
    ⟨0x400010, [], [⟨63, 48, .ro, .none, 0⟩, ⟨47, 32, .ro, .none, 0⟩, ⟨7, 6, .ro, .none, 0⟩, ⟨5, 4, .ro, .none, 3⟩,
      ⟨3, 2, .ro, .none, 0⟩, ⟨1, 0, .ro, .none, 0⟩]⟩
  | .FW_FLOORS => -- R554
    ⟨0x400018, [], [⟨63, 32, .ro, .none, 0⟩, ⟨31, 0, .ro, .none, 0⟩]⟩
  | .FW_UPDATE => -- R555
    ⟨0x400020, [], [⟨47, 12, .rw, .live, 0⟩, ⟨1, 1, .rw, .live, 0⟩, ⟨0, 0, .wo, .live, 0⟩]⟩
  | .SIGNED_CTRL => -- R555
    ⟨0x400028, [], [⟨31, 16, .ro, .none, 0⟩, ⟨0, 0, .wo, .live, 0⟩]⟩
  | .DEBUG_NONCE => -- R551
    ⟨0x400030, [(2, 0x8)], [⟨63, 0, .ro, .none, 0⟩]⟩
  | .SIGNED_WINDOW => -- R551
    ⟨0x401000, [(512, 0x8)], [⟨63, 32, .rw, .live, 0⟩, ⟨31, 0, .rw, .live, 0⟩]⟩
  | .POWER_CTRL => -- R577
    ⟨0x500000, [], [⟨42, 32, .rw, .live, 1500⟩, ⟨28, 24, .rw, .live, 8⟩, ⟨20, 16, .rw, .live, 16⟩]⟩
  | .POWER_STATUS => -- R578
    ⟨0x500008, [], [⟨63, 48, .ro, .none, 0⟩, ⟨47, 32, .rc, .none, 0⟩, ⟨23, 16, .ro, .none, 0⟩,
      ⟨4, 0, .ro, .none, 16⟩]⟩
  | .THERM_CTRL => -- R579
    ⟨0x500010, [], [⟨15, 8, .rw, .live, 95⟩, ⟨7, 0, .rw, .live, 105⟩]⟩
  | .PD_CTRL => -- R580
    ⟨0x500018, [], [⟨35, 32, .rw, .static, 15⟩, ⟨31, 0, .rw, .static, 4294967295⟩]⟩
  | .PD_STATUS => -- R580
    ⟨0x500020, [], [⟨39, 0, .ro, .none, 0⟩]⟩
  | .CLUSTER_POWER => -- R581
    ⟨0x500100, [(32, 0x8)], [⟨23, 23, .ro, .none, 0⟩, ⟨20, 16, .ro, .none, 16⟩, ⟨15, 0, .ro, .none, 0⟩]⟩
  | .DIE_TEMP => -- R582
    ⟨0x500200, [(4, 0x8)], [⟨63, 48, .ro, .none, 0⟩, ⟨47, 32, .ro, .none, 0⟩, ⟨31, 16, .ro, .none, 0⟩,
      ⟨15, 0, .ro, .none, 0⟩]⟩
  | .RAIL_STATUS => -- R583
    ⟨0x500300, [(16, 0x8)], [⟨47, 32, .ro, .none, 0⟩, ⟨31, 16, .ro, .none, 0⟩, ⟨1, 1, .ro, .none, 0⟩,
      ⟨0, 0, .ro, .none, 0⟩]⟩
  | .DIE_IDENT => -- R59
    ⟨0x1000000, [(4, 0x1000000)], [⟨11, 11, .ro, .none, 0⟩, ⟨10, 10, .ro, .none, 0⟩, ⟨9, 8, .ro, .none, 0⟩,
      ⟨7, 6, .ro, .none, 0⟩, ⟨5, 3, .ro, .none, 0⟩, ⟨2, 0, .ro, .none, 0⟩]⟩
  | .BASE_SERIAL => -- R58
    ⟨0x1000008, [(4, 0x1000000)], [⟨63, 0, .ro, .none, 0⟩]⟩
  | .COMPUTE_SERIAL => -- R58
    ⟨0x1000010, [(4, 0x1000000)], [⟨63, 0, .ro, .none, 0⟩]⟩
  | .STACK_SERIAL => -- R58
    ⟨0x1000018, [(4, 0x1000000), (3, 0x8)], [⟨63, 0, .ro, .none, 0⟩]⟩
  | .EDGE_STATUS => -- R60
    ⟨0x1000040, [(4, 0x1000000)], [⟨33, 33, .ro, .none, 0⟩, ⟨32, 32, .ro, .none, 0⟩, ⟨31, 25, .ro, .none, 64⟩,
      ⟨24, 18, .ro, .none, 64⟩, ⟨17, 0, .rc, .none, 0⟩]⟩
  | .DISABLED_MAP => -- R61
    ⟨0x1000080, [(4, 0x1000000), (8, 0x8)], [⟨40, 40, .ro, .none, 0⟩, ⟨39, 32, .ro, .none, 0⟩,
      ⟨31, 16, .ro, .none, 0⟩, ⟨15, 0, .ro, .none, 0⟩]⟩
  | .REPAIR_MAP => -- R58
    ⟨0x1001000, [(4, 0x1000000), (1088, 0x8)], [⟨63, 32, .ro, .none, 0⟩, ⟨31, 0, .ro, .none, 0⟩]⟩
  | .DIST_CTRL => -- R94
    ⟨0x1100000, [(4, 0x1000000), (8, 0x10000)], [⟨16, 16, .rw, .static, 0⟩, ⟨15, 8, .rw, .shadow, 255⟩,
      ⟨0, 0, .rw, .live, 1⟩]⟩
  | .DIST_STATUS => -- R95
    ⟨0x1100008, [(4, 0x1000000), (8, 0x10000)], [⟨47, 40, .ro, .none, 255⟩, ⟨39, 32, .ro, .none, 0⟩,
      ⟨19, 16, .ro, .none, 0⟩, ⟨8, 0, .ro, .none, 256⟩]⟩
  | .GAIT_CTRL => -- R355
    ⟨0x1100010, [(4, 0x1000000), (8, 0x10000)], [⟨47, 40, .rw, .static, 0⟩, ⟨39, 32, .rw, .static, 1⟩,
      ⟨31, 16, .rw, .static, 1⟩, ⟨15, 0, .rw, .static, 1⟩]⟩
  | .GAIT_STATUS => -- R355
    ⟨0x1100018, [(4, 0x1000000), (8, 0x10000)], [⟨63, 48, .ro, .none, 0⟩, ⟨47, 46, .ro, .none, 1⟩,
      ⟨45, 44, .ro, .none, 0⟩, ⟨43, 36, .ro, .none, 0⟩, ⟨31, 0, .ro, .none, 0⟩]⟩
  | .POST_WINDOW => -- R93
    ⟨0x1100040, [(4, 0x1000000), (8, 0x10000), (8, 0x8)], [⟨63, 0, .wo, .live, 0⟩]⟩
  | .POST_RESULT => -- R96
    ⟨0x1100080, [(4, 0x1000000), (8, 0x10000)], [⟨39, 32, .rc, .none, 0⟩, ⟨15, 0, .rc, .none, 0⟩]⟩
  | .SLOT_STATE => -- R97
    ⟨0x1101000, [(4, 0x1000000), (8, 0x10000), (256, 0x8)], [⟨63, 48, .ro, .none, 0⟩, ⟨47, 46, .ro, .none, 0⟩,
      ⟨45, 42, .ro, .none, 0⟩, ⟨41, 39, .ro, .none, 0⟩, ⟨38, 36, .ro, .none, 0⟩, ⟨31, 0, .ro, .none, 0⟩]⟩
  | .TOKEN_WORD => -- R99
    ⟨0x1200000, [(4, 0x1000000), (64, 0x1000), (16, 0x8)], [⟨63, 48, .ro, .none, 0⟩, ⟨47, 32, .ro, .none, 0⟩,
      ⟨31, 16, .ro, .none, 0⟩, ⟨15, 0, .ro, .none, 0⟩]⟩
  | .SYNC_STATUS => -- R100
    ⟨0x1200080, [(4, 0x1000000), (64, 0x1000)], [⟨25, 16, .ro, .none, 0⟩, ⟨6, 1, .ro, .none, 0⟩,
      ⟨0, 0, .w1c, .live, 0⟩]⟩
  | .TOKEN_POKE => -- R101
    ⟨0x1200088, [(4, 0x1000000), (64, 0x1000)], [⟨21, 16, .wo, .live, 0⟩, ⟨7, 0, .wo, .live, 0⟩]⟩
  | .SEQ_FAULT => -- R247
    ⟨0x1200090, [(4, 0x1000000), (64, 0x1000)], [⟨63, 63, .w1c, .live, 0⟩, ⟨47, 40, .ro, .none, 0⟩,
      ⟨39, 36, .ro, .none, 0⟩, ⟨35, 34, .ro, .none, 0⟩, ⟨33, 33, .ro, .none, 0⟩, ⟨32, 32, .ro, .none, 0⟩,
      ⟨15, 0, .ro, .none, 0⟩]⟩
  | .SEQ_FAULT_PC => -- R248
    ⟨0x1200098, [(4, 0x1000000), (64, 0x1000)], [⟨47, 0, .ro, .none, 0⟩]⟩
  | .ME_CTRL => -- R140
    ⟨0x1300000, [(4, 0x1000000), (128, 0x100)], [⟨28, 16, .rw, .live, 512⟩, ⟨8, 8, .rw, .static, 0⟩,
      ⟨3, 3, .rw, .static, 0⟩, ⟨2, 2, .rw, .static, 0⟩, ⟨1, 1, .rw, .static, 1⟩]⟩
  | .ME_STATUS => -- R141
    ⟨0x1300008, [(4, 0x1000000), (128, 0x100)], [⟨37, 32, .ro, .none, 0⟩, ⟨31, 16, .ro, .none, 0⟩,
      ⟨15, 12, .ro, .none, 0⟩, ⟨11, 10, .ro, .none, 0⟩, ⟨9, 8, .ro, .none, 0⟩, ⟨2, 0, .ro, .none, 0⟩]⟩
  | .BANK_STATUS0 => -- R118
    ⟨0x1300010, [(4, 0x1000000), (128, 0x100)], [⟨63, 46, .ro, .none, 0⟩, ⟨45, 43, .ro, .none, 0⟩,
      ⟨42, 42, .ro, .none, 0⟩, ⟨41, 41, .ro, .none, 0⟩, ⟨40, 34, .ro, .none, 0⟩, ⟨33, 20, .ro, .none, 0⟩,
      ⟨19, 18, .ro, .none, 0⟩, ⟨17, 17, .ro, .none, 0⟩, ⟨16, 16, .ro, .none, 0⟩, ⟨15, 15, .ro, .none, 0⟩]⟩
  | .BANK_STATUS1 => -- R118
    ⟨0x1300018, [(4, 0x1000000), (128, 0x100)], [⟨63, 46, .ro, .none, 0⟩, ⟨45, 43, .ro, .none, 0⟩,
      ⟨42, 42, .ro, .none, 0⟩, ⟨41, 41, .ro, .none, 0⟩, ⟨40, 34, .ro, .none, 0⟩, ⟨33, 20, .ro, .none, 0⟩,
      ⟨19, 18, .ro, .none, 0⟩, ⟨17, 17, .ro, .none, 0⟩, ⟨16, 16, .ro, .none, 0⟩, ⟨15, 15, .ro, .none, 0⟩]⟩
  | .RAMP_CTRL => -- R142
    ⟨0x1310000, [(4, 0x1000000)], [⟨31, 16, .rw, .live, 210⟩, ⟨5, 0, .rw, .live, 45⟩]⟩
  | .RAMP_STATUS => -- R143
    ⟨0x1310008, [(4, 0x1000000)], [⟨63, 32, .rc, .none, 0⟩, ⟨31, 16, .ro, .none, 0⟩, ⟨0, 0, .ro, .none, 0⟩]⟩
  | .RELAY_CTRL => -- R196
    ⟨0x1320000, [(4, 0x1000000), (8, 0x100)], [⟨31, 16, .rw, .live, 1024⟩, ⟨0, 0, .rw, .static, 0⟩]⟩
  | .RELAY_STATUS => -- R197
    ⟨0x1320008, [(4, 0x1000000), (8, 0x100)], [⟨63, 48, .rc, .none, 0⟩, ⟨39, 32, .ro, .none, 0⟩,
      ⟨21, 21, .ro, .none, 0⟩, ⟨20, 16, .ro, .none, 16⟩, ⟨15, 0, .ro, .none, 65535⟩]⟩
  | .VE_CTRL => -- R214
    ⟨0x1330000, [(4, 0x1000000), (64, 0x40)], [⟨0, 0, .rw, .static, 0⟩]⟩
  | .VE_STATUS => -- R215
    ⟨0x1330008, [(4, 0x1000000), (64, 0x40)], [⟨37, 32, .ro, .none, 0⟩, ⟨31, 16, .ro, .none, 0⟩,
      ⟨2, 0, .ro, .none, 0⟩]⟩
  | .FUNC_TABLE_ID => -- R216
    ⟨0x1331000, [(4, 0x1000000)], [⟨63, 32, .ro, .none, 0⟩, ⟨15, 0, .ro, .none, 0⟩]⟩
  | .DCACHE_CTRL => -- R288
    ⟨0x1400000, [(4, 0x1000000)], [⟨1, 0, .rw, .static, 0⟩]⟩
  | .MEM_STATUS => -- R289
    ⟨0x1400008, [(4, 0x1000000)], [⟨63, 48, .ro, .none, 0⟩, ⟨47, 32, .ro, .none, 0⟩, ⟨23, 16, .ro, .none, 0⟩,
      ⟨0, 0, .ro, .none, 0⟩]⟩
  | .XLATE_ROOT => -- R290
    ⟨0x1400040, [(4, 0x1000000)], [⟨47, 12, .rw, .static, 0⟩]⟩
  | .XLATE_INVAL => -- R291
    ⟨0x1400048, [(4, 0x1000000)], [⟨63, 48, .rw, .live, 0⟩, ⟨47, 21, .rw, .live, 0⟩, ⟨2, 2, .rw, .live, 0⟩,
      ⟨1, 1, .ro, .none, 0⟩, ⟨0, 0, .wo, .live, 0⟩]⟩
  | .MEM_ERR_CTRL => -- R292
    ⟨0x1400080, [(4, 0x1000000)], [⟨39, 32, .rw, .live, 24⟩, ⟨31, 0, .rw, .live, 1024⟩]⟩
  | .MEM_ERR_STATUS => -- R293
    ⟨0x1400088, [(4, 0x1000000)], [⟨63, 32, .rc, .none, 0⟩, ⟨31, 0, .rc, .none, 0⟩]⟩
  | .UE_LOG => -- R294
    ⟨0x1400090, [(4, 0x1000000)], [⟨63, 61, .rc, .none, 0⟩, ⟨60, 60, .rc, .none, 0⟩, ⟨47, 0, .rc, .none, 0⟩]⟩
  | .PAGER_CTRL => -- R295
    ⟨0x1400100, [(4, 0x1000000)], [⟨63, 32, .rw, .live, 100000⟩, ⟨0, 0, .rw, .live, 1⟩]⟩
  | .PAGER_ARENA => -- R296
    ⟨0x1400108, [(4, 0x1000000)], [⟨47, 30, .rw, .static, 0⟩, ⟨29, 14, .rw, .static, 0⟩, ⟨0, 0, .rw, .static, 0⟩]⟩
  | .PAGER_POOL => -- R297
    ⟨0x1400110, [(4, 0x1000000)], [⟨47, 21, .rw, .static, 0⟩, ⟨20, 1, .rw, .static, 0⟩]⟩
  | .PAGER_RESERVE => -- R297
    ⟨0x1400118, [(4, 0x1000000)], [⟨47, 21, .ro, .none, 0⟩, ⟨20, 1, .ro, .none, 0⟩]⟩
  | .PAGER_STATUS => -- R298
    ⟨0x1400120, [(4, 0x1000000)], [⟨63, 48, .ro, .none, 0⟩, ⟨47, 24, .ro, .none, 0⟩, ⟨19, 0, .ro, .none, 0⟩]⟩
  | .HANDLE_STATE => -- R299
    ⟨0x1410000, [(4, 0x1000000), (16384, 0x8)], [⟨63, 40, .ro, .none, 0⟩, ⟨39, 20, .ro, .none, 0⟩,
      ⟨7, 7, .ro, .none, 0⟩, ⟨6, 6, .ro, .none, 0⟩, ⟨5, 5, .ro, .none, 0⟩, ⟨4, 4, .ro, .none, 0⟩,
      ⟨2, 0, .ro, .none, 0⟩]⟩
  | .MOVER_CTRL => -- R327
    ⟨0x1500000, [(4, 0x1000000)], [⟨12, 0, .rw, .live, 256⟩]⟩
  | .MOVER_STATUS => -- R328
    ⟨0x1500008, [(4, 0x1000000)], [⟨47, 32, .ro, .none, 0⟩, ⟨28, 16, .rc, .none, 0⟩, ⟨12, 0, .ro, .none, 0⟩]⟩
  | .MOVER_ERRORS => -- R329
    ⟨0x1500010, [(4, 0x1000000)], [⟨63, 48, .rc, .none, 0⟩, ⟨47, 32, .rc, .none, 0⟩, ⟨31, 16, .rc, .none, 0⟩,
      ⟨15, 0, .rc, .none, 0⟩]⟩
  | .UPD_RING => -- R356
    ⟨0x1600000, [(4, 0x1000000)], [⟨47, 12, .rw, .static, 0⟩, ⟨4, 1, .rw, .static, 4⟩, ⟨0, 0, .rw, .static, 0⟩]⟩
  | .UPD_STATUS => -- R356
    ⟨0x1600008, [(4, 0x1000000)], [⟨63, 32, .ro, .none, 0⟩, ⟨31, 16, .ro, .none, 0⟩, ⟨3, 3, .ro, .none, 0⟩,
      ⟨2, 0, .ro, .none, 0⟩]⟩
  | .UPD_COUNTS => -- R356
    ⟨0x1600010, [(4, 0x1000000)], [⟨63, 32, .rc, .none, 0⟩, ⟨31, 0, .rc, .none, 0⟩]⟩
  | .ARB_CTRL => -- R419
    ⟨0x1700000, [(4, 0x1000000), (81, 0x800)], [⟨15, 11, .rw, .group, 1⟩, ⟨10, 4, .rw, .group, 64⟩,
      ⟨3, 2, .rw, .group, 0⟩, ⟨1, 0, .rw, .group, 2⟩]⟩
  | .ARB_CTRL_ACTIVE => -- R418
    ⟨0x1700008, [(4, 0x1000000), (81, 0x800)], [⟨15, 11, .ro, .none, 1⟩, ⟨10, 4, .ro, .none, 64⟩,
      ⟨3, 2, .ro, .none, 0⟩, ⟨1, 0, .ro, .none, 2⟩]⟩
  | .ARB_COMMIT => -- R420
    ⟨0x1700010, [(4, 0x1000000), (81, 0x800)], [⟨31, 16, .ro, .none, 0⟩, ⟨1, 1, .ro, .none, 0⟩,
      ⟨0, 0, .wo, .live, 0⟩]⟩
  | .ARB_STATUS => -- R421
    ⟨0x1700018, [(4, 0x1000000), (81, 0x800)], [⟨63, 48, .rc, .none, 0⟩, ⟨47, 43, .ro, .none, 0⟩,
      ⟨27, 16, .w1c, .live, 0⟩, ⟨15, 0, .rc, .none, 0⟩]⟩
  | .ARB_STARVE => -- R422
    ⟨0x1700020, [(4, 0x1000000), (81, 0x800)], [⟨16, 16, .rw, .live, 1⟩, ⟨15, 0, .rw, .live, 4096⟩]⟩
  | .SLOT_PAIR => -- R418
    ⟨0x1700100, [(4, 0x1000000), (81, 0x800), (32, 0x8)], [⟨63, 63, .rw, .group, 0⟩, ⟨62, 62, .rw, .group, 0⟩,
      ⟨59, 56, .rw, .group, 0⟩, ⟨47, 32, .rw, .group, 0⟩, ⟨31, 31, .rw, .group, 0⟩, ⟨30, 30, .rw, .group, 0⟩,
      ⟨27, 24, .rw, .group, 0⟩, ⟨15, 0, .rw, .group, 0⟩]⟩
  | .SLOT_PAIR_ACTIVE => -- R418
    ⟨0x1700200, [(4, 0x1000000), (81, 0x800), (32, 0x8)], [⟨63, 63, .ro, .none, 0⟩, ⟨62, 62, .ro, .none, 0⟩,
      ⟨59, 56, .ro, .none, 0⟩, ⟨47, 32, .ro, .none, 0⟩, ⟨31, 31, .ro, .none, 0⟩, ⟨30, 30, .ro, .none, 0⟩,
      ⟨27, 24, .ro, .none, 0⟩, ⟨15, 0, .ro, .none, 0⟩]⟩
  | .PAIR_CTRL => -- R452
    ⟨0x1800000, [(4, 0x1000000), (4, 0x8)], [⟨16, 16, .rw, .static, 0⟩, ⟨15, 8, .rw, .static, 0⟩,
      ⟨5, 3, .rw, .static, 0⟩, ⟨2, 0, .rw, .static, 0⟩]⟩
  | .RECOVERY_AREA => -- R487
    ⟨0x1900000, [(4, 0x1000000)], [⟨47, 25, .rw, .static, 0⟩, ⟨0, 0, .rw, .static, 0⟩]⟩
  | .FARRIER_CTRL => -- R487
    ⟨0x1900008, [(4, 0x1000000)], [⟨63, 48, .rw, .live, 360⟩, ⟨47, 32, .rw, .live, 30⟩, ⟨0, 0, .rw, .live, 1⟩]⟩
  | .FARRIER_ORDER => -- R487
    ⟨0x1900010, [(4, 0x1000000)], [⟨9, 8, .wo, .live, 0⟩, ⟨5, 0, .wo, .live, 0⟩]⟩
  | .FARRIER_STATUS => -- R487
    ⟨0x1900018, [(4, 0x1000000)], [⟨63, 48, .rc, .none, 0⟩, ⟨47, 32, .ro, .none, 0⟩, ⟨31, 26, .ro, .none, 0⟩,
      ⟨25, 25, .ro, .none, 0⟩, ⟨24, 19, .ro, .none, 0⟩, ⟨6, 0, .ro, .none, 0⟩]⟩
  | .FARRIER_OVERDUE => -- R487
    ⟨0x1900020, [(4, 0x1000000)], [⟨63, 0, .ro, .none, 0⟩]⟩
  | .CORE_PLACE => -- R487
    ⟨0x1900040, [(4, 0x1000000), (8, 0x8)], [⟨23, 0, .ro, .none, 16434824⟩]⟩
  | .SECURE_TABLE => -- R488
    ⟨0x1a00000, [(4, 0x1000000)], [⟨62, 56, .rw, .static, 0⟩, ⟨47, 6, .rw, .static, 0⟩]⟩
  | .SECURE_DEST => -- R488
    ⟨0x1a00008, [(4, 0x1000000)], [⟨63, 48, .rw, .static, 0⟩, ⟨47, 12, .rw, .static, 0⟩]⟩
  | .SECURE_SLOT => -- R488
    ⟨0x1a00010, [(4, 0x1000000)], [⟨63, 62, .rw, .static, 0⟩, ⟨35, 0, .rw, .static, 0⟩]⟩
  | .SECURE_STATUS => -- R488
    ⟨0x1a00018, [(4, 0x1000000)], [⟨63, 32, .ro, .none, 0⟩, ⟨31, 16, .ro, .none, 0⟩, ⟨2, 2, .ro, .none, 0⟩,
      ⟨1, 0, .ro, .none, 0⟩]⟩
  | .REMOUNT_SRC => -- R488
    ⟨0x1a00020, [(4, 0x1000000)], [⟨47, 12, .rw, .static, 0⟩]⟩
  | .REMOUNT_CTRL => -- R488
    ⟨0x1a00028, [(4, 0x1000000)], [⟨63, 48, .rw, .static, 65535⟩, ⟨47, 32, .rw, .static, 0⟩,
      ⟨31, 30, .rw, .static, 0⟩, ⟨0, 0, .wo, .live, 0⟩]⟩
  | .REMOUNT_STATUS => -- R488
    ⟨0x1a00030, [(4, 0x1000000)], [⟨63, 32, .ro, .none, 0⟩, ⟨31, 16, .ro, .none, 0⟩, ⟨0, 0, .ro, .none, 0⟩]⟩
  | .FAB_NODE => -- R395
    ⟨0x5000000, [], [⟨15, 0, .rw, .static, 65535⟩]⟩
  | .EPOCH_CTRL => -- R396
    ⟨0x5000008, [], [⟨1, 1, .ro, .none, 0⟩, ⟨0, 0, .ro, .none, 0⟩]⟩
  | .EPOCH_FLIP_AT => -- R397
    ⟨0x5000010, [], [⟨63, 0, .rw, .live, 0⟩]⟩
  | .PORT_CTRL => -- R398
    ⟨0x5010000, [(24, 0x100)], [⟨2, 1, .rw, .static, 0⟩, ⟨0, 0, .rw, .live, 0⟩]⟩
  | .PORT_STATUS => -- R399
    ⟨0x5010008, [(24, 0x100)], [⟨63, 48, .ro, .none, 65535⟩, ⟨47, 43, .ro, .none, 0⟩, ⟨39, 32, .ro, .none, 0⟩,
      ⟨31, 16, .rc, .none, 0⟩, ⟨7, 6, .ro, .none, 0⟩, ⟨2, 0, .ro, .none, 0⟩]⟩
  | .RT_CTRL => -- R400
    ⟨0x5020000, [(4, 0x100)], [⟨17, 16, .wo, .live, 0⟩, ⟨13, 8, .rw, .live, 0⟩, ⟨5, 0, .rw, .live, 0⟩]⟩
  | .RT_STATUS => -- R401
    ⟨0x5020008, [(4, 0x100)], [⟨31, 16, .rc, .none, 0⟩, ⟨13, 8, .ro, .none, 0⟩, ⟨5, 4, .ro, .none, 0⟩,
      ⟨1, 0, .ro, .none, 0⟩]⟩
  | .E2E_CTRL => -- R402
    ⟨0x5020010, [(4, 0x100)], [⟨63, 48, .rw, .live, 40⟩, ⟨47, 40, .rw, .live, 8⟩, ⟨39, 32, .rw, .live, 20⟩,
      ⟨31, 16, .rw, .live, 1000⟩, ⟨15, 8, .rw, .live, 12⟩]⟩
  | .FAB_DROPS => -- R403
    ⟨0x5020018, [(4, 0x100)], [⟨63, 48, .rc, .none, 0⟩, ⟨47, 32, .rc, .none, 0⟩, ⟨31, 16, .rc, .none, 0⟩,
      ⟨15, 0, .rc, .none, 0⟩]⟩
  | .ROUTE => -- R368
    ⟨0x5100000, [(4, 0x80000), (2, 0x40000), (32768, 0x8)], [⟨63, 63, .rw, .live, 0⟩, ⟨61, 56, .rw, .live, 0⟩,
      ⟨54, 52, .rw, .live, 0⟩, ⟨50, 48, .rw, .live, 0⟩, ⟨31, 31, .rw, .live, 0⟩, ⟨29, 24, .rw, .live, 0⟩,
      ⟨22, 20, .rw, .live, 0⟩, ⟨18, 16, .rw, .live, 0⟩]⟩
  | .CIRCUIT => -- R404
    ⟨0x5300000, [(4, 0x10000), (1024, 0x8)], [⟨39, 39, .rw, .live, 0⟩, ⟨38, 38, .rw, .live, 0⟩,
      ⟨37, 35, .rw, .live, 0⟩, ⟨31, 16, .rw, .live, 0⟩, ⟨15, 0, .rw, .live, 0⟩]⟩
  | .HOST_PORT_STATUS => -- R511
    ⟨0x6000000, [(2, 0x100000)], [⟨15, 8, .ro, .none, 0⟩, ⟨7, 4, .ro, .none, 0⟩, ⟨0, 0, .ro, .none, 0⟩]⟩
  | .BAR2_CTRL => -- R511
    ⟨0x6000008, [(2, 0x100000)], [⟨47, 30, .rw, .live, 0⟩, ⟨1, 1, .rw, .live, 0⟩, ⟨0, 0, .rw, .live, 0⟩]⟩
  | .STREAM_RING => -- R511
    ⟨0x6010000, [(2, 0x100000), (4096, 0x20)], [⟨63, 12, .rw, .static, 0⟩, ⟨4, 1, .rw, .static, 4⟩,
      ⟨0, 0, .rw, .live, 0⟩]⟩
  | .STREAM_CPL => -- R511
    ⟨0x6010008, [(2, 0x100000), (4096, 0x20)], [⟨63, 12, .rw, .static, 0⟩, ⟨11, 11, .rw, .live, 0⟩,
      ⟨10, 0, .rw, .live, 0⟩]⟩
  | .STREAM_STATUS => -- R511
    ⟨0x6010010, [(2, 0x100000), (4096, 0x20)], [⟨63, 32, .ro, .none, 0⟩, ⟨31, 16, .ro, .none, 0⟩,
      ⟨1, 0, .ro, .none, 0⟩]⟩
  | .TRACE_CTRL => -- R591
    ⟨0x7000000, [(4, 0x100)], [⟨31, 16, .rw, .live, 24⟩, ⟨1, 1, .rw, .static, 0⟩, ⟨0, 0, .rw, .live, 0⟩]⟩
  | .TRACE_BASE => -- R591
    ⟨0x7000008, [(4, 0x100)], [⟨47, 12, .rw, .static, 0⟩]⟩
  | .TRACE_SIZE => -- R591
    ⟨0x7000010, [(4, 0x100)], [⟨31, 0, .rw, .static, 0⟩]⟩
  | .TRACE_HEAD => -- R591
    ⟨0x7000018, [(4, 0x100)], [⟨63, 0, .ro, .none, 0⟩]⟩
  | .TRACE_STATUS => -- R591
    ⟨0x7000020, [(4, 0x100)], [⟨63, 32, .rc, .none, 0⟩, ⟨31, 16, .ro, .none, 0⟩, ⟨1, 1, .ro, .none, 0⟩,
      ⟨0, 0, .ro, .none, 0⟩]⟩
  | .DBG_CTRL => -- R597
    ⟨0x7100000, [(256, 0x100)], [⟨3, 3, .rw, .live, 0⟩, ⟨2, 0, .wo, .live, 0⟩]⟩
  | .DBG_STATUS => -- R597
    ⟨0x7100008, [(256, 0x100)], [⟨63, 16, .ro, .none, 0⟩, ⟨7, 4, .ro, .none, 0⟩, ⟨3, 3, .ro, .none, 0⟩,
      ⟨1, 1, .ro, .none, 0⟩, ⟨0, 0, .ro, .none, 0⟩]⟩
  | .DBG_BP => -- R597
    ⟨0x7100010, [(256, 0x100), (4, 0x8)], [⟨47, 3, .rw, .live, 0⟩, ⟨0, 0, .rw, .live, 0⟩]⟩
  | .DBG_SNAP => -- R597
    ⟨0x7100030, [(256, 0x100)], [⟨47, 10, .rw, .live, 0⟩, ⟨0, 0, .wo, .live, 0⟩]⟩

/-- Every register, in offset order of the tables. -/
def Reg.all : List Reg :=
  [.PKG_SERIAL, .PART_INFO, .LEASE_CTRL, .LEASE_STATUS, .LEASE_EXPIRES, .LEASE_ACTION, .ORDER_RESULT,
   .VIEW_SEL, .EVQ_BASE, .EVQ_HEAD, .EVQ_STATUS, .MERIDIAN, .JOB_OFFSET, .TIME_CTRL, .TIME_STATUS,
   .REPRO_CTRL, .TANDEM_CTRL, .TANDEM_STATUS, .TANDEM_KEY, .RECOVERY_CTRL, .PARTNER_CTRL, .PARTNER_STATUS,
   .COUNTER, .COUNTER_LATCHED, .COUNTER_SNAP, .SNAP_TIME, .START_STATUS, .START_CTRL, .FW_STATUS, .FW_FLOORS,
   .FW_UPDATE, .SIGNED_CTRL, .DEBUG_NONCE, .SIGNED_WINDOW, .POWER_CTRL, .POWER_STATUS, .THERM_CTRL, .PD_CTRL,
   .PD_STATUS, .CLUSTER_POWER, .DIE_TEMP, .RAIL_STATUS, .DIE_IDENT, .BASE_SERIAL, .COMPUTE_SERIAL,
   .STACK_SERIAL, .EDGE_STATUS, .DISABLED_MAP, .REPAIR_MAP, .DIST_CTRL, .DIST_STATUS, .GAIT_CTRL,
   .GAIT_STATUS, .POST_WINDOW, .POST_RESULT, .SLOT_STATE, .TOKEN_WORD, .SYNC_STATUS, .TOKEN_POKE, .SEQ_FAULT,
   .SEQ_FAULT_PC, .ME_CTRL, .ME_STATUS, .BANK_STATUS0, .BANK_STATUS1, .RAMP_CTRL, .RAMP_STATUS, .RELAY_CTRL,
   .RELAY_STATUS, .VE_CTRL, .VE_STATUS, .FUNC_TABLE_ID, .DCACHE_CTRL, .MEM_STATUS, .XLATE_ROOT, .XLATE_INVAL,
   .MEM_ERR_CTRL, .MEM_ERR_STATUS, .UE_LOG, .PAGER_CTRL, .PAGER_ARENA, .PAGER_POOL, .PAGER_RESERVE,
   .PAGER_STATUS, .HANDLE_STATE, .MOVER_CTRL, .MOVER_STATUS, .MOVER_ERRORS, .UPD_RING, .UPD_STATUS,
   .UPD_COUNTS, .ARB_CTRL, .ARB_CTRL_ACTIVE, .ARB_COMMIT, .ARB_STATUS, .ARB_STARVE, .SLOT_PAIR,
   .SLOT_PAIR_ACTIVE, .PAIR_CTRL, .RECOVERY_AREA, .FARRIER_CTRL, .FARRIER_ORDER, .FARRIER_STATUS,
   .FARRIER_OVERDUE, .CORE_PLACE, .SECURE_TABLE, .SECURE_DEST, .SECURE_SLOT, .SECURE_STATUS, .REMOUNT_SRC,
   .REMOUNT_CTRL, .REMOUNT_STATUS, .FAB_NODE, .EPOCH_CTRL, .EPOCH_FLIP_AT, .PORT_CTRL, .PORT_STATUS,
   .RT_CTRL, .RT_STATUS, .E2E_CTRL, .FAB_DROPS, .ROUTE, .CIRCUIT, .HOST_PORT_STATUS, .BAR2_CTRL,
   .STREAM_RING, .STREAM_CPL, .STREAM_STATUS, .TRACE_CTRL, .TRACE_BASE, .TRACE_SIZE, .TRACE_HEAD,
   .TRACE_STATUS, .DBG_CTRL, .DBG_STATUS, .DBG_BP, .DBG_SNAP]

/-! The named fields, as `Fld.<REGISTER>.<FIELD>`. -/

def Fld.PKG_SERIAL.SERIAL : Fld := ⟨.PKG_SERIAL, 63, 0⟩
def Fld.PART_INFO.GRADE : Fld := ⟨.PART_INFO, 63, 48⟩
def Fld.PART_INFO.FW_VERSION : Fld := ⟨.PART_INFO, 31, 0⟩
def Fld.LEASE_CTRL.PERIOD_MS : Fld := ⟨.LEASE_CTRL, 15, 0⟩
def Fld.LEASE_STATUS.GEN : Fld := ⟨.LEASE_STATUS, 63, 32⟩
def Fld.LEASE_STATUS.EXPIRED : Fld := ⟨.LEASE_STATUS, 2, 2⟩
def Fld.LEASE_STATUS.HOLDER : Fld := ⟨.LEASE_STATUS, 1, 0⟩
def Fld.LEASE_EXPIRES.EXPIRES : Fld := ⟨.LEASE_EXPIRES, 63, 0⟩
def Fld.LEASE_ACTION.ACTION : Fld := ⟨.LEASE_ACTION, 1, 0⟩
def Fld.ORDER_RESULT.FAIL_OFFSET : Fld := ⟨.ORDER_RESULT, 63, 40⟩
def Fld.ORDER_RESULT.FAIL_COUNT : Fld := ⟨.ORDER_RESULT, 39, 32⟩
def Fld.ORDER_RESULT.FAIL_STATUS : Fld := ⟨.ORDER_RESULT, 31, 16⟩
def Fld.ORDER_RESULT.LAST_STATUS : Fld := ⟨.ORDER_RESULT, 15, 0⟩
def Fld.VIEW_SEL.STAGED : Fld := ⟨.VIEW_SEL, 0, 0⟩
def Fld.EVQ_BASE.ADDR : Fld := ⟨.EVQ_BASE, 63, 12⟩
def Fld.EVQ_BASE.ENABLE : Fld := ⟨.EVQ_BASE, 4, 4⟩
def Fld.EVQ_BASE.SIZE_LOG2 : Fld := ⟨.EVQ_BASE, 3, 0⟩
def Fld.EVQ_HEAD.PRODUCER : Fld := ⟨.EVQ_HEAD, 63, 32⟩
def Fld.EVQ_HEAD.CONSUMER : Fld := ⟨.EVQ_HEAD, 31, 0⟩
def Fld.EVQ_STATUS.DROPPED : Fld := ⟨.EVQ_STATUS, 63, 32⟩
def Fld.MERIDIAN.COUNT : Fld := ⟨.MERIDIAN, 63, 0⟩
def Fld.JOB_OFFSET.OFFSET : Fld := ⟨.JOB_OFFSET, 63, 0⟩
def Fld.TIME_CTRL.SURVEY_LIMIT_MS : Fld := ⟨.TIME_CTRL, 47, 32⟩
def Fld.TIME_CTRL.PARENT_PORT : Fld := ⟨.TIME_CTRL, 12, 8⟩
def Fld.TIME_CTRL.LOCK_EN : Fld := ⟨.TIME_CTRL, 4, 4⟩
def Fld.TIME_CTRL.GO : Fld := ⟨.TIME_CTRL, 2, 2⟩
def Fld.TIME_CTRL.ROLE : Fld := ⟨.TIME_CTRL, 1, 0⟩
def Fld.TIME_STATUS.ERROR_BOUND_NS : Fld := ⟨.TIME_STATUS, 63, 48⟩
def Fld.TIME_STATUS.DEPTH : Fld := ⟨.TIME_STATUS, 47, 40⟩
def Fld.TIME_STATUS.SURVEY_STATUS : Fld := ⟨.TIME_STATUS, 39, 24⟩
def Fld.TIME_STATUS.LOCK : Fld := ⟨.TIME_STATUS, 6, 4⟩
def Fld.TIME_STATUS.SLEWING : Fld := ⟨.TIME_STATUS, 3, 3⟩
def Fld.TIME_STATUS.SURVEY_BUSY : Fld := ⟨.TIME_STATUS, 2, 2⟩
def Fld.TIME_STATUS.JOB_TIME_VALID : Fld := ⟨.TIME_STATUS, 0, 0⟩
def Fld.REPRO_CTRL.FORCE_DENY_ORDER_DEP : Fld := ⟨.REPRO_CTRL, 0, 0⟩
def Fld.TANDEM_CTRL.PEER_NODE : Fld := ⟨.TANDEM_CTRL, 63, 48⟩
def Fld.TANDEM_CTRL.WAIT_MS : Fld := ⟨.TANDEM_CTRL, 47, 32⟩
def Fld.TANDEM_CTRL.INTERVAL_EVENTS : Fld := ⟨.TANDEM_CTRL, 31, 16⟩
def Fld.TANDEM_CTRL.RELEASE : Fld := ⟨.TANDEM_CTRL, 1, 1⟩
def Fld.TANDEM_CTRL.ENABLE : Fld := ⟨.TANDEM_CTRL, 0, 0⟩
def Fld.TANDEM_STATUS.UNMATCHED : Fld := ⟨.TANDEM_STATUS, 63, 51⟩
def Fld.TANDEM_STATUS.MISMATCH_STATUS : Fld := ⟨.TANDEM_STATUS, 47, 32⟩
def Fld.TANDEM_STATUS.MISMATCH_INTERVAL : Fld := ⟨.TANDEM_STATUS, 31, 8⟩
def Fld.TANDEM_STATUS.PEER_REPORTED : Fld := ⟨.TANDEM_STATUS, 2, 2⟩
def Fld.TANDEM_STATUS.HALTED : Fld := ⟨.TANDEM_STATUS, 1, 1⟩
def Fld.TANDEM_STATUS.MISMATCH : Fld := ⟨.TANDEM_STATUS, 0, 0⟩
def Fld.TANDEM_KEY.KEY : Fld := ⟨.TANDEM_KEY, 63, 0⟩
def Fld.RECOVERY_CTRL.HELPER_WAIT_MS : Fld := ⟨.RECOVERY_CTRL, 31, 16⟩
def Fld.RECOVERY_CTRL.SUSPECT_WINDOW_H : Fld := ⟨.RECOVERY_CTRL, 15, 8⟩
def Fld.RECOVERY_CTRL.REPLAY_EN : Fld := ⟨.RECOVERY_CTRL, 0, 0⟩
def Fld.PARTNER_CTRL.PEER_NODE : Fld := ⟨.PARTNER_CTRL, 63, 48⟩
def Fld.PARTNER_CTRL.SECURE_EVERY : Fld := ⟨.PARTNER_CTRL, 47, 32⟩
def Fld.PARTNER_CTRL.STEP_CLUSTER : Fld := ⟨.PARTNER_CTRL, 31, 27⟩
def Fld.PARTNER_CTRL.FORCE : Fld := ⟨.PARTNER_CTRL, 2, 2⟩
def Fld.PARTNER_CTRL.DUAL : Fld := ⟨.PARTNER_CTRL, 1, 1⟩
def Fld.PARTNER_CTRL.ENABLE : Fld := ⟨.PARTNER_CTRL, 0, 0⟩
def Fld.PARTNER_STATUS.LAST_STEP : Fld := ⟨.PARTNER_STATUS, 63, 32⟩
def Fld.PARTNER_STATUS.PAIR_STATUS : Fld := ⟨.PARTNER_STATUS, 31, 16⟩
def Fld.PARTNER_STATUS.PEER_FEED : Fld := ⟨.PARTNER_STATUS, 15, 12⟩
def Fld.PARTNER_STATUS.FEED_ID : Fld := ⟨.PARTNER_STATUS, 11, 8⟩
def Fld.PARTNER_STATUS.FORCED : Fld := ⟨.PARTNER_STATUS, 7, 7⟩
def Fld.PARTNER_STATUS.LAST_SLOT : Fld := ⟨.PARTNER_STATUS, 6, 6⟩
def Fld.PARTNER_STATUS.PEER_LOST : Fld := ⟨.PARTNER_STATUS, 5, 5⟩
def Fld.PARTNER_STATUS.STATE : Fld := ⟨.PARTNER_STATUS, 1, 0⟩
def Fld.COUNTER.COUNT : Fld := ⟨.COUNTER, 47, 0⟩
def Fld.COUNTER_LATCHED.COUNT : Fld := ⟨.COUNTER_LATCHED, 47, 0⟩
def Fld.COUNTER_SNAP.PENDING : Fld := ⟨.COUNTER_SNAP, 1, 1⟩
def Fld.COUNTER_SNAP.GO : Fld := ⟨.COUNTER_SNAP, 0, 0⟩
def Fld.SNAP_TIME.TIME : Fld := ⟨.SNAP_TIME, 63, 0⟩
def Fld.START_STATUS.FAIL_COUNT : Fld := ⟨.START_STATUS, 55, 48⟩
def Fld.START_STATUS.STOP_STATUS : Fld := ⟨.START_STATUS, 47, 32⟩
def Fld.START_STATUS.STOP_STEP : Fld := ⟨.START_STATUS, 31, 28⟩
def Fld.START_STATUS.STEP : Fld := ⟨.START_STATUS, 27, 24⟩
def Fld.START_STATUS.SAFE_MODE : Fld := ⟨.START_STATUS, 23, 23⟩
def Fld.START_STATUS.LOG_TORN : Fld := ⟨.START_STATUS, 22, 22⟩
def Fld.START_STATUS.SURVEY_CHANGED : Fld := ⟨.START_STATUS, 21, 21⟩
def Fld.START_STATUS.START_RETIRED : Fld := ⟨.START_STATUS, 20, 20⟩
def Fld.START_STATUS.ABANDONED_WARM : Fld := ⟨.START_STATUS, 19, 19⟩
def Fld.START_STATUS.PENDING_REJECTED : Fld := ⟨.START_STATUS, 18, 18⟩
def Fld.START_STATUS.DEBUG_SCOPE : Fld := ⟨.START_STATUS, 17, 15⟩
def Fld.START_STATUS.DEBUG_OPEN : Fld := ⟨.START_STATUS, 14, 14⟩
def Fld.START_STATUS.READY : Fld := ⟨.START_STATUS, 0, 0⟩
def Fld.START_CTRL.ROOT : Fld := ⟨.START_CTRL, 15, 8⟩
def Fld.START_CTRL.ACTION : Fld := ⟨.START_CTRL, 2, 0⟩
def Fld.FW_STATUS.UPDATE_STATUS : Fld := ⟨.FW_STATUS, 63, 48⟩
def Fld.FW_STATUS.UPDATE_KIB : Fld := ⟨.FW_STATUS, 47, 32⟩
def Fld.FW_STATUS.UPDATE_STATE : Fld := ⟨.FW_STATUS, 7, 6⟩
def Fld.FW_STATUS.PENDING_SLOT : Fld := ⟨.FW_STATUS, 5, 4⟩
def Fld.FW_STATUS.ACTIVE_SLOT : Fld := ⟨.FW_STATUS, 3, 2⟩
def Fld.FW_STATUS.RUNNING_SLOT : Fld := ⟨.FW_STATUS, 1, 0⟩
def Fld.FW_FLOORS.ROLLBACK_FLOOR : Fld := ⟨.FW_FLOORS, 63, 32⟩
def Fld.FW_FLOORS.ROOT_FLOOR : Fld := ⟨.FW_FLOORS, 31, 0⟩
def Fld.FW_UPDATE.SRC : Fld := ⟨.FW_UPDATE, 47, 12⟩
def Fld.FW_UPDATE.TARGET : Fld := ⟨.FW_UPDATE, 1, 1⟩
def Fld.FW_UPDATE.GO : Fld := ⟨.FW_UPDATE, 0, 0⟩
def Fld.SIGNED_CTRL.SIGNED_STATUS : Fld := ⟨.SIGNED_CTRL, 31, 16⟩
def Fld.SIGNED_CTRL.SUBMIT : Fld := ⟨.SIGNED_CTRL, 0, 0⟩
def Fld.DEBUG_NONCE.NONCE : Fld := ⟨.DEBUG_NONCE, 63, 0⟩
def Fld.SIGNED_WINDOW.BYTES_HI : Fld := ⟨.SIGNED_WINDOW, 63, 32⟩
def Fld.SIGNED_WINDOW.BYTES_LO : Fld := ⟨.SIGNED_WINDOW, 31, 0⟩
def Fld.POWER_CTRL.POWER_CAP_W : Fld := ⟨.POWER_CTRL, 42, 32⟩
def Fld.POWER_CTRL.THROTTLE_LEVEL : Fld := ⟨.POWER_CTRL, 28, 24⟩
def Fld.POWER_CTRL.MAX_LEVEL : Fld := ⟨.POWER_CTRL, 20, 16⟩
def Fld.POWER_STATUS.PKG_POWER_W : Fld := ⟨.POWER_STATUS, 63, 48⟩
def Fld.POWER_STATUS.PEAK_POWER_W : Fld := ⟨.POWER_STATUS, 47, 32⟩
def Fld.POWER_STATUS.REASONS : Fld := ⟨.POWER_STATUS, 23, 16⟩
def Fld.POWER_STATUS.MIN_LEVEL : Fld := ⟨.POWER_STATUS, 4, 0⟩
def Fld.THERM_CTRL.STACK_THROTTLE_C : Fld := ⟨.THERM_CTRL, 15, 8⟩
def Fld.THERM_CTRL.THROTTLE_C : Fld := ⟨.THERM_CTRL, 7, 0⟩
def Fld.PD_CTRL.BANK_ON : Fld := ⟨.PD_CTRL, 35, 32⟩
def Fld.PD_CTRL.CLUSTER_ON : Fld := ⟨.PD_CTRL, 31, 0⟩
def Fld.PD_STATUS.ON : Fld := ⟨.PD_STATUS, 39, 0⟩
def Fld.CLUSTER_POWER.STRETCHED : Fld := ⟨.CLUSTER_POWER, 23, 23⟩
def Fld.CLUSTER_POWER.LEVEL : Fld := ⟨.CLUSTER_POWER, 20, 16⟩
def Fld.CLUSTER_POWER.TEMP : Fld := ⟨.CLUSTER_POWER, 15, 0⟩
def Fld.DIE_TEMP.STACK2_TEMP : Fld := ⟨.DIE_TEMP, 63, 48⟩
def Fld.DIE_TEMP.STACK1_TEMP : Fld := ⟨.DIE_TEMP, 47, 32⟩
def Fld.DIE_TEMP.STACK0_TEMP : Fld := ⟨.DIE_TEMP, 31, 16⟩
def Fld.DIE_TEMP.BASE_TEMP : Fld := ⟨.DIE_TEMP, 15, 0⟩
def Fld.RAIL_STATUS.CURRENT : Fld := ⟨.RAIL_STATUS, 47, 32⟩
def Fld.RAIL_STATUS.VOLTAGE : Fld := ⟨.RAIL_STATUS, 31, 16⟩
def Fld.RAIL_STATUS.FIXED : Fld := ⟨.RAIL_STATUS, 1, 1⟩
def Fld.RAIL_STATUS.TELEMETRY_LOST : Fld := ⟨.RAIL_STATUS, 0, 0⟩
def Fld.DIE_IDENT.MIRRORED : Fld := ⟨.DIE_IDENT, 11, 11⟩
def Fld.DIE_IDENT.FLASH_HOLDER : Fld := ⟨.DIE_IDENT, 10, 10⟩
def Fld.DIE_IDENT.SITE : Fld := ⟨.DIE_IDENT, 9, 8⟩
def Fld.DIE_IDENT.DIE_NUMBER : Fld := ⟨.DIE_IDENT, 7, 6⟩
def Fld.DIE_IDENT.START_KIND : Fld := ⟨.DIE_IDENT, 5, 3⟩
def Fld.DIE_IDENT.ID_FAULT : Fld := ⟨.DIE_IDENT, 2, 0⟩
def Fld.BASE_SERIAL.SERIAL : Fld := ⟨.BASE_SERIAL, 63, 0⟩
def Fld.COMPUTE_SERIAL.SERIAL : Fld := ⟨.COMPUTE_SERIAL, 63, 0⟩
def Fld.STACK_SERIAL.SERIAL : Fld := ⟨.STACK_SERIAL, 63, 0⟩
def Fld.EDGE_STATUS.L1_DEAD : Fld := ⟨.EDGE_STATUS, 33, 33⟩
def Fld.EDGE_STATUS.L0_DEAD : Fld := ⟨.EDGE_STATUS, 32, 32⟩
def Fld.EDGE_STATUS.L1_IN_LIVE : Fld := ⟨.EDGE_STATUS, 31, 25⟩
def Fld.EDGE_STATUS.L0_IN_LIVE : Fld := ⟨.EDGE_STATUS, 24, 18⟩
def Fld.EDGE_STATUS.LIVE_RETIRE_COUNT : Fld := ⟨.EDGE_STATUS, 17, 0⟩
def Fld.DISABLED_MAP.CLUSTER_RETIRED : Fld := ⟨.DISABLED_MAP, 40, 40⟩
def Fld.DISABLED_MAP.CORE_RETIRED : Fld := ⟨.DISABLED_MAP, 39, 32⟩
def Fld.DISABLED_MAP.ME_FIELD : Fld := ⟨.DISABLED_MAP, 31, 16⟩
def Fld.DISABLED_MAP.ME_GRADE : Fld := ⟨.DISABLED_MAP, 15, 0⟩
def Fld.REPAIR_MAP.ENTRY_HI : Fld := ⟨.REPAIR_MAP, 63, 32⟩
def Fld.REPAIR_MAP.ENTRY_LO : Fld := ⟨.REPAIR_MAP, 31, 0⟩
def Fld.DIST_CTRL.GAIT_EN : Fld := ⟨.DIST_CTRL, 16, 16⟩
def Fld.DIST_CTRL.CORE_MASK : Fld := ⟨.DIST_CTRL, 15, 8⟩
def Fld.DIST_CTRL.ENABLE : Fld := ⟨.DIST_CTRL, 0, 0⟩
def Fld.DIST_STATUS.CORE_IDLE : Fld := ⟨.DIST_STATUS, 47, 40⟩
def Fld.DIST_STATUS.CORE_HELD : Fld := ⟨.DIST_STATUS, 39, 32⟩
def Fld.DIST_STATUS.RUNNING : Fld := ⟨.DIST_STATUS, 19, 16⟩
def Fld.DIST_STATUS.FREE_SLOTS : Fld := ⟨.DIST_STATUS, 8, 0⟩
def Fld.GAIT_CTRL.UPD_TASKS : Fld := ⟨.GAIT_CTRL, 47, 40⟩
def Fld.GAIT_CTRL.PAIR_TASKS : Fld := ⟨.GAIT_CTRL, 39, 32⟩
def Fld.GAIT_CTRL.WARMUP : Fld := ⟨.GAIT_CTRL, 31, 16⟩
def Fld.GAIT_CTRL.MB_COUNT : Fld := ⟨.GAIT_CTRL, 15, 0⟩
def Fld.GAIT_STATUS.DUE_MB : Fld := ⟨.GAIT_STATUS, 63, 48⟩
def Fld.GAIT_STATUS.DUE_CLASS : Fld := ⟨.GAIT_STATUS, 47, 46⟩
def Fld.GAIT_STATUS.PHASE : Fld := ⟨.GAIT_STATUS, 45, 44⟩
def Fld.GAIT_STATUS.PAIR_PULLED : Fld := ⟨.GAIT_STATUS, 43, 36⟩
def Fld.GAIT_STATUS.STEP : Fld := ⟨.GAIT_STATUS, 31, 0⟩
def Fld.POST_WINDOW.BYTES : Fld := ⟨.POST_WINDOW, 63, 0⟩
def Fld.POST_RESULT.SLOT : Fld := ⟨.POST_RESULT, 39, 32⟩
def Fld.POST_RESULT.STATUS : Fld := ⟨.POST_RESULT, 15, 0⟩
def Fld.SLOT_STATE.MICRO_BATCH : Fld := ⟨.SLOT_STATE, 63, 48⟩
def Fld.SLOT_STATE.GAIT_CLASS : Fld := ⟨.SLOT_STATE, 47, 46⟩
def Fld.SLOT_STATE.PRECOND_MET : Fld := ⟨.SLOT_STATE, 45, 42⟩
def Fld.SLOT_STATE.CORE : Fld := ⟨.SLOT_STATE, 41, 39⟩
def Fld.SLOT_STATE.STATE : Fld := ⟨.SLOT_STATE, 38, 36⟩
def Fld.SLOT_STATE.POST_SEQ : Fld := ⟨.SLOT_STATE, 31, 0⟩
def Fld.TOKEN_WORD.TC_3 : Fld := ⟨.TOKEN_WORD, 63, 48⟩
def Fld.TOKEN_WORD.TC_2 : Fld := ⟨.TOKEN_WORD, 47, 32⟩
def Fld.TOKEN_WORD.TC_1 : Fld := ⟨.TOKEN_WORD, 31, 16⟩
def Fld.TOKEN_WORD.TC_0 : Fld := ⟨.TOKEN_WORD, 15, 0⟩
def Fld.SYNC_STATUS.WATCHES_USED : Fld := ⟨.SYNC_STATUS, 25, 16⟩
def Fld.SYNC_STATUS.SAT_TOKEN : Fld := ⟨.SYNC_STATUS, 6, 1⟩
def Fld.SYNC_STATUS.TOKEN_SATURATED : Fld := ⟨.SYNC_STATUS, 0, 0⟩
def Fld.TOKEN_POKE.TOKEN : Fld := ⟨.TOKEN_POKE, 21, 16⟩
def Fld.TOKEN_POKE.AMOUNT : Fld := ⟨.TOKEN_POKE, 7, 0⟩
def Fld.SEQ_FAULT.VALID : Fld := ⟨.SEQ_FAULT, 63, 63⟩
def Fld.SEQ_FAULT.OPCODE : Fld := ⟨.SEQ_FAULT, 47, 40⟩
def Fld.SEQ_FAULT.UNIT : Fld := ⟨.SEQ_FAULT, 39, 36⟩
def Fld.SEQ_FAULT.POINT : Fld := ⟨.SEQ_FAULT, 35, 34⟩
def Fld.SEQ_FAULT.ILLEGAL : Fld := ⟨.SEQ_FAULT, 33, 33⟩
def Fld.SEQ_FAULT.IN_SPAN : Fld := ⟨.SEQ_FAULT, 32, 32⟩
def Fld.SEQ_FAULT.STATUS : Fld := ⟨.SEQ_FAULT, 15, 0⟩
def Fld.SEQ_FAULT_PC.PC : Fld := ⟨.SEQ_FAULT_PC, 47, 0⟩
def Fld.ME_CTRL.KEEPER_WINDOW : Fld := ⟨.ME_CTRL, 28, 16⟩
def Fld.ME_CTRL.KEEPER_HOLD : Fld := ⟨.ME_CTRL, 8, 8⟩
def Fld.ME_CTRL.BL_TRAP : Fld := ⟨.ME_CTRL, 3, 3⟩
def Fld.ME_CTRL.NF_TRAP : Fld := ⟨.ME_CTRL, 2, 2⟩
def Fld.ME_CTRL.CHECK_EN : Fld := ⟨.ME_CTRL, 1, 1⟩
def Fld.ME_STATUS.QUEUE_USED : Fld := ⟨.ME_STATUS, 37, 32⟩
def Fld.ME_STATUS.FAULT_STATUS : Fld := ⟨.ME_STATUS, 31, 16⟩
def Fld.ME_STATUS.LANE_LEVEL : Fld := ⟨.ME_STATUS, 15, 12⟩
def Fld.ME_STATUS.BANK1_STATE : Fld := ⟨.ME_STATUS, 11, 10⟩
def Fld.ME_STATUS.BANK0_STATE : Fld := ⟨.ME_STATUS, 9, 8⟩
def Fld.ME_STATUS.STATE : Fld := ⟨.ME_STATUS, 2, 0⟩
def Fld.BANK_STATUS0.DEPTH : Fld := ⟨.BANK_STATUS0, 63, 46⟩
def Fld.BANK_STATUS0.MODE_CLASS : Fld := ⟨.BANK_STATUS0, 45, 43⟩
def Fld.BANK_STATUS0.CHECK_SKIPPED : Fld := ⟨.BANK_STATUS0, 42, 42⟩
def Fld.BANK_STATUS0.CHECK_MISMATCH : Fld := ⟨.BANK_STATUS0, 41, 41⟩
def Fld.BANK_STATUS0.MISMATCH_COL : Fld := ⟨.BANK_STATUS0, 40, 34⟩
def Fld.BANK_STATUS0.FIRST_POS : Fld := ⟨.BANK_STATUS0, 33, 20⟩
def Fld.BANK_STATUS0.NF_KIND : Fld := ⟨.BANK_STATUS0, 19, 18⟩
def Fld.BANK_STATUS0.NONFINITE : Fld := ⟨.BANK_STATUS0, 17, 17⟩
def Fld.BANK_STATUS0.BOUND_LAPSED : Fld := ⟨.BANK_STATUS0, 16, 16⟩
def Fld.BANK_STATUS0.SATURATED : Fld := ⟨.BANK_STATUS0, 15, 15⟩
def Fld.BANK_STATUS1.DEPTH : Fld := ⟨.BANK_STATUS1, 63, 46⟩
def Fld.BANK_STATUS1.MODE_CLASS : Fld := ⟨.BANK_STATUS1, 45, 43⟩
def Fld.BANK_STATUS1.CHECK_SKIPPED : Fld := ⟨.BANK_STATUS1, 42, 42⟩
def Fld.BANK_STATUS1.CHECK_MISMATCH : Fld := ⟨.BANK_STATUS1, 41, 41⟩
def Fld.BANK_STATUS1.MISMATCH_COL : Fld := ⟨.BANK_STATUS1, 40, 34⟩
def Fld.BANK_STATUS1.FIRST_POS : Fld := ⟨.BANK_STATUS1, 33, 20⟩
def Fld.BANK_STATUS1.NF_KIND : Fld := ⟨.BANK_STATUS1, 19, 18⟩
def Fld.BANK_STATUS1.NONFINITE : Fld := ⟨.BANK_STATUS1, 17, 17⟩
def Fld.BANK_STATUS1.BOUND_LAPSED : Fld := ⟨.BANK_STATUS1, 16, 16⟩
def Fld.BANK_STATUS1.SATURATED : Fld := ⟨.BANK_STATUS1, 15, 15⟩
def Fld.RAMP_CTRL.I_STEP_MA : Fld := ⟨.RAMP_CTRL, 31, 16⟩
def Fld.RAMP_CTRL.THRESHOLD_A : Fld := ⟨.RAMP_CTRL, 5, 0⟩
def Fld.RAMP_STATUS.LSA_COUNT : Fld := ⟨.RAMP_STATUS, 63, 32⟩
def Fld.RAMP_STATUS.HELD_STEPS : Fld := ⟨.RAMP_STATUS, 31, 16⟩
def Fld.RAMP_STATUS.LSA_ACTIVE : Fld := ⟨.RAMP_STATUS, 0, 0⟩
def Fld.RELAY_CTRL.RELAY_WAIT_LIMIT : Fld := ⟨.RELAY_CTRL, 31, 16⟩
def Fld.RELAY_CTRL.PORTABLE : Fld := ⟨.RELAY_CTRL, 0, 0⟩
def Fld.RELAY_STATUS.TIMEOUT_COUNT : Fld := ⟨.RELAY_STATUS, 63, 48⟩
def Fld.RELAY_STATUS.IN_FLIGHT : Fld := ⟨.RELAY_STATUS, 39, 32⟩
def Fld.RELAY_STATUS.SHORT : Fld := ⟨.RELAY_STATUS, 21, 21⟩
def Fld.RELAY_STATUS.CHAIN_WIDTH : Fld := ⟨.RELAY_STATUS, 20, 16⟩
def Fld.RELAY_STATUS.USABLE_MASK : Fld := ⟨.RELAY_STATUS, 15, 0⟩
def Fld.VE_CTRL.NF_TRAP : Fld := ⟨.VE_CTRL, 0, 0⟩
def Fld.VE_STATUS.QUEUE_USED : Fld := ⟨.VE_STATUS, 37, 32⟩
def Fld.VE_STATUS.FAULT_STATUS : Fld := ⟨.VE_STATUS, 31, 16⟩
def Fld.VE_STATUS.STATE : Fld := ⟨.VE_STATUS, 2, 0⟩
def Fld.FUNC_TABLE_ID.TABLE_DIGEST : Fld := ⟨.FUNC_TABLE_ID, 63, 32⟩
def Fld.FUNC_TABLE_ID.TABLE_VERSION : Fld := ⟨.FUNC_TABLE_ID, 15, 0⟩
def Fld.DCACHE_CTRL.REMOTE_MODE : Fld := ⟨.DCACHE_CTRL, 1, 0⟩
def Fld.MEM_STATUS.REMOTE_EPOCH : Fld := ⟨.MEM_STATUS, 63, 48⟩
def Fld.MEM_STATUS.LOCKED_LINES : Fld := ⟨.MEM_STATUS, 47, 32⟩
def Fld.MEM_STATUS.HBM_RATE : Fld := ⟨.MEM_STATUS, 23, 16⟩
def Fld.MEM_STATUS.MODE_BUSY : Fld := ⟨.MEM_STATUS, 0, 0⟩
def Fld.XLATE_ROOT.ROOT : Fld := ⟨.XLATE_ROOT, 47, 12⟩
def Fld.XLATE_INVAL.COUNT : Fld := ⟨.XLATE_INVAL, 63, 48⟩
def Fld.XLATE_INVAL.BASE : Fld := ⟨.XLATE_INVAL, 47, 21⟩
def Fld.XLATE_INVAL.ALL_DIES : Fld := ⟨.XLATE_INVAL, 2, 2⟩
def Fld.XLATE_INVAL.BUSY : Fld := ⟨.XLATE_INVAL, 1, 1⟩
def Fld.XLATE_INVAL.GO : Fld := ⟨.XLATE_INVAL, 0, 0⟩
def Fld.MEM_ERR_CTRL.SCRUB_HOURS : Fld := ⟨.MEM_ERR_CTRL, 39, 32⟩
def Fld.MEM_ERR_CTRL.CE_EVENT_THRESHOLD : Fld := ⟨.MEM_ERR_CTRL, 31, 0⟩
def Fld.MEM_ERR_STATUS.CE_COUNT : Fld := ⟨.MEM_ERR_STATUS, 63, 32⟩
def Fld.MEM_ERR_STATUS.UE_COUNT : Fld := ⟨.MEM_ERR_STATUS, 31, 0⟩
def Fld.UE_LOG.SOURCE : Fld := ⟨.UE_LOG, 63, 61⟩
def Fld.UE_LOG.MISDIRECTED : Fld := ⟨.UE_LOG, 60, 60⟩
def Fld.UE_LOG.ADDR : Fld := ⟨.UE_LOG, 47, 0⟩
def Fld.PAGER_CTRL.DEMAND_LIMIT_US : Fld := ⟨.PAGER_CTRL, 63, 32⟩
def Fld.PAGER_CTRL.DEMAND_EN : Fld := ⟨.PAGER_CTRL, 0, 0⟩
def Fld.PAGER_ARENA.BASE : Fld := ⟨.PAGER_ARENA, 47, 30⟩
def Fld.PAGER_ARENA.SIZE_GIB : Fld := ⟨.PAGER_ARENA, 29, 14⟩
def Fld.PAGER_ARENA.ENABLE : Fld := ⟨.PAGER_ARENA, 0, 0⟩
def Fld.PAGER_POOL.BASE : Fld := ⟨.PAGER_POOL, 47, 21⟩
def Fld.PAGER_POOL.SIZE_2M : Fld := ⟨.PAGER_POOL, 20, 1⟩
def Fld.PAGER_RESERVE.BASE : Fld := ⟨.PAGER_RESERVE, 47, 21⟩
def Fld.PAGER_RESERVE.SIZE_2M : Fld := ⟨.PAGER_RESERVE, 20, 1⟩
def Fld.PAGER_STATUS.HANDLES_USED : Fld := ⟨.PAGER_STATUS, 63, 48⟩
def Fld.PAGER_STATUS.FREE_FRAMES : Fld := ⟨.PAGER_STATUS, 47, 24⟩
def Fld.PAGER_STATUS.RESERVE_FREE_2M : Fld := ⟨.PAGER_STATUS, 19, 0⟩
def Fld.HANDLE_STATE.STALL_US : Fld := ⟨.HANDLE_STATE, 63, 40⟩
def Fld.HANDLE_STATE.SIZE_2M : Fld := ⟨.HANDLE_STATE, 39, 20⟩
def Fld.HANDLE_STATE.TRACE : Fld := ⟨.HANDLE_STATE, 7, 7⟩
def Fld.HANDLE_STATE.HOST_VISIBLE : Fld := ⟨.HANDLE_STATE, 6, 6⟩
def Fld.HANDLE_STATE.PINNED : Fld := ⟨.HANDLE_STATE, 5, 5⟩
def Fld.HANDLE_STATE.OFFLOADABLE : Fld := ⟨.HANDLE_STATE, 4, 4⟩
def Fld.HANDLE_STATE.STATE : Fld := ⟨.HANDLE_STATE, 2, 0⟩
def Fld.MOVER_CTRL.SYS_RESERVE : Fld := ⟨.MOVER_CTRL, 12, 0⟩
def Fld.MOVER_STATUS.CHANNEL_BUSY : Fld := ⟨.MOVER_STATUS, 47, 32⟩
def Fld.MOVER_STATUS.PEAK_OUTSTANDING : Fld := ⟨.MOVER_STATUS, 28, 16⟩
def Fld.MOVER_STATUS.OUTSTANDING : Fld := ⟨.MOVER_STATUS, 12, 0⟩
def Fld.MOVER_ERRORS.OVERLAP_COUNT : Fld := ⟨.MOVER_ERRORS, 63, 48⟩
def Fld.MOVER_ERRORS.REFUSED_COUNT : Fld := ⟨.MOVER_ERRORS, 47, 32⟩
def Fld.MOVER_ERRORS.FAULT_COUNT : Fld := ⟨.MOVER_ERRORS, 31, 16⟩
def Fld.MOVER_ERRORS.STATUS_WRITE_FAIL : Fld := ⟨.MOVER_ERRORS, 15, 0⟩
def Fld.UPD_RING.BASE : Fld := ⟨.UPD_RING, 47, 12⟩
def Fld.UPD_RING.SIZE_LOG2 : Fld := ⟨.UPD_RING, 4, 1⟩
def Fld.UPD_RING.ENABLE : Fld := ⟨.UPD_RING, 0, 0⟩
def Fld.UPD_STATUS.CONSUMER : Fld := ⟨.UPD_STATUS, 63, 32⟩
def Fld.UPD_STATUS.RING_ERR_STATUS : Fld := ⟨.UPD_STATUS, 31, 16⟩
def Fld.UPD_STATUS.RING_STOPPED : Fld := ⟨.UPD_STATUS, 3, 3⟩
def Fld.UPD_STATUS.ENGINE_BUSY : Fld := ⟨.UPD_STATUS, 2, 0⟩
def Fld.UPD_COUNTS.PASSES_DONE : Fld := ⟨.UPD_COUNTS, 63, 32⟩
def Fld.UPD_COUNTS.PASSES_FAILED : Fld := ⟨.UPD_COUNTS, 31, 0⟩
def Fld.ARB_CTRL.SLOT_CYCLES : Fld := ⟨.ARB_CTRL, 15, 11⟩
def Fld.ARB_CTRL.N_SLOTS : Fld := ⟨.ARB_CTRL, 10, 4⟩
def Fld.ARB_CTRL.BACKGROUND : Fld := ⟨.ARB_CTRL, 3, 2⟩
def Fld.ARB_CTRL.MODE : Fld := ⟨.ARB_CTRL, 1, 0⟩
def Fld.ARB_CTRL_ACTIVE.SLOT_CYCLES : Fld := ⟨.ARB_CTRL_ACTIVE, 15, 11⟩
def Fld.ARB_CTRL_ACTIVE.N_SLOTS : Fld := ⟨.ARB_CTRL_ACTIVE, 10, 4⟩
def Fld.ARB_CTRL_ACTIVE.BACKGROUND : Fld := ⟨.ARB_CTRL_ACTIVE, 3, 2⟩
def Fld.ARB_CTRL_ACTIVE.MODE : Fld := ⟨.ARB_CTRL_ACTIVE, 1, 0⟩
def Fld.ARB_COMMIT.COMMIT_STATUS : Fld := ⟨.ARB_COMMIT, 31, 16⟩
def Fld.ARB_COMMIT.PENDING : Fld := ⟨.ARB_COMMIT, 1, 1⟩
def Fld.ARB_COMMIT.GO : Fld := ⟨.ARB_COMMIT, 0, 0⟩
def Fld.ARB_STATUS.STARVE_COUNT : Fld := ⟨.ARB_STATUS, 63, 48⟩
def Fld.ARB_STATUS.STARVE_INSTANCE : Fld := ⟨.ARB_STATUS, 47, 43⟩
def Fld.ARB_STATUS.STARVED : Fld := ⟨.ARB_STATUS, 27, 16⟩
def Fld.ARB_STATUS.NULL_COUNT : Fld := ⟨.ARB_STATUS, 15, 0⟩
def Fld.ARB_STARVE.STARVE_EN : Fld := ⟨.ARB_STARVE, 16, 16⟩
def Fld.ARB_STARVE.STARVE_THRESHOLD : Fld := ⟨.ARB_STARVE, 15, 0⟩
def Fld.SLOT_PAIR.OWNED_ODD : Fld := ⟨.SLOT_PAIR, 63, 63⟩
def Fld.SLOT_PAIR.CIRCUIT_ODD : Fld := ⟨.SLOT_PAIR, 62, 62⟩
def Fld.SLOT_PAIR.OWNER_ODD : Fld := ⟨.SLOT_PAIR, 59, 56⟩
def Fld.SLOT_PAIR.CIRCUIT_ID_ODD : Fld := ⟨.SLOT_PAIR, 47, 32⟩
def Fld.SLOT_PAIR.OWNED_EVEN : Fld := ⟨.SLOT_PAIR, 31, 31⟩
def Fld.SLOT_PAIR.CIRCUIT_EVEN : Fld := ⟨.SLOT_PAIR, 30, 30⟩
def Fld.SLOT_PAIR.OWNER_EVEN : Fld := ⟨.SLOT_PAIR, 27, 24⟩
def Fld.SLOT_PAIR.CIRCUIT_ID_EVEN : Fld := ⟨.SLOT_PAIR, 15, 0⟩
def Fld.SLOT_PAIR_ACTIVE.OWNED_ODD : Fld := ⟨.SLOT_PAIR_ACTIVE, 63, 63⟩
def Fld.SLOT_PAIR_ACTIVE.CIRCUIT_ODD : Fld := ⟨.SLOT_PAIR_ACTIVE, 62, 62⟩
def Fld.SLOT_PAIR_ACTIVE.OWNER_ODD : Fld := ⟨.SLOT_PAIR_ACTIVE, 59, 56⟩
def Fld.SLOT_PAIR_ACTIVE.CIRCUIT_ID_ODD : Fld := ⟨.SLOT_PAIR_ACTIVE, 47, 32⟩
def Fld.SLOT_PAIR_ACTIVE.OWNED_EVEN : Fld := ⟨.SLOT_PAIR_ACTIVE, 31, 31⟩
def Fld.SLOT_PAIR_ACTIVE.CIRCUIT_EVEN : Fld := ⟨.SLOT_PAIR_ACTIVE, 30, 30⟩
def Fld.SLOT_PAIR_ACTIVE.OWNER_EVEN : Fld := ⟨.SLOT_PAIR_ACTIVE, 27, 24⟩
def Fld.SLOT_PAIR_ACTIVE.CIRCUIT_ID_EVEN : Fld := ⟨.SLOT_PAIR_ACTIVE, 15, 0⟩
def Fld.PAIR_CTRL.ENABLE : Fld := ⟨.PAIR_CTRL, 16, 16⟩
def Fld.PAIR_CTRL.CORE_MASK : Fld := ⟨.PAIR_CTRL, 15, 8⟩
def Fld.PAIR_CTRL.CLUSTER_B : Fld := ⟨.PAIR_CTRL, 5, 3⟩
def Fld.PAIR_CTRL.CLUSTER_A : Fld := ⟨.PAIR_CTRL, 2, 0⟩
def Fld.RECOVERY_AREA.BASE : Fld := ⟨.RECOVERY_AREA, 47, 25⟩
def Fld.RECOVERY_AREA.SET : Fld := ⟨.RECOVERY_AREA, 0, 0⟩
def Fld.FARRIER_CTRL.CADENCE_MIN : Fld := ⟨.FARRIER_CTRL, 63, 48⟩
def Fld.FARRIER_CTRL.DUE_WINDOW_MIN : Fld := ⟨.FARRIER_CTRL, 47, 32⟩
def Fld.FARRIER_CTRL.TEST_EN : Fld := ⟨.FARRIER_CTRL, 0, 0⟩
def Fld.FARRIER_ORDER.ACTION : Fld := ⟨.FARRIER_ORDER, 9, 8⟩
def Fld.FARRIER_ORDER.CORE : Fld := ⟨.FARRIER_ORDER, 5, 0⟩
def Fld.FARRIER_STATUS.TESTS_RUN : Fld := ⟨.FARRIER_STATUS, 63, 48⟩
def Fld.FARRIER_STATUS.LAST_STATUS : Fld := ⟨.FARRIER_STATUS, 47, 32⟩
def Fld.FARRIER_STATUS.LAST_CORE : Fld := ⟨.FARRIER_STATUS, 31, 26⟩
def Fld.FARRIER_STATUS.TESTING : Fld := ⟨.FARRIER_STATUS, 25, 25⟩
def Fld.FARRIER_STATUS.TEST_CORE : Fld := ⟨.FARRIER_STATUS, 24, 19⟩
def Fld.FARRIER_STATUS.SUSPECTS : Fld := ⟨.FARRIER_STATUS, 6, 0⟩
def Fld.FARRIER_OVERDUE.OVERDUE : Fld := ⟨.FARRIER_OVERDUE, 63, 0⟩
def Fld.CORE_PLACE.PLACE : Fld := ⟨.CORE_PLACE, 23, 0⟩
def Fld.SECURE_TABLE.RANGES : Fld := ⟨.SECURE_TABLE, 62, 56⟩
def Fld.SECURE_TABLE.ADDR : Fld := ⟨.SECURE_TABLE, 47, 6⟩
def Fld.SECURE_DEST.CIRCUIT_ID : Fld := ⟨.SECURE_DEST, 63, 48⟩
def Fld.SECURE_DEST.ADDR : Fld := ⟨.SECURE_DEST, 47, 12⟩
def Fld.SECURE_SLOT.REMOTE_DIE : Fld := ⟨.SECURE_SLOT, 63, 62⟩
def Fld.SECURE_SLOT.SLOT_4K : Fld := ⟨.SECURE_SLOT, 35, 0⟩
def Fld.SECURE_STATUS.STEP : Fld := ⟨.SECURE_STATUS, 63, 32⟩
def Fld.SECURE_STATUS.STATUS : Fld := ⟨.SECURE_STATUS, 31, 16⟩
def Fld.SECURE_STATUS.SLOT : Fld := ⟨.SECURE_STATUS, 2, 2⟩
def Fld.SECURE_STATUS.STATE : Fld := ⟨.SECURE_STATUS, 1, 0⟩
def Fld.REMOUNT_SRC.ADDR : Fld := ⟨.REMOUNT_SRC, 47, 12⟩
def Fld.REMOUNT_CTRL.TARGET_NODE : Fld := ⟨.REMOUNT_CTRL, 63, 48⟩
def Fld.REMOUNT_CTRL.CIRCUIT_ID : Fld := ⟨.REMOUNT_CTRL, 47, 32⟩
def Fld.REMOUNT_CTRL.TARGET_DIE : Fld := ⟨.REMOUNT_CTRL, 31, 30⟩
def Fld.REMOUNT_CTRL.GO : Fld := ⟨.REMOUNT_CTRL, 0, 0⟩
def Fld.REMOUNT_STATUS.BLOCKS_DONE : Fld := ⟨.REMOUNT_STATUS, 63, 32⟩
def Fld.REMOUNT_STATUS.STATUS : Fld := ⟨.REMOUNT_STATUS, 31, 16⟩
def Fld.REMOUNT_STATUS.BUSY : Fld := ⟨.REMOUNT_STATUS, 0, 0⟩
def Fld.FAB_NODE.NODE : Fld := ⟨.FAB_NODE, 15, 0⟩
def Fld.EPOCH_CTRL.FLIP_PENDING : Fld := ⟨.EPOCH_CTRL, 1, 1⟩
def Fld.EPOCH_CTRL.SRC_EPOCH : Fld := ⟨.EPOCH_CTRL, 0, 0⟩
def Fld.EPOCH_FLIP_AT.FLIP_AT : Fld := ⟨.EPOCH_FLIP_AT, 63, 0⟩
def Fld.PORT_CTRL.LANE_MODE : Fld := ⟨.PORT_CTRL, 2, 1⟩
def Fld.PORT_CTRL.ENABLE : Fld := ⟨.PORT_CTRL, 0, 0⟩
def Fld.PORT_STATUS.NEIGHBOUR_NODE : Fld := ⟨.PORT_STATUS, 63, 48⟩
def Fld.PORT_STATUS.NEIGHBOUR_PORT : Fld := ⟨.PORT_STATUS, 47, 43⟩
def Fld.PORT_STATUS.LINK_DELAY_FRAMES : Fld := ⟨.PORT_STATUS, 39, 32⟩
def Fld.PORT_STATUS.FEC_UNCORR : Fld := ⟨.PORT_STATUS, 31, 16⟩
def Fld.PORT_STATUS.WIDTH : Fld := ⟨.PORT_STATUS, 7, 6⟩
def Fld.PORT_STATUS.STATE : Fld := ⟨.PORT_STATUS, 2, 0⟩
def Fld.RT_CTRL.CONFIRM : Fld := ⟨.RT_CTRL, 17, 16⟩
def Fld.RT_CTRL.BANK1_PORTS : Fld := ⟨.RT_CTRL, 13, 8⟩
def Fld.RT_CTRL.BANK0_PORTS : Fld := ⟨.RT_CTRL, 5, 0⟩
def Fld.RT_STATUS.CIRCUIT_MISS : Fld := ⟨.RT_STATUS, 31, 16⟩
def Fld.RT_STATUS.PORTS_ACTIVE : Fld := ⟨.RT_STATUS, 13, 8⟩
def Fld.RT_STATUS.BANK1_STATE : Fld := ⟨.RT_STATUS, 5, 4⟩
def Fld.RT_STATUS.BANK0_STATE : Fld := ⟨.RT_STATUS, 1, 0⟩
def Fld.E2E_CTRL.RESEND_TIMEOUT_US : Fld := ⟨.E2E_CTRL, 63, 48⟩
def Fld.E2E_CTRL.RESEND_LIMIT : Fld := ⟨.E2E_CTRL, 47, 40⟩
def Fld.E2E_CTRL.ACK_DELAY : Fld := ⟨.E2E_CTRL, 39, 32⟩
def Fld.E2E_CTRL.RECORD_HOLD_US : Fld := ⟨.E2E_CTRL, 31, 16⟩
def Fld.E2E_CTRL.GAP_WAIT_US : Fld := ⟨.E2E_CTRL, 15, 8⟩
def Fld.FAB_DROPS.CRC_DROP : Fld := ⟨.FAB_DROPS, 63, 48⟩
def Fld.FAB_DROPS.HOP_DROP : Fld := ⟨.FAB_DROPS, 47, 32⟩
def Fld.FAB_DROPS.BOUNCE_DROP : Fld := ⟨.FAB_DROPS, 31, 16⟩
def Fld.FAB_DROPS.EPOCH_DROP : Fld := ⟨.FAB_DROPS, 15, 0⟩
def Fld.ROUTE.VALID_ODD : Fld := ⟨.ROUTE, 63, 63⟩
def Fld.ROUTE.PRODUCTIVE_ODD : Fld := ⟨.ROUTE, 61, 56⟩
def Fld.ROUTE.FIRST_ODD : Fld := ⟨.ROUTE, 54, 52⟩
def Fld.ROUTE.SECOND_ODD : Fld := ⟨.ROUTE, 50, 48⟩
def Fld.ROUTE.VALID_EVEN : Fld := ⟨.ROUTE, 31, 31⟩
def Fld.ROUTE.PRODUCTIVE_EVEN : Fld := ⟨.ROUTE, 29, 24⟩
def Fld.ROUTE.FIRST_EVEN : Fld := ⟨.ROUTE, 22, 20⟩
def Fld.ROUTE.SECOND_EVEN : Fld := ⟨.ROUTE, 18, 16⟩
def Fld.CIRCUIT.ENABLE : Fld := ⟨.CIRCUIT, 39, 39⟩
def Fld.CIRCUIT.ROLE : Fld := ⟨.CIRCUIT, 38, 38⟩
def Fld.CIRCUIT.PORT : Fld := ⟨.CIRCUIT, 37, 35⟩
def Fld.CIRCUIT.PEER_NODE : Fld := ⟨.CIRCUIT, 31, 16⟩
def Fld.CIRCUIT.CIRCUIT_ID : Fld := ⟨.CIRCUIT, 15, 0⟩
def Fld.HOST_PORT_STATUS.WIDTH : Fld := ⟨.HOST_PORT_STATUS, 15, 8⟩
def Fld.HOST_PORT_STATUS.SPEED : Fld := ⟨.HOST_PORT_STATUS, 7, 4⟩
def Fld.HOST_PORT_STATUS.LINK_UP : Fld := ⟨.HOST_PORT_STATUS, 0, 0⟩
def Fld.BAR2_CTRL.BASE : Fld := ⟨.BAR2_CTRL, 47, 30⟩
def Fld.BAR2_CTRL.PHYSICAL : Fld := ⟨.BAR2_CTRL, 1, 1⟩
def Fld.BAR2_CTRL.ENABLE : Fld := ⟨.BAR2_CTRL, 0, 0⟩
def Fld.STREAM_RING.ADDR : Fld := ⟨.STREAM_RING, 63, 12⟩
def Fld.STREAM_RING.SIZE_LOG2 : Fld := ⟨.STREAM_RING, 4, 1⟩
def Fld.STREAM_RING.ENABLE : Fld := ⟨.STREAM_RING, 0, 0⟩
def Fld.STREAM_CPL.ADDR : Fld := ⟨.STREAM_CPL, 63, 12⟩
def Fld.STREAM_CPL.IRQ_EN : Fld := ⟨.STREAM_CPL, 11, 11⟩
def Fld.STREAM_CPL.VECTOR : Fld := ⟨.STREAM_CPL, 10, 0⟩
def Fld.STREAM_STATUS.CONSUMER : Fld := ⟨.STREAM_STATUS, 63, 32⟩
def Fld.STREAM_STATUS.STOP_STATUS : Fld := ⟨.STREAM_STATUS, 31, 16⟩
def Fld.STREAM_STATUS.STATE : Fld := ⟨.STREAM_STATUS, 1, 0⟩
def Fld.TRACE_CTRL.CLASS_EN : Fld := ⟨.TRACE_CTRL, 31, 16⟩
def Fld.TRACE_CTRL.MODE : Fld := ⟨.TRACE_CTRL, 1, 1⟩
def Fld.TRACE_CTRL.ENABLE : Fld := ⟨.TRACE_CTRL, 0, 0⟩
def Fld.TRACE_BASE.BASE : Fld := ⟨.TRACE_BASE, 47, 12⟩
def Fld.TRACE_SIZE.SIZE_4K : Fld := ⟨.TRACE_SIZE, 31, 0⟩
def Fld.TRACE_HEAD.HEAD : Fld := ⟨.TRACE_HEAD, 63, 0⟩
def Fld.TRACE_STATUS.DROPPED : Fld := ⟨.TRACE_STATUS, 63, 32⟩
def Fld.TRACE_STATUS.FAIL_STATUS : Fld := ⟨.TRACE_STATUS, 31, 16⟩
def Fld.TRACE_STATUS.FULL : Fld := ⟨.TRACE_STATUS, 1, 1⟩
def Fld.TRACE_STATUS.FAILED : Fld := ⟨.TRACE_STATUS, 0, 0⟩
def Fld.DBG_CTRL.BRK_ARM : Fld := ⟨.DBG_CTRL, 3, 3⟩
def Fld.DBG_CTRL.ACTION : Fld := ⟨.DBG_CTRL, 2, 0⟩
def Fld.DBG_STATUS.PC : Fld := ⟨.DBG_STATUS, 63, 16⟩
def Fld.DBG_STATUS.REASON : Fld := ⟨.DBG_STATUS, 7, 4⟩
def Fld.DBG_STATUS.SNAP_BUSY : Fld := ⟨.DBG_STATUS, 3, 3⟩
def Fld.DBG_STATUS.QUIET : Fld := ⟨.DBG_STATUS, 1, 1⟩
def Fld.DBG_STATUS.HALTED : Fld := ⟨.DBG_STATUS, 0, 0⟩
def Fld.DBG_BP.ADDR : Fld := ⟨.DBG_BP, 47, 3⟩
def Fld.DBG_BP.EN : Fld := ⟨.DBG_BP, 0, 0⟩
def Fld.DBG_SNAP.ADDR : Fld := ⟨.DBG_SNAP, 47, 10⟩
def Fld.DBG_SNAP.GO : Fld := ⟨.DBG_SNAP, 0, 0⟩

/-- Elements in an array with these dimensions. -/
def dimsCount : List (Nat × Nat) → Nat
  | [] => 1
  | (c, _) :: ds => c * dimsCount ds

/-- Offset of element `i` of an array, indices in mixed radix, outermost first. -/
def dimsOff : List (Nat × Nat) → Nat → Nat
  | [], _ => 0
  | (_, s) :: ds, i => (i / dimsCount ds) * s + dimsOff ds (i % dimsCount ds)

/-- The element at a relative offset, if one begins there. -/
def dimsAt : List (Nat × Nat) → Nat → Option Nat
  | [], off => if off = 0 then some 0 else none
  | (c, s) :: ds, off =>
    if off / s < c then (dimsAt ds (off % s)).map (fun j => (off / s) * dimsCount ds + j) else none

/-- Elements of a register array. -/
def Reg.count (r : Reg) : Nat := dimsCount r.info.dims

/-- BAR0 offset of element `i`. -/
def Reg.off (r : Reg) (i : Nat) : Nat := r.info.base + dimsOff r.info.dims i

/-- The element of `r` that begins at an offset. -/
def Reg.at? (r : Reg) (off : Nat) : Option Nat :=
  if r.info.base ≤ off then dimsAt r.info.dims (off - r.info.base) else none

/-- The register element at an aligned BAR0 offset; none is a hole of the map (R495, R521). -/
def Reg.decode (off : Nat) : Option (Reg × Nat) :=
  Reg.all.findSome? (fun r => (r.at? off).map (fun i => (r, i)))

/-- Reset word of a field list. -/
def resetWord (fs : List FieldSpec) : Nat :=
  fs.foldl (fun w f => w + f.reset * 2 ^ f.lo) 0

/-- Reset value of element `i` of `r`: the Reset column, and for an arbiter group of a fabric output (indices 75 to
80 of a die, R406) the background grant mode of R419. -/
def Reg.reset (r : Reg) (i : Nat) : Word :=
  match r with
  | .ARB_CTRL | .ARB_CTRL_ACTIVE =>
    if 75 ≤ i % 81 then BitVec.ofNat 64 (1 * 2 ^ 11 + 64 * 2 ^ 4 + 2 * 2 ^ 2) else BitVec.ofNat 64 (resetWord r.info.fields)
  | _ => BitVec.ofNat 64 (resetWord r.info.fields)

/-- Bits of `r` that a field names; the others are reserved (R15). -/
def fieldMask (f : FieldSpec) : Nat := (2 ^ (f.hi - f.lo + 1) - 1) * 2 ^ f.lo

def Reg.fieldBits (r : Reg) : Nat := r.info.fields.foldl (fun m f => m ||| fieldMask f) 0

/-- Width of a field. -/
def Fld.width (f : Fld) : Nat := f.hi - f.lo + 1

/-- The value of a field in a register word. -/
def Fld.of (f : Fld) (w : Word) : Nat := (w.toNat / 2 ^ f.lo) % 2 ^ f.width

/-- A register word with one field replaced, the value modulo the field's width. -/
def Fld.into (f : Fld) (w : Word) (v : Nat) : Word :=
  let m : Nat := (2 ^ f.width - 1) * 2 ^ f.lo
  BitVec.ofNat 64 ((w.toNat &&& (2 ^ 64 - 1 - m)) ||| ((v % 2 ^ f.width) * 2 ^ f.lo))

end Sys2Proof.Machine
end

