-- ==== Sys2Proof/Config.lean ====
section
/-! DEFINITION. What the spec leaves open: opaque functions without a body, so that no proof can see a value of one.
Each is applied to what the value may depend on, or to the plain counter `draw` of the state. -/

namespace Sys2Proof.Config

/-- A fresh free value: the n-th draw of the model's own counter `draw`. -/
opaque freeNat : Nat → Nat

/-- Result bits of a table-based transcendental function (R210 bounds its error and names no table): identity of the loaded
table set, function code, operand bits. -/
opaque transcendental : BitVec 64 → Nat → BitVec 32 → BitVec 32

/-- SHA-384 of a byte string (named by R535 and others, not defined). -/
opaque sha384 : List (BitVec 8) → List (BitVec 8)

/-- A signature made by the part: key identity, message. -/
opaque sign : List (BitVec 8) → List (BitVec 8) → List (BitVec 8)

/-- What the firmware's voltage table holds for a level; R560 bounds the request made of it. -/
opaque voltage : Nat → Nat

/-- The fixed power figure, in mW, that firmware carries for a rail without telemetry (R559). -/
opaque fixedPower : Nat → Nat

/-- The 32-bit IDCODE of the part's TAP (R550 gives none). -/
opaque idcode : BitVec 32

/-- The bytes of a message or value that the spec names and does not lay out: its kind, and what it may depend on. -/
opaque message : Nat → List (BitVec 8) → List (BitVec 8)

end Sys2Proof.Config
end

