-- ==== Sys2Proof/Machine/State.lean ====
section
/-! DEFINITION. The state of the block as plain data: every register (one raw word per BAR0 offset), memory, queue,
counter, mode and pin the spec gives the part, and the queue of waiting commands. Sparse tables hold what differs from
reset. -/

namespace Sys2Proof.Machine

/-- Why the machine could stop with a fault: the block reports every error in its state, so no meaning answers with one. -/
inductive Fault where
  /-- Raised by no meaning: a lost part stays in the state (R483) and its commands change nothing. Safe. -/
  | stopped
  deriving DecidableEq, Repr

/-- Why a command is not run. -/
inductive Refusal where
  /-- Raised by the dispatch arm of a command that has no meaning yet. Safe. -/
  | notModelled (mnemonic : String)
  /-- Raised by a meaning whose command is not well formed (`Instr.wf`): such a command names no event. Safe. -/
  | illFormed
  deriving DecidableEq, Repr

/-- The status codes (R522). -/
inductive Status where
  | ok | busy | conflict | notOwner | range | unsupported | overlap | xlateFault | protFault | uncorrectable
  | checkMismatch | nonfinite | timeout | sameFeed | reserveExhausted | replayLimit | retiredUnit | sigFail
  | epochPending | starvation | boundLapsed | idUnresolved | testOverdue
  deriving DecidableEq, Repr

/-! ### Memory (08) -/

/-- What differs between a stored word and its codeword (R264 to R267), and the array that holds it (R294 SOURCE). -/
structure Upset where
  data : BitVec 64
  check : BitVec 16
  addr : BitVec 28
  src : Nat
  deriving DecidableEq, Repr

/-- A line of a local portion: its way, and whether it is dirty (R254, R255). Its bytes are those of the part's memory. -/
structure CLine where
  way : Nat
  dirty : Bool
  deriving DecidableEq, Repr

/-- A line of a remote portion: the epoch of its fill, its way and its 256 bytes (R254, R258). -/
structure RLine where
  epoch : Nat
  way : Nat
  data : List Byte
  deriving DecidableEq, Repr

/-- A cached leaf translation (R279): first DVA, bytes mapped (2 MiB or 64 KiB) and the entry. -/
structure Leaf where
  base : Nat
  size : Nat
  entry : Word
  deriving DecidableEq, Repr

/-- Handle states (R282). -/
inductive HandleSt where
  | free | resident | offloading | offloaded | prefetching | lost
  deriving DecidableEq, Repr

/-- A pager handle (R280 to R286, R299). -/
structure Handle where
  st : HandleSt
  dva : Nat
  pages : Nat
  frames : List Nat
  chunks : List Nat
  offloadable : Bool
  hostVisible : Bool
  trace : Bool
  pinned : Bool
  stamp : Nat
  /-- nanoseconds in which some access waited on it, and the moment up to which they are counted (R286) -/
  stall : Nat
  stalledTo : Nat
  /-- its copy holds an entry of the mover's transfer table (R283, R301) -/
  entry : Bool
  deriving DecidableEq, Repr

/-- A pager request that waits for frames (R284): an allocation, or a prefetch, with the core and dispatch number of
its instruction, none for a touch (R286). -/
inductive PgJob where
  | alloc (core order pages flags : Nat)
  | prefetch (who : Option (Nat × Nat)) (h : Nat) (pin : Bool)
  deriving DecidableEq, Repr

/-! ### Matrix engines and banks (03, 05) -/

/-- Bank states (R113), numbered as in ME_STATUS (R141). -/
inductive BankSt where
  | empty | filling | full | draining
  deriving DecidableEq, Repr

/-- The check state of one column (R128, R129): exact sums, in units of 2^-149 for a float bank, and whether one of
them is not finite; beside C0 and A0 of the elements read as FP32, C0 of them read as integers, since the class of a loaded
bank is bound later (R112). -/
structure ColCheck where
  c0 : Int
  a0 : Int
  ci : Int
  v : Int
  t : Int
  nf : Bool
  deriving DecidableEq, Repr

/-- The check state of a bank (R128 to R130). -/
structure CheckSt where
  cols : Tab ColCheck
  depth : Nat
  gMax : Nat
  skip : Bool
  deriving DecidableEq, Repr

/-- An accumulator bank (R111 to R118): 128 x 128 elements of 32 bits, most of them equal to `fill`. -/
structure Bank where
  st : BankSt
  fill : BitVec 32
  cells : Tab (BitVec 32)
  status : Word
  check : CheckSt
  deriving DecidableEq, Repr

/-- A physical matrix engine: STOPPED mark and its status (R138), lane level (R133 to R135), dummy window and gap (R132),
and the steps the governor holds, oldest first (R136): true a rise, false a fall. -/
structure EngineSt where
  stopped : Bool
  fault : Nat
  level : Nat
  window : Bool
  gap : Bool
  held : List Bool
  deriving DecidableEq, Repr

/-- A physical vector engine: STOPPED mark and its status (R212). -/
structure VeSt where
  stopped : Bool
  fault : Nat
  deriving DecidableEq, Repr

/-! ### Cores (02, 07) -/

/-- The four queues of a core (R62). -/
abbrev QUnit := EUnit

/-- A queued instruction: its word, its DVA and everything it read at dispatch (R222). -/
structure QEntry where
  word : Word
  pc : Nat
  tds : List (BitVec 128)
  gs : List Word
  seed : Word
  step : Nat
  /-- dispatch number within the task, which orders held signals (R459) -/
  order : Nat
  /-- index among the digested events of the task (R439), for an event-producing instruction -/
  event : Nat
  inSpan : Bool
  /-- a relay partner's global engine number resolved at dispatch (R192) -/
  partner : Nat
  /-- a chain position at or above the CHAIN_WIDTH of the own cluster at dispatch (R233) -/
  badPos : Bool
  deriving DecidableEq, Repr

/-- How far an issued instruction has come. -/
inductive FlySt where
  /-- executing -/
  | run
  /-- a RELAY.SEND beyond its cluster that waits for an entry of the mover's table (R301) -/
  | relayAsk
  /-- a relay instruction whose rendezvous has not formed (R183) -/
  | relayWait
  /-- a paired relay instruction -/
  | relayMove
  /-- a mover transfer in the table, by number -/
  | moverRun (id : Nat)
  /-- a pager operation that waits for frames (R284) -/
  | pgWait
  /-- a pager operation under way on a handle (R283) -/
  | pgRun (h : Nat)
  /-- a pager operation decided: status, handle and base DVA of its record (R237) -/
  | pgDone (status : Nat) (h : Nat) (dva : Nat)
  deriving DecidableEq, Repr

/-- An issued instruction: what the bank it holds was before it issued, and that of the follower of a pair (R186, R233,
R443). -/
structure Fly where
  e : QEntry
  prior : Option Bank
  twin : Option Bank
  st : FlySt
  deriving DecidableEq, Repr

/-- What a core is doing (R86 to R88, R245). -/
inductive Phase where
  | idle
  | pulled (slot : Nat)
  | running (slot : Nat)
  | faulted (slot : Nat)
  deriving DecidableEq, Repr

/-- A sequencer instruction that has begun and not completed. -/
inductive Hold where
  | none
  /-- LAUNCH.AT with its job time (R242) -/
  | launch (word : Word) (t : Nat)
  /-- SIG to another node, until its acknowledgement (R77) -/
  | sig (word : Word)
  /-- LD, ST, TD.LD or TD.ST that waits for a bank window (R116) -/
  | window (word : Word)
  deriving DecidableEq, Repr

/-- A signal held by an open span (R459): dispatch order, target node, core, token and amount. -/
structure HeldSig where
  order : Nat
  node : Nat
  core : Nat
  tok : Nat
  amount : Nat
  deriving DecidableEq, Repr

/-- A watch placed in a core (R85). -/
structure Watch where
  cluster : Nat
  slot : Nat
  idx : Nat
  tok : Nat
  threshold : Nat
  /-- the counter has reached the threshold -/
  hit : Bool
  deriving DecidableEq, Repr

/-- An open digest interval (R439): stream key, number, events completed, sum of their CRC-64. -/
structure Interval where
  key : Word
  k : Nat
  count : Nat
  sum : Word
  deriving DecidableEq, Repr

/-- An open replay span (R241, R454 to R460). -/
structure SpanSt where
  pc : Nat
  g : Tab Word
  td : Tab (BitVec 128)
  seed : Word
  step : Nat
  deny : Bool
  record : List Byte
  full : List Bool
  replays : Nat
  /-- net change by the span's own instructions, per counter (R460) -/
  tcDelta : Tab Int
  held : List HeldSig
  /-- held signals promised to dispatched instructions (R459) -/
  heldCount : Nat
  sendSeen : Bool
  replaying : Bool
  event : Nat
  intervals : List Interval
  /-- compared items completed within the span, per unit: drains, V outputs, transfers (R444, R467) -/
  items : Tab Nat
  deriving DecidableEq, Repr

/-- A fault that awaits the warden's decision (R461): status, unit (R247 UNIT), whether parity of an engine caused it,
whether it came from a paired comparison, whether the bad word lies in a COPY range or a bank, or parity failed in the
sequencer's registers, whether the instruction is a RELAY.SEND, for a comparison the ordinal of the item in its unit and the versions of it, and the words of SEQ_FAULT and
SEQ_FAULT_PC that describe it. -/
structure FaultRec where
  status : Nat
  unit : Nat
  parity : Bool
  pair : Bool
  inSpanData : Bool
  relaySend : Bool
  drainNo : Nat
  output : List Byte
  follower : List Byte
  seq : Word
  pc : Nat
  deriving DecidableEq, Repr

/-- A decision replay under way (R467, R468): the unit and the ordinal of the item compared, the versions at hand, the
core it was first run on, and whether this is the second replay. -/
structure Decision where
  engine : Nat
  drainNo : Nat
  output : List Byte
  pairDrop : Bool
  follower : List Byte
  first : Nat
  second : Bool
  /-- the replay's own version of the item, once captured, and whether its check failed -/
  got : Option (List Byte)
  gotBad : Bool
  deriving DecidableEq, Repr

/-- A core, under its number (R466 moves this record with the number). -/
structure CoreSt where
  g : Tab Word
  td : Tab (BitVec 128)
  tc : Tab Nat
  seed : Word
  step : Nat
  deny : Bool
  pc : Nat
  phase : Phase
  hold : Hold
  q : Tab (List QEntry)
  fly : Tab (List Fly)
  order : Nat
  event : Nat
  key : Word
  intervals : List Interval
  span : Option SpanSt
  watches : List Watch
  stepping : Bool
  passBreak : Bool
  haltReq : Bool
  fault : Option FaultRec
  /-- a search for a helper is under way (R465) -/
  seek : Bool
  helperFor : Option Nat
  decision : Option Decision
  deriving DecidableEq, Repr

/-- A wait of a core's sequencer on a pager handle: the handle, since when, and the status the last wait ended with (R286). -/
structure SeqWait where
  on : Option Nat
  since : Nat
  given : Nat
  deriving DecidableEq, Repr

/-- Slot states (R84), numbered as in SLOT_STATE (R97). -/
inductive SlotSt where
  | free | waiting | ready | running | faulted
  deriving DecidableEq, Repr

/-- A task slot (R80, R84, R97). -/
structure Slot where
  st : SlotSt
  desc : List Byte
  seq : Nat
  core : Nat
  met : Nat
  status : Nat
  occ : Nat
  deriving DecidableEq, Repr

/-- A cluster's distributor and gait (R84 to R97, R352 to R355). -/
structure ClusterSt where
  postCount : Nat
  maskActive : Nat
  clearing : Bool
  pairIdx : Nat
  pulled : Nat
  step : Nat
  updDone : Nat
  /-- earlier posts since tandem ENABLE: ENTRY, ARG, MICRO_BATCH and their count (R439) -/
  occ : List (Nat × Nat × Nat × Nat)
  deriving DecidableEq, Repr

/-! ### Mover and update unit (09, 10) -/

/-- Who asked for a transfer. -/
inductive XferSrc where
  /-- the MOV.D, MOV.FADD or MOV.IADD of a core with its dispatch number -/
  | core (c : Nat) (e : QEntry)
  /-- COPY of a stream: port, stream, command index, and the command -/
  | stream (port : Nat) (s : Nat) (i : Nat) (cmd : List Byte)
  /-- a RELAY.SEND beyond its cluster: core, engine and dispatch number (R185) -/
  | relay (c : Nat) (e : Nat) (order : Nat)
  /-- the pager's copy of a handle (R283) -/
  | copy (h : Nat)
  deriving DecidableEq, Repr

/-- Where a transfer stopped or waits: block number, destination side, lowest DVA concerned (R316). -/
structure Stuck where
  block : Nat
  side : Bool
  dva : Nat
  deriving DecidableEq, Repr

/-- What a status record holds (R316), and the bytes written. -/
structure MoveEnd where
  st : Status
  detail : Nat
  prefix_ : Bool
  side : Bool
  posted : Bool
  slot : Nat
  bytes : Nat
  dva : Nat
  blocks : Nat
  written : List Byte
  deriving DecidableEq, Repr

/-- How a transfer that does not end OK came to its end: refused at admission (R305), stopped at a block (R313, R314), or
turned away whole later (a post its distributor refuses, no route to the other part). -/
inductive MoveStop where
  | refused | atBlock | whole
  deriving DecidableEq, Repr

/-- An admitted transfer of a die's mover (R300 to R316): number, requester, descriptor bytes (read at issue, R235),
the status its source or its wait stopped with, the handle it waits for, since when, and where it waits. -/
structure Xfer where
  id : Nat
  src : XferSrc
  desc : List Byte
  status : Nat
  waitHandle : Option Nat
  waitAt : Nat
  stuck : Option Stuck
  /-- blocks an atomic add has added, with their sums (R236) -/
  added : Nat
  sums : List Byte
  /-- its blocks have ended and its status record is still to be written (R315) -/
  result : Option (MoveStop × MoveEnd)
  /-- its packets to another part have been formed (R323) -/
  sent : Bool
  /-- no die of the part could send them (R367) -/
  unrouted : Bool
  /-- end of a transfer to another part: status, acknowledged prefix of packets, and the packet that ended it (R323) -/
  remote : Option (Nat × Nat × Nat)
  /-- result of a task post: status and slot (R322) -/
  posted : Option (Nat × Nat)
  deriving DecidableEq, Repr

/-- A pass of an update unit (R344 to R350): descriptor, program, ring index, whether it was admitted, elements done, how
it stopped, the report of R349, and each output's written bytes. -/
structure Pass where
  desc : List Byte
  prog : List Byte
  index : Nat
  admitted : Bool
  done : Nat
  status : Nat
  detail : Nat
  faultDva : Nat
  nonfinite : Bool
  firstNf : Nat
  nfOut : Nat
  nfKind : Nat
  written : List (List Byte)
  /-- the handle its next access waits on, and since when (R286) -/
  wait : Option Nat
  waitAt : Nat
  /-- the status its wait ended with -/
  given : Nat
  /-- how far its completion is (R350): 0 not begun, 1 the status record is next, 2 CONSUMER is next -/
  stage : Nat
  deriving DecidableEq, Repr

/-! ### Fabric (11) -/

/-- Who is told when an end-to-end transfer ends. -/
inductive SendFor where
  /-- a SIG of a core's sequencer (R77) -/
  | sig (core : Nat)
  /-- a mover transfer of a die -/
  | mover (die : Nat) (id : Nat)
  /-- a RELAY.SEND: core, engine and dispatch number -/
  | relay (core : Nat) (eng : Nat) (order : Nat)
  /-- a partner copy, or a remount stream, of a die -/
  | partner (die : Nat)
  | remount (die : Nat)
  /-- a signal an open span held (R459), with its counter -/
  | heldSig (core tok : Nat)
  /-- a digest record or notice (R440) -/
  | tandem
  deriving DecidableEq, Repr

/-- A packet of a transfer, not acknowledged yet (R376, R380): its block, its bytes, how often it was resent, whether it
left the engine, the circuit record it travels on, and whether a LATER NACK spares its next resend (R379). -/
structure SentPkt where
  node : Nat
  xfer : Nat
  seq : Nat
  block : Nat
  pkt : List Byte
  resends : Nat
  out : Bool
  circuit : Option Nat
  later : Bool
  deriving DecidableEq, Repr

/-- An end-to-end transfer at its source (R376 to R381): blocks in all, blocks acknowledged, and whether it ended. -/
structure SendXfer where
  node : Nat
  unit : Nat
  xfer : Nat
  who : SendFor
  blocks : Nat
  acked : List Nat
  ended : Bool
  deriving DecidableEq, Repr

/-- The receiver's record of a transfer (R377): blocks applied, and the blocks of a relay tile with the RECV it feeds. -/
structure RecvRec where
  node : Nat
  bank : Nat
  xfer : Nat
  applied : List Nat
  tile : Tab (List Byte)
  relay : Option (Nat × Nat × Nat)
  deriving DecidableEq, Repr

/-- What the part knows of one stream it receives (R376, R378, R379): the die whose engine received its latest packet, the next
SEQ beyond the highest received, the missing ones below it, and those not acknowledged yet. -/
structure Flow where
  node : Nat
  bank : Nat
  die : Nat
  next : Nat
  missing : List Nat
  unacked : List Nat
  deriving DecidableEq, Repr

/-- The outgoing stream of a circuit (R366): bytes that wait, the offsets at which tags begin, and the template. -/
structure CircOut where
  id : Nat
  buf : List Byte
  tags : List Nat
  template : List Byte
  /-- packets that are not in the stream yet (R376) -/
  queue : List (List Byte)
  deriving DecidableEq, Repr

/-- The incoming stream of a circuit at its exit bank: bytes not parsed yet, and the template. -/
structure CircIn where
  id : Nat
  buf : List Byte
  template : List Byte
  deriving DecidableEq, Repr

/-- A die's router and end-to-end engine (R367 to R381). -/
structure FabSt where
  frame : Nat
  tie : Nat
  bounce : List (List Byte)
  inject : List (List Byte)
  rx : List (List Byte)
  nextSeq : Tab Nat
  nextXfer : Nat
  sends : List SendXfer
  sent : List SentPkt
  recvs : List RecvRec
  circOut : List CircOut
  circIn : List CircIn
  /-- circuits that presented a stream in the frame before, and outputs with owners that presented a packet for them (R410) -/
  seen : List Nat
  asked : List (Nat × Nat)
  deriving DecidableEq, Repr

/-- A packet on the on-package network: the die it goes to, and whether it is whole (0), the first or the second half of a packet
with more than 256 bytes of payload (R374). -/
structure NetPkt where
  die : Nat
  half : Nat
  pkt : List Byte
  deriving DecidableEq, Repr

/-- A die's router of the on-package network (R374): its tie pointer, frames that arrive by its two inputs, packets that wait for
injection, and halves that wait for each other. -/
structure NetSt where
  tie : Nat
  arrived : List (Nat × NetPkt)
  inject : List NetPkt
  halves : List NetPkt
  deriving DecidableEq, Repr

/-- A fabric port: the frame it sent last, the moments of its latest uncorrectable codewords (R360), whether its test has
met an error, and the far end that PROBE traffic names (R392). -/
structure PortSt where
  out : List Byte
  fecAt : List Nat
  probeBad : Bool
  far : Option (Nat × Nat)
  deriving DecidableEq, Repr

/-! ### Dies -/

/-- A core due for a farrier test (R470): local core and due moment. -/
structure Due where
  core : Nat
  moment : Nat
  deriving DecidableEq, Repr

/-- A partner copy under way (R475 to R477): slot, STEP, the header it wrote, DIGEST and BYTES of its data, transfers not
yet acknowledged, and the status that stopped it. -/
structure Copy where
  slot : Nat
  step : Nat
  header : List Byte
  digest : Word
  bytes : Nat
  left : Nat
  failed : Option Nat
  deriving DecidableEq, Repr

/-- What a die holds beside its registers. -/
structure DieSt where
  tlb : List Leaf
  rlines : Tab RLine
  /-- REMOTE_MODE whose placement is in force (R254, R256), and correctable errors of the scrub period (R272) -/
  cacheMode : Nat
  ceScrub : Nat
  /-- mover: requests at the table in order of arrival, and admitted transfers (R300, R301) -/
  waiting : List XferSrc
  active : List Xfer
  nextId : Nat
  peak : Nat
  /-- pager -/
  stamp : Nat
  /-- handles to pin once RESIDENT, and requests that wait for frames, oldest first (R283, R284) -/
  pgPin : List Nat
  pgWait : List PgJob
  /-- an eviction met a full reserve (R281) -/
  pgFull : Bool
  /-- update unit -/
  pass : Option Pass
  /-- physical ranges on which accesses wait: first address, bytes, and whether reads wait too (a running pass, R260) or
  writes only (a partner copy, R476) -/
  holds : List (Nat × Nat × Bool)
  /-- BAR2 accesses of the die's port that wait: offset, and whether a write (R260, R290) -/
  bar2Wait : List (Nat × Bool)
  /-- ramp governor (R136): granted steps (moment, rise); LSA_N asserted, the moment of that assertion, and the moment its
  last cause other than the ledger ended (R566, R569); the moment DROOP_N was last released (R566) -/
  ledger : List (Nat × Bool)
  lsa : Bool
  lsaAt : Nat
  lsaEnd : Nat
  stretchAt : Nat
  /-- router and end-to-end engine; router of the on-package network -/
  fab : FabSt
  net : NetSt
  /-- resends of packets of transfers inside the part, by transfer and block (R375): a transfer of the mover (0, number, 0), a
  relay (1 + engine, core, dispatch number) -/
  resent : List ((Nat × Nat × Nat) × Nat × Nat)
  /-- farrier (R469 to R473): cores due; suspect units as local core and unit (0, 1 matrix engine, 2 vector engine, 3 core);
  the core under test; end of each core's last test or its DEFER; moment from which first tests count; units that passed
  while suspect, as physical core of the die, unit and moment -/
  dues : List Due
  suspects : List (Nat × Nat)
  testing : Option Nat
  lastTest : Tab Nat
  testBase : Nat
  passed : List (Nat × Nat × Nat)
  /-- partner copy under way, and the slot last completed (R476) -/
  copy : Option Copy
  lastSlot : Nat
  /-- a remount under way, with its outcome once known (R481) -/
  remount : Option (Option Nat)
  /-- trace (R587, R590) -/
  dieSeq : Nat
  traceWin : Nat
  traceCount : Nat
  /-- power (R560 to R568): the cap loop's level, the level whose voltage the part requests, DROOP_N -/
  capLevel : Nat
  voltLevel : Nat
  droop : Bool
  stretch : Bool
  droopStuck : Bool
  deriving DecidableEq, Repr

/-! ### Time and tandem (13) -/

/-- A slew in progress (R432): raw start, old and new offset. -/
structure Slew where
  r0 : Nat
  o0 : Int
  o1 : Int
  deriving DecidableEq, Repr

/-- An offset survey under way (R427, R428): kept exchanges (o, r), exchanges made, raw moment of GO, whether the parent
was not ready and a retry is due, and the raw moment of the last REQUEST. -/
structure Survey where
  kept : List (Int × Int)
  made : Nat
  start : Nat
  retry : Bool
  t1 : Nat
  deriving DecidableEq, Repr

/-- One entry of the tandem match table (R441). -/
structure MatchRec where
  own : Bool
  key : Word
  interval : Nat
  events : Nat
  digest : Word
  deriving DecidableEq, Repr

structure TimeSt where
  raw : Nat
  skew : Tab Int
  slew : Option Slew
  survey : Option Survey
  table : List MatchRec
  deriving DecidableEq, Repr

/-! ### Hosts (15) -/

/-- A host stream (R512, R517): the doorbell's PRODUCER and the commands in progress (indices). -/
structure StreamSt where
  producer : Nat
  busy : List Nat
  deriving DecidableEq, Repr

/-! ### Start, security, pins (16, 17) -/

/-- Where the part stands (R523 to R532, R564, R573). -/
inductive RunSt where
  /-- RESET_N low -/
  | reset
  /-- start steps under way: after RESET_N release, waiting at the named step -/
  | starting (step : Nat)
  /-- C9 reached -/
  | ready
  /-- a start step failed, clocks run -/
  | failed
  /-- lost in service: THERMTRIP_N, loss of REFCLK_PKG, or a second dead lateral edge (R28, R483) -/
  | dead
  deriving DecidableEq, Repr

/-- Pins and clocks (R565 to R573); true is the high level. -/
structure Pins where
  resetN : Bool
  perstN : Bool × Bool
  droopN : Tab Bool
  throttleN : Bool
  /-- THROTTLE_N stood asserted for 10 s and was reported (R568) -/
  throttleTold : Bool
  thermtripN : Bool
  smbAlertN : Bool
  refPkg : Bool
  refSd : Bool
  refPcie : Bool × Bool
  deriving DecidableEq, Repr

/-- The receiver of a bundle (R22, R23, R29): idle frames taken (modulo the period of their sequence), and the moments of
its latest bit errors in idle frames and of its latest strobe errors, newest first, sixteen of each at most. -/
structure BundleSt where
  idle : Nat
  bitErrs : List Nat
  strobeErrs : List Nat
  deriving DecidableEq, Repr

/-- A record of the repair-map log (R44, R45): sector and slot, base-die serial, sequence number, the map as the words
of the repair-map window that are not 0, and the CRC-64 stored with them. -/
structure MapRec where
  sector : Nat
  slot : Nat
  serial : Nat
  seq : Nat
  map : Tab Word
  crc : Word
  deriving DecidableEq, Repr

/-- Flash (R533, R534): its bytes, the records of the repair-map log (which stand in its bytes at 0x8_0000), its counters and
the MIRRORED the last cold start logged (R37). Beside it what retention memory holds beyond the repair maps: by die, the
IMAGE_WRITES value and BODY_DIGEST of the retained image (R541), whether the CDI is locked (R545), and retirements the
full log could not take, as unit type, unit and cause (R55). `update` is a slot update under way: source and target slot (R542). -/
structure FlashSt where
  bytes : Tab Byte
  maps : List MapRec
  mirrored : Option Bool
  update : Option (Nat × Nat)
  rollbackFloor : Nat
  rootFloor : Nat
  imageWrites : Nat
  retained : Tab (Nat × List Byte)
  cdiLocked : Bool
  /-- copy of the grade record in use (R50) -/
  gradeCopy : Nat
  heldRetire : List (Nat × Nat × Nat)
  deriving DecidableEq, Repr

/-- Attestation, management bus and test access port (R531, R546 to R550, R574): by SPDM transport, the version negotiated (0
none) and whether the algorithms are; failed unlocks of this start; the endpoint number of the bus; the TAP's instruction
(0 IDCODE, 1 BYPASS, 2 SAMPLE/PRELOAD, 3 EXTEST, 4 the unlock instrument), the networks an unlock opened, and the two words of
the debug nonce. -/
structure MgmtSt where
  spdm : Tab (Nat × Bool)
  unlockFails : Nat
  eid : Nat
  tapInstr : Nat
  debugNets : Nat
  nonce : Word × Word
  deriving DecidableEq, Repr

/-- What the last command answered to its sender. -/
inductive Reply where
  | none
  /-- data of a read -/
  | data (v : Nat)
  | bytes (b : List Byte)
  /-- a PCIe completion without data: 1 Unsupported Request, 2 Request Retry Status, 4 Completer Abort -/
  | completion (code : Nat)
  deriving DecidableEq, Repr

/-- Everything but the queue of commands. -/
structure Part where
  regs : Tab Word
  mem : Tab Byte
  host : Tab Byte
  upsets : Tab Upset
  /-- lines in the local portions of the die caches, by physical address / 256 -/
  lines : Tab CLine
  cores : Tab CoreSt
  seqWaits : Tab SeqWait
  banks : Tab Bank
  engines : Tab EngineSt
  ves : Tab VeSt
  clusters : Tab ClusterSt
  slots : Tab Slot
  staging : Tab (List Byte)
  postRes : Tab (Nat × Nat)
  dies : Tab DieSt
  handles : Tab Handle
  ports : Tab PortSt
  flows : List Flow
  /-- the pending epoch flip has taken place (R388) -/
  flipDone : Bool
  /-- sets committed and not applied yet, by arbiter group: ARB_CTRL and the SLOT_PAIR words (R414) -/
  arbSets : Tab (List Word)
  /-- instances and requesters behind the STARVED bits, by arbiter group (R416, R421) -/
  starved : Tab (List (Nat × Nat))
  streams : Tab StreamSt
  msix : List (Nat × Nat)
  evSeq : Nat
  time : TimeSt
  /-- bundles whose retirement notice awaits its acknowledgement (R29): die and repair-map index -/
  retireNotices : List (Nat × Nat)
  /-- receivers of bundles (R29), by 2,176 x die + repair-map index -/
  bundles : Tab BundleSt
  /-- fabric ports in the disabled-unit map (R51, R56) -/
  retiredPorts : List Nat
  /-- the stack and channel at which HBM training failed for the second time (R262) -/
  hbmFault : Option (Nat × Nat)
  /-- a held partner trigger (R476), with the STEP of the boundary it starts at once every copy has ended -/
  copyHeld : Option (Option Nat)
  run : RunSt
  pins : Pins
  flash : FlashSt
  mgmt : MgmtSt
  /-- thermal level of each cluster, and the sensors that throttle (R563): 0 to 31 clusters, 32 to 35 base dies, 36 on stacks -/
  levels : Tab Nat
  hot : List Nat
  /-- moment of the last change of a cluster's thermal level; the sensor whose trip THERMTRIP_N latched (R564) -/
  levelAt : Tab Nat
  trip : Option Nat
  /-- package power in mW at the latest polls, newest first (R558, R562) -/
  power : List Nat
  /-- the moment T of a pending counter latch (R586) -/
  snapAt : Nat
  reply : Reply
  draw : Nat
  deriving DecidableEq, Repr

/-- The state of the block: the part, and the commands that wait, first in first out. -/
structure State where
  part : Part
  pending : List Instr
  deriving DecidableEq, Repr

/-! ### Reset -/

def Handle.reset : Handle := ⟨.free, 0, 0, [], [], false, false, false, false, 0, 0, 0, false⟩
def CheckSt.clear : CheckSt := ⟨[], 0, 0, false⟩
def Bank.reset : Bank := ⟨.empty, 0, [], 0, CheckSt.clear⟩
def EngineSt.reset : EngineSt := ⟨false, 0, 0, false, false, []⟩
def SeqWait.reset : SeqWait := ⟨none, 0, 0⟩
def VeSt.reset : VeSt := ⟨false, 0⟩
def Slot.reset : Slot := ⟨.free, [], 0, 0, 0, 0, 0⟩
def ClusterSt.reset : ClusterSt := ⟨0, 0xFF, false, 0, 0, 0, 0, []⟩
def FabSt.reset : FabSt := ⟨0, 0, [], [], [], [], 0, [], [], [], [], [], [], []⟩
def NetSt.reset : NetSt := ⟨0, [], [], []⟩
def PortSt.reset : PortSt := ⟨[], [], false, none⟩
def BundleSt.reset : BundleSt := ⟨0, [], []⟩
def StreamSt.reset : StreamSt := ⟨0, []⟩
def TimeSt.reset : TimeSt := ⟨0, [], none, none, []⟩
def FlashSt.reset : FlashSt := ⟨[], [], none, none, 0, 0, 0, [], false, 0, []⟩
def MgmtSt.reset : MgmtSt := ⟨[], 0, 0, 0, 0, (0, 0)⟩

def CoreSt.reset : CoreSt where
  g := []
  td := []
  tc := []
  seed := 0
  step := 0
  deny := false
  pc := 0
  phase := .idle
  hold := .none
  q := []
  fly := []
  order := 0
  event := 0
  key := 0
  intervals := []
  span := none
  watches := []
  stepping := false
  passBreak := false
  haltReq := false
  fault := none
  seek := false
  helperFor := none
  decision := none

def DieSt.reset : DieSt where
  tlb := []
  rlines := []
  cacheMode := 0
  ceScrub := 0
  waiting := []
  active := []
  nextId := 0
  peak := 0
  stamp := 0
  pgPin := []
  pgWait := []
  pgFull := false
  pass := none
  holds := []
  bar2Wait := []
  ledger := []
  lsa := false
  lsaAt := 0
  lsaEnd := 0
  stretchAt := 0
  fab := FabSt.reset
  net := NetSt.reset
  resent := []
  dues := []
  suspects := []
  testing := none
  lastTest := []
  testBase := 0
  passed := []
  copy := none
  lastSlot := 1
  remount := none
  dieSeq := 0
  traceWin := 0
  traceCount := 0
  capLevel := 16
  voltLevel := 16
  droop := false
  stretch := false
  droopStuck := false

/-- Pins while RESET_N is held low: PERST low, the other active-low pins high, clocks present (log entry 3). -/
def Pins.reset : Pins where
  resetN := false
  perstN := (false, false)
  droopN := []
  throttleN := true
  throttleTold := false
  thermtripN := true
  smbAlertN := true
  refPkg := true
  refSd := true
  refPcie := (true, true)

def Part.reset : Part where
  regs := []
  mem := []
  host := []
  upsets := []
  lines := []
  cores := []
  seqWaits := []
  banks := []
  engines := []
  ves := []
  clusters := []
  slots := []
  staging := []
  postRes := []
  dies := []
  handles := []
  ports := []
  flows := []
  flipDone := false
  arbSets := []
  starved := []
  streams := []
  msix := []
  evSeq := 0
  time := TimeSt.reset
  retireNotices := []
  bundles := []
  retiredPorts := []
  hbmFault := none
  copyHeld := none
  run := .reset
  pins := Pins.reset
  flash := FlashSt.reset
  mgmt := MgmtSt.reset
  levels := []
  hot := []
  levelAt := []
  trip := none
  power := []
  snapAt := 0
  reply := .none
  draw := 0

/-- The block while RESET_N is held low: every register at the Reset column of its table, every queue empty. -/
def State.reset : State := ⟨Part.reset, []⟩

end Sys2Proof.Machine
end

