-- ==== Sys2Proof/WellFormed.lean ====
section
/-! DEFINITION. Which terms of `Instr` are commands that can occur: the operands whose type is wider than what the spec
allows. Every other operand is of the exact type (log entry 8). -/

namespace Sys2Proof

/-- A list of numbers that rises strictly, so that none occurs twice. -/
def rising : List Nat → Bool
  | [] => true
  | [_] => true
  | a :: b :: r => decide (a < b) && rising (b :: r)

/-- An access of `n` bytes at an offset of a BAR of `size` bytes (R491): at least one byte, all of them inside. -/
def barAccessOk (size off n : Nat) : Bool := decide (1 ≤ n) && decide (off + n ≤ size)

/-- Bytes of BAR0 and of BAR2 (R491). -/
def bar0Size : Nat := 0x800_0000
def bar2Size : Nat := 0x40_0000_0000

/-- Flipped bits of the elements of an accumulator bank: 128 x 128 elements (R111), each named once. -/
def elementFlipsOk (l : List (Nat × BitVec 32)) : Bool := rising (l.map (·.1)) && l.all (fun x => decide (x.1 < 16384))

/-- The frames that the six ports of a die receive (R359, R367): at most one a port, 576 bytes each. -/
def framesOk (ins : List (Nat × List Byte)) : Bool :=
  rising (ins.map (·.1)) && ins.all (fun x => decide (x.1 < 6) && decide (x.2.length = 576))

/-- A frame has 68 data wires (R21). -/
def BundleFrame.wf (f : BundleFrame) : Bool := decide (f.wires.length = 68)

/-- UIs of a phase of the wire survey (R38; 0 stands for phase 1): 1,024 for each of 68 wires, or 2^24. -/
def surveyLength (ph : Nat) : Nat := if ph < 2 then 1024 * 68 else 2 ^ 24

/-- A sample lies within its phase. -/
def WireSample.wf (x : WireSample) : Bool := decide (x.ui < surveyLength x.phase)

/-- What a start finds: tries for 4 compute dies, 4 base dies and 12 stacks (R33). -/
def StartFacts.wf (x : StartFacts) : Bool :=
  decide (x.tries.length = 20) && x.wires.all (fun w => w.samples.all WireSample.wf)

/-- Readings of rails, each rail at most once. -/
def readingsOk (l : List (Fin 16 × Option (BitVec 16 × BitVec 16))) : Bool := rising (l.map (fun x => x.1.val))

/-- The tests of a start name each core at most once. -/
def testsOk (t : Option (List (Fin 256 × BitVec 5))) : Bool :=
  match t with
  | none => true
  | some l => rising (l.map (fun x => x.1.val))

/-- The checks of a command. -/
def Instr.wf : Instr → Bool
  | .instructionComplete _ _ _ err ferr => elementFlipsOk err && elementFlipsOk ferr
  | .bundleRetireLive _ i => i.2.all BundleFrame.wf
  | .scrubPass _ flips => flips.all (fun f => decide (f.word < 0xFE0_2000_0000))
  | .routerFrame _ ins bad => framesOk ins && bad.all (fun q => decide (q < 6))
  | .bar2Read _ off n => barAccessOk bar2Size off n
  | .bar2Write _ off data => barAccessOk bar2Size off data.length
  | .registerWrite _ off n _ x => barAccessOk bar0Size off n && x.start.wf
  | .registerReadClear _ off n => barAccessOk bar0Size off n
  | .mgmt _ _ x => x.start.wf
  | .resetNRelease x => x.wf
  | .startStepTimeout x => x.wf
  | .warmStart _ x => x.wf
  | .retry _ x => x.wf
  | .activateFirmware x => x.wf
  | .hostLinkUp _ _ _ _ tests => testsOk tests
  | .challenge _ _ nonce => decide (nonce.length = 32)
  | .getMeasurements _ _ nonce => nonce.all (fun n => decide (n.length = 32))
  | .avsbusPoll readings => readingsOk readings
  | .thermalSample temps => decide (temps.length = 48)
  | _ => true

end Sys2Proof
end

