-- ==== Sys2Proof/Machine/Ops.lean ====
section
/-! DEFINITION. Named operations over the state: sparse tables, byte strings, registers and their fields, status
codes, memory bytes, events, and how a command's effect reaches the state. -/

namespace Sys2Proof.Machine

/-! ### Sparse tables -/

/-- The value listed at a key. -/
def Tab.find? {α : Type} (t : Tab α) (k : Nat) : Option α :=
  match t with
  | [] => none
  | (j, v) :: r => if j = k then some v else Tab.find? r k

/-- List a value at a key, keeping keys in rising order. -/
def Tab.put {α : Type} (t : Tab α) (k : Nat) (v : α) : Tab α :=
  match t with
  | [] => [(k, v)]
  | (j, w) :: r =>
    if j = k then (k, v) :: r else if k < j then (k, v) :: (j, w) :: r else (j, w) :: Tab.put r k v

/-- Remove a key. -/
def Tab.del {α : Type} (t : Tab α) (k : Nat) : Tab α := t.filter (fun x => x.1 != k)

/-- Remove every key in `[lo, lo + n)`. -/
def Tab.delRange {α : Type} (t : Tab α) (lo n : Nat) : Tab α :=
  t.filter (fun x => x.1 < lo || lo + n ≤ x.1)

/-- The value at a key, `d` where none is listed. -/
def Tab.get {α : Type} (d : α) (t : Tab α) (k : Nat) : α := (Tab.find? t k).getD d

/-- The canonical write: a value equal to the default is not listed. -/
def Tab.set {α : Type} [DecidableEq α] (d : α) (t : Tab α) (k : Nat) (v : α) : Tab α :=
  if v = d then Tab.del t k else Tab.put t k v

/-- Canonical form of a table with default `d`: keys strictly rising, no value equal to the default. -/
def Tab.wf {α : Type} [DecidableEq α] (d : α) (t : Tab α) : Bool :=
  match t with
  | [] => true
  | [(_, v)] => decide (v ≠ d)
  | (j, v) :: (k, w) :: r => decide (v ≠ d) && decide (j < k) && Tab.wf d ((k, w) :: r)

/-- Keys listed in `[lo, lo + n)`. -/
def Tab.keysIn {α : Type} (t : Tab α) (lo n : Nat) : List Nat :=
  (t.filter (fun x => lo ≤ x.1 && x.1 < lo + n)).map (·.1)

/-! ### Bits and byte strings, little-endian (R15) -/

/-- Bits [hi:lo] of a number. -/
def bits (v hi lo : Nat) : Nat := v / 2 ^ lo % 2 ^ (hi + 1 - lo)

/-- Bit `i` of a number. -/
def bit (v i : Nat) : Bool := v / 2 ^ i % 2 == 1

/-- 1 for true. -/
def bnat (b : Bool) : Nat := if b then 1 else 0

/-- The `n` bytes of a number, least significant first. -/
def leBytes (n : Nat) (v : Nat) : List Byte :=
  match n with
  | 0 => []
  | n + 1 => BitVec.ofNat 8 v :: leBytes n (v / 256)

/-- The number of a byte string. -/
def leNat : List Byte → Nat
  | [] => 0
  | b :: r => b.toNat + 256 * leNat r

/-- `n` bytes at an offset of a byte string, zeros beyond its end. -/
def bytesAt (l : List Byte) (off n : Nat) : List Byte :=
  ((l.drop off).take n) ++ List.replicate (n - ((l.drop off).take n).length) 0

/-- The little-endian number at an offset of a byte string. -/
def fieldAt (l : List Byte) (off n : Nat) : Nat := leNat (bytesAt l off n)

/-- Signed value of the low `w` bits. -/
def signed (w v : Nat) : Int := if v % 2 ^ w < 2 ^ (w - 1) then (v % 2 ^ w : Nat) else (v % 2 ^ w : Nat) - (2 ^ w : Nat)

/-- Round up to a multiple. -/
def ceilDiv (a b : Nat) : Nat := (a + b - 1) / b

/-- Saturating addition at a field's largest value. -/
def satAdd (w a b : Nat) : Nat := min (a + b) (2 ^ w - 1)

/-- Replace element `i` of a list. -/
def listSet {α : Type} (l : List α) (i : Nat) (v : α) : List α := l.set i v

/-! ### Status codes (R522) -/

/-- The 16-bit code of a status. -/
def Status.code : Status → Nat
  | .ok => 0x0000 | .busy => 0x0001 | .conflict => 0x0002 | .notOwner => 0x0003 | .range => 0x0004
  | .unsupported => 0x0005 | .overlap => 0x0006 | .xlateFault => 0x0007 | .protFault => 0x0008
  | .uncorrectable => 0x0009 | .checkMismatch => 0x000A | .nonfinite => 0x000B | .timeout => 0x000C
  | .sameFeed => 0x000D | .reserveExhausted => 0x000E | .replayLimit => 0x000F | .retiredUnit => 0x0010
  | .sigFail => 0x0011 | .epochPending => 0x0012 | .starvation => 0x0013 | .boundLapsed => 0x0014
  | .idUnresolved => 0x0015 | .testOverdue => 0x0016

/-- A status code read back as a status. -/
def Status.ofCode (n : Nat) : Status :=
  ([.busy, .conflict, .notOwner, .range, .unsupported, .overlap, .xlateFault, .protFault, .uncorrectable,
    .checkMismatch, .nonfinite, .timeout, .sameFeed, .reserveExhausted, .replayLimit, .retiredUnit, .sigFail,
    .epochPending, .starvation, .boundLapsed, .idUnresolved, .testOverdue] : List Status).findSome?
      (fun s => if s.code = n then some s else none) |>.getD .ok

/-! ### Registers -/

/-- The raw word of element `i` of register `r`. -/
def Part.rd (p : Part) (r : Reg) (i : Nat) : Word := Tab.get (r.reset i) p.regs (r.off i)

/-- Store the raw word of a register element. -/
def Part.wr (p : Part) (r : Reg) (i : Nat) (w : Word) : Part :=
  { p with regs := Tab.set (r.reset i) p.regs (r.off i) w }

/-- A field of a register element. -/
def Part.get (p : Part) (f : Fld) (i : Nat) : Nat := f.of (p.rd f.reg i)

/-- Set a field of a register element. -/
def Part.put (p : Part) (f : Fld) (i : Nat) (v : Nat) : Part := p.wr f.reg i (f.into (p.rd f.reg i) v)

/-- Add to a counting field, stopping at its largest value: DESIGN CHOICE for every field of which the spec does not say
whether it stops or wraps, LSA_COUNT (R143) among them (log entry 74). -/
def Part.bump (p : Part) (f : Fld) (i : Nat) (n : Nat) : Part := p.put f i (satAdd f.width (p.get f i) n)

/-- Add to always-on counter `i` of die `d`, modulo 2^48 (R584, R585). -/
def Part.count (p : Part) (d i n : Nat) : Part :=
  p.put Fld.COUNTER.COUNT (13 * d + i) (p.get Fld.COUNTER.COUNT (13 * d + i) + n)

/-! ### Records of the state -/

def Part.core (p : Part) (c : Nat) : CoreSt := Tab.get CoreSt.reset p.cores c
def Part.setCore (p : Part) (c : Nat) (x : CoreSt) : Part := { p with cores := Tab.set CoreSt.reset p.cores c x }
def Part.modCore (p : Part) (c : Nat) (f : CoreSt → CoreSt) : Part := p.setCore c (f (p.core c))
def Part.bank (p : Part) (k : Nat) : Bank := Tab.get Bank.reset p.banks k
def Part.setBank (p : Part) (k : Nat) (x : Bank) : Part := { p with banks := Tab.set Bank.reset p.banks k x }
def Part.engine (p : Part) (e : Nat) : EngineSt := Tab.get EngineSt.reset p.engines e
def Part.setEngine (p : Part) (e : Nat) (x : EngineSt) : Part := { p with engines := Tab.set EngineSt.reset p.engines e x }
def Part.ve (p : Part) (c : Nat) : VeSt := Tab.get VeSt.reset p.ves c
def Part.setVe (p : Part) (c : Nat) (x : VeSt) : Part := { p with ves := Tab.set VeSt.reset p.ves c x }
def Part.cluster (p : Part) (k : Nat) : ClusterSt := Tab.get ClusterSt.reset p.clusters k
def Part.setCluster (p : Part) (k : Nat) (x : ClusterSt) : Part :=
  { p with clusters := Tab.set ClusterSt.reset p.clusters k x }
def Part.slot (p : Part) (k s : Nat) : Slot := Tab.get Slot.reset p.slots (256 * k + s)
def Part.setSlot (p : Part) (k s : Nat) (x : Slot) : Part := { p with slots := Tab.set Slot.reset p.slots (256 * k + s) x }
def Part.die (p : Part) (d : Nat) : DieSt := Tab.get DieSt.reset p.dies d
def Part.setDie (p : Part) (d : Nat) (x : DieSt) : Part := { p with dies := Tab.set DieSt.reset p.dies d x }
def Part.modDie (p : Part) (d : Nat) (f : DieSt → DieSt) : Part := p.setDie d (f (p.die d))
def Part.seqWait (p : Part) (c : Nat) : SeqWait := Tab.get SeqWait.reset p.seqWaits c
def Part.setSeqWait (p : Part) (c : Nat) (x : SeqWait) : Part := { p with seqWaits := Tab.set SeqWait.reset p.seqWaits c x }
def Part.handle (p : Part) (h : Nat) : Handle := Tab.get Handle.reset p.handles h
def Part.setHandle (p : Part) (h : Nat) (x : Handle) : Part := { p with handles := Tab.set Handle.reset p.handles h x }
def Part.stream (p : Part) (port s : Nat) : StreamSt := Tab.get StreamSt.reset p.streams (4096 * port + s)
def Part.setStream (p : Part) (port s : Nat) (x : StreamSt) : Part :=
  { p with streams := Tab.set StreamSt.reset p.streams (4096 * port + s) x }

/-- The records of a core's queue and of its instructions in flight, per unit (R62). -/
def unitIdx : EUnit → Nat
  | .me0 => 0 | .me1 => 1 | .ve => 2 | .mover => 3

def CoreSt.queue (x : CoreSt) (u : EUnit) : List QEntry := Tab.get [] x.q (unitIdx u)
def CoreSt.setQueue (x : CoreSt) (u : EUnit) (l : List QEntry) : CoreSt := { x with q := Tab.set [] x.q (unitIdx u) l }
def CoreSt.flying (x : CoreSt) (u : EUnit) : List Fly := Tab.get [] x.fly (unitIdx u)
def CoreSt.setFlying (x : CoreSt) (u : EUnit) (l : List Fly) : CoreSt := { x with fly := Tab.set [] x.fly (unitIdx u) l }

/-- Queue depths (R62). -/
def unitDepth : EUnit → Nat
  | .mover => 64
  | _ => 32

/-! ### Numbering (R11, R12, R466) -/

def clusterOf (c : Nat) : Nat := c / 8
def dieOf (c : Nat) : Nat := c / 64

/-- The physical core that answers to global core number `c` (CORE_PLACE, R466). -/
def Part.phys (p : Part) (c : Nat) : Nat :=
  8 * (c / 8) + bits (p.rd .CORE_PLACE (c / 8)).toNat (3 * (c % 8) + 2) (3 * (c % 8))

/-- Whether core `c` is retired (R61). -/
def Part.coreRetired (p : Part) (c : Nat) : Bool :=
  bit (p.rd .DISABLED_MAP (c / 8)).toNat (32 + p.phys c % 8) || bit (p.rd .DISABLED_MAP (c / 8)).toNat 40

/-- Whether engine `e` (0 or 1) of core `c` is usable: not disabled by grade, not retired, alone or with its core or
cluster (R3, R61, R192, R473). -/
def Part.meUsable (p : Part) (c e : Nat) : Bool :=
  let w := p.rd .DISABLED_MAP (c / 8)
  let q := p.phys c % 8
  !bit w.toNat (2 * q + e) && !bit w.toNat (16 + 2 * q + e) && !p.coreRetired c

/-- Whether power domain `n` is on (R570, R580). -/
def Part.domainOn (p : Part) (n : Nat) : Bool := bit (p.get Fld.PD_STATUS.ON 0) n

/-- The part runs tasks and serves its hosts: C9 was reached and the clocks run. -/
def Part.ready (p : Part) : Bool := p.run == .ready

/-- Whether a PCIe link is up. -/
def Part.linkUp (p : Part) (port : Nat) : Bool := p.get Fld.HOST_PORT_STATUS.LINK_UP port == 1

/-! ### Memory bytes (R273) -/

/-- First address of the tile store of core `c`. -/
def tileBase (c : Nat) : Nat := 0x7F00_0000_0000 + c * 0x100_0000

/-- What a physical address names. -/
inductive Where where
  | hbm (die : Nat)
  | host (port : Nat) (addr : Nat)
  | tile (core : Nat) (addr : Nat)
  | window (bank : Nat) (off : Nat)
  | reserved (core : Nat)
  | mmio
  | hole
  deriving DecidableEq, Repr

/-- The physical map (R249, R273). -/
def whereIs (pa : Nat) : Where :=
  if pa < 0xC0_0000_0000 then .hbm (pa / 0x30_0000_0000)
  else if 0x4000_0000_0000 ≤ pa ∧ pa < 0x5000_0000_0000 then .host 0 (pa - 0x4000_0000_0000)
  else if 0x5000_0000_0000 ≤ pa ∧ pa < 0x6000_0000_0000 then .host 1 (pa - 0x5000_0000_0000)
  else if 0x7F00_0000_0000 ≤ pa ∧ pa < 0x7F01_0000_0000 then
    let c := (pa - 0x7F00_0000_0000) / 0x100_0000
    let a := (pa - 0x7F00_0000_0000) % 0x100_0000
    if a < 0xA0_0000 then .tile c a
    else if a < 0xA4_0000 then .window (4 * c + (a - 0xA0_0000) / 0x1_0000) (a % 0x1_0000)
    else .reserved c
  else if 0x7FF0_0000_0000 ≤ pa ∧ pa < 0x7FF0_4000_0000 then .mmio
  else .hole

/-- Element `k` (row x 128 + column) of a bank. -/
def Bank.elem (b : Bank) (k : Nat) : BitVec 32 := Tab.get b.fill b.cells k

def Bank.setElem (b : Bank) (k : Nat) (v : BitVec 32) : Bank := { b with cells := Tab.set b.fill b.cells k v }

/-- One byte of host memory. -/
def Part.hostByte (p : Part) (port a : Nat) : Byte := Tab.get 0 p.host (port * 2 ^ 64 + a)

/-- One stored byte at a physical address, without the check code: 0 where nothing is listed (log entry 4). -/
def Part.byte (p : Part) (pa : Nat) : Byte :=
  match whereIs pa with
  | .host port a => p.hostByte port a
  | .window k o => BitVec.ofNat 8 (((p.bank k).elem (o / 4)).toNat / 2 ^ (8 * (o % 4)))
  | .hbm _ | .tile _ _ => Tab.get 0 p.mem pa
  | .reserved _ | .mmio | .hole => 0

/-- Bytes from a physical address upward. -/
def Part.bytes (p : Part) (pa n : Nat) : List Byte := (List.range n).map (fun i => p.byte (pa + i))

/-- Bytes of host memory. -/
def Part.hostBytes (p : Part) (port a n : Nat) : List Byte :=
  (List.range n).map (fun i => p.hostByte port ((a + i) % 2 ^ 64))

/-- Store one byte without the check code. A window byte is stored by the bank's own rule (`storeWindow`). -/
def Part.setByte (p : Part) (pa : Nat) (b : Byte) : Part :=
  match whereIs pa with
  | .host port a => { p with host := Tab.set 0 p.host (port * 2 ^ 64 + a) b }
  | .hbm _ | .tile _ _ => { p with mem := Tab.set 0 p.mem pa b }
  | .window _ _ | .reserved _ | .mmio | .hole => p

/-- Store bytes from a physical address upward. -/
def Part.setBytes (p : Part) (pa : Nat) (l : List Byte) : Part :=
  match l with
  | [] => p
  | b :: r => (p.setByte pa b).setBytes (pa + 1) r

/-- Store bytes to host memory. -/
def Part.setHostBytes (p : Part) (port a : Nat) (l : List Byte) : Part :=
  match l with
  | [] => p
  | b :: r => ({ p with host := Tab.set 0 p.host (port * 2 ^ 64 + a % 2 ^ 64) b }).setHostBytes port (a + 1) r

/-! ### Free values -/

/-- A free value: the next draw of `Config.freeNat` (log entry 6). -/
def Part.draw1 (p : Part) : Part × Nat := ({ p with draw := p.draw + 1 }, Config.freeNat p.draw)

/-! ### Events (R518 to R520) -/

/-- The event types of R520. -/
inductive EventTy where
  | fault | replay | escalation | retirement | link | lease | starvation | testOverdue | tandem | memory | time
  | survey | stream | delivery | partner | environment
  deriving DecidableEq, Repr

def EventTy.code : EventTy → Nat
  | .fault => 1 | .replay => 2 | .escalation => 3 | .retirement => 4 | .link => 5 | .lease => 6 | .starvation => 7
  | .testOverdue => 8 | .tandem => 9 | .memory => 10 | .time => 11 | .survey => 12 | .stream => 13 | .delivery => 14
  | .partner => 15 | .environment => 16

/-- UNIT of R519: die (0xFF none), number, engine (0xFF none). -/
def unitWord (die num eng : Nat) : Nat := die * 2 ^ 24 + num * 2 ^ 16 + eng * 2 ^ 8

/-- A record of R519 with its PHASE. -/
def eventRecord (ty : EventTy) (st : Status) (unit info raw seq phase : Nat) : List Byte :=
  leBytes 2 ty.code ++ leBytes 2 st.code ++ leBytes 4 unit ++ leBytes 8 info ++ leBytes 8 raw ++ leBytes 4 seq ++
    [0, 0, 0] ++ leBytes 1 phase

/-- Write one event to the queue of a port, or count it as dropped (R518). -/
def Part.eventTo (p : Part) (port : Nat) (ty : EventTy) (st : Status) (unit info seq : Nat) : Part :=
  let prod := p.get Fld.EVQ_HEAD.PRODUCER port
  let cons := p.get Fld.EVQ_HEAD.CONSUMER port
  let size := 2 ^ (8 + p.get Fld.EVQ_BASE.SIZE_LOG2 port)
  let used := (prod + 2 ^ 32 - cons) % 2 ^ 32
  if p.get Fld.EVQ_BASE.ENABLE port = 0 ∨ size ≤ used ∨ ¬ p.linkUp port then
    p.bump Fld.EVQ_STATUS.DROPPED port 1
  else
    let rec_ := eventRecord ty st unit info p.time.raw seq ((prod / size + 1) % 2)
    let a := p.get Fld.EVQ_BASE.ADDR port * 4096 + 32 * (prod % size)
    let p := p.setHostBytes port a rec_
    let p := p.put Fld.EVQ_HEAD.PRODUCER port (prod + 1)
    if used = 0 then { p with msix := p.msix ++ [(port, 0)] } else p

/-- Raise an event to the ports named; it takes one event number of the part (R519). -/
def Part.eventOn (p : Part) (ports : List Nat) (ty : EventTy) (st : Status) (unit info : Nat) : Part :=
  let seq := p.evSeq
  let p := { p with evSeq := (p.evSeq + 1) % 2 ^ 32 }
  ports.foldl (fun p q => p.eventTo q ty st unit info seq) p

/-- Raise an event to both ports. -/
def Part.event (p : Part) (ty : EventTy) (st : Status) (unit info : Nat) : Part :=
  p.eventOn [0, 1] ty st unit info

/-! ### How a command reaches the state -/

/-- Run an effect on the part, leaving the queue of commands as it is. -/
def State.run (s : State) (f : Part → Part) : Host.Outcome State Fault Refusal :=
  .next { s with part := f { s.part with reply := .none } }

/-- Run an effect that only a part in service has; before C9, or once the clocks stopped, the event cannot happen and
the state stays (log entry 1). -/
def State.runReady (s : State) (f : Part → Part) : Host.Outcome State Fault Refusal :=
  s.run (fun p => if p.ready then f p else p)

/-- Run a command of the host behind a port, whose link must be up for it to arrive. -/
def State.runPort (s : State) (port : Nat) (f : Part → Part) : Host.Outcome State Fault Refusal :=
  s.run (fun p => if p.ready && p.linkUp port then f p else p)

/-- Refuse a command that is not well formed. -/
def whenWf (ok : Bool) (r : Host.Outcome State Fault Refusal) : Host.Outcome State Fault Refusal :=
  if ok then r else .refused .illFormed

end Sys2Proof.Machine
end

