-- ==== Sys2Proof/Machine/Code.lean ====
section
/-! DEFINITION. The codes of the part: the check code of stored words (R264 to R268), CRC-64 (R365) and the counter
generator of stochastic rounding (R166 to R169). -/

namespace Sys2Proof.Machine

/-! ### The check code -/

/-- Multiply by x modulo g(x) = 0x4377 (R265). -/
def bchStep (s : Nat) : Nat := if 2 * s < 2 ^ 14 then 2 * s else (2 * s) ^^^ 0x4377

/-- x^j mod g for the next `n` powers. -/
def bchPows (n : Nat) (s : Nat) : List Nat :=
  match n with
  | 0 => []
  | n + 1 => s :: bchPows n (bchStep s)

/-- The syndromes of the single positions 0 to 126. -/
def bchPositions : List (Nat × Nat) := (List.range 127).zip (bchPows 127 1)

/-- XOR of the syndromes of the set bits of `v`, whose bit 0 lies at position `at_`. -/
def bchOf (v at_ n : Nat) : Nat :=
  (((bchPows (at_ + n) 1).drop at_).zip (List.range n)).foldl (fun s x => if bit v x.2 then s ^^^ x.1 else s) 0

/-- Check bits of a word at an address (R265): [13:0] b, [14] P, [15] AF. -/
def parity (n v : Nat) : Bool := (List.range n).foldl (fun s i => s != bit v i) false

def checkBits (d : BitVec 64) (v : BitVec 28) : BitVec 16 :=
  let b := bchOf d.toNat 14 64 ^^^ bchOf v.toNat 78 28
  BitVec.ofNat 16 (b + bnat (parity 64 d.toNat != parity 14 b) * 2 ^ 14 + bnat (parity 28 v.toNat) * 2 ^ 15)

/-- The pattern of at most two positions with a syndrome, if there is one (R267). -/
def bchPattern (s : Nat) : Option (List Nat) :=
  if s = 0 then some []
  else match bchPositions.find? (fun x => x.2 = s) with
    | some x => some [x.1]
    | none =>
      bchPositions.findSome? (fun x =>
        (bchPositions.find? (fun y => y.2 = s ^^^ x.2)).map (fun y => [x.1, y.1]))

/-- What a read of a protected word finds (R267). -/
inductive EccOut where
  | clean
  /-- corrected, with the correction applied to the 64 data bits -/
  | corrected (data : BitVec 64)
  | bad (misdirected : Bool)
  deriving DecidableEq, Repr

/-- Data bits that a pattern of positions flips. -/
def dataFlips (ps : List Nat) : BitVec 64 :=
  ps.foldl (fun m q => if 14 ≤ q ∧ q < 78 then m ^^^ BitVec.ofNat 64 (2 ^ (q - 14)) else m) 0

/-- The outcome of R267 for the differences of a stored word; the code is linear, so they alone decide. -/
def eccDecode (u : Upset) : EccOut :=
  let s := bchOf (u.check.toNat % 2 ^ 14) 0 14 ^^^ bchOf u.data.toNat 14 64 ^^^ bchOf u.addr.toNat 78 28
  let pc := (parity 64 u.data.toNat != parity 14 (u.check.toNat % 2 ^ 14)) != bit u.check.toNat 14
  let af := parity 28 u.addr.toNat != bit u.check.toNat 15
  match bchPattern s with
  | none => .bad false
  | some [] => if pc || af then .corrected 0 else .clean
  | some ps =>
    if ps.any (fun q => 78 ≤ q && q < 106) then .bad true
    else if ps.any (fun q => 106 ≤ q) then .bad false
    else match ps.length, pc, af with
      | 1, true, false | 1, false, false | 1, true, true | 2, false, false => .corrected (dataFlips ps)
      | _, _, _ => .bad false

/-! ### CRC-64 (R365) -/

/-- One bit of CRC-64/ECMA-182, most significant bit first. -/
def crcBit (c : Word) : Word := if c.msb then (c <<< 1) ^^^ 0x42F0E1EBA9EA3693#64 else c <<< 1

/-- One byte. -/
def crcByte (c : Word) (b : Byte) : Word :=
  let c := c ^^^ (b.zeroExtend 64 <<< 56)
  crcBit (crcBit (crcBit (crcBit (crcBit (crcBit (crcBit (crcBit c)))))))

/-- CRC-64 of a byte string: initial value 0, no reflection, no final inversion. -/
def crc64 (l : List Byte) : Word := l.foldl crcByte 0

/-! ### Philox-4x32-10 (R167, R168) -/

/-- The four counter words and two key words of a round. -/
structure Philox where
  c0 : Nat
  c1 : Nat
  c2 : Nat
  c3 : Nat
  k0 : Nat
  k1 : Nat
  deriving DecidableEq, Repr

def philoxRound (s : Philox) : Philox :=
  let p0 := 0xD2511F53 * s.c0
  let p1 := 0xCD9E8D57 * s.c2
  ⟨(p1 / 2 ^ 32) ^^^ s.c1 ^^^ s.k0, p1 % 2 ^ 32, (p0 / 2 ^ 32) ^^^ s.c3 ^^^ s.k1, p0 % 2 ^ 32,
   (s.k0 + 0x9E3779B9) % 2 ^ 32, (s.k1 + 0xBB67AE85) % 2 ^ 32⟩

def philoxRounds (n : Nat) (s : Philox) : Philox :=
  match n with
  | 0 => s
  | n + 1 => philoxRounds n (philoxRound s)

/-- The words x[0] and x[1] for a seed, step, handle number, stream and element index (R168). -/
def srWords (seed : Word) (step handle stream e : Nat) : Nat × Nat :=
  let r := philoxRounds 10 ⟨e % 2 ^ 32, (stream % 2 ^ 16) * 2 ^ 16 + e / 2 ^ 32 % 2 ^ 16, handle % 2 ^ 16, step % 2 ^ 32,
    seed.toNat % 2 ^ 32, seed.toNat / 2 ^ 32⟩
  (r.c0, r.c1)

/-- The random values of R169: final conversion, first scale, second scale. -/
structure SrBits where
  final : Nat
  first : Nat
  second : Nat
  deriving DecidableEq, Repr

def srBits (seed : Word) (step handle stream e : Nat) : SrBits :=
  let x := srWords seed step handle stream e
  ⟨x.1 % 2 ^ 16, x.1 / 2 ^ 16, x.2 % 2 ^ 16⟩

end Sys2Proof.Machine
end

