-- ==== Sys2Proof/Machine/Mem.lean ====
section
/-! DEFINITION. Memory as its requesters reach it: stored words with the check code (R264 to R272), die-cache portions and
remote lines (R254 to R260), host windows (R274), bank windows (R116, R117), translation (R275 to R279), and the
pager's state changes (R280 to R286). -/

namespace Sys2Proof.Machine

/-- Result of an access: a value, a failure with its status, or a wait on a pager handle (R286). -/
inductive Acc (α : Type) where
  | ok (a : α)
  | fail (st : Status)
  | wait (h : Nat)
  deriving DecidableEq, Repr

/-! ### Where a word lies (R254, R263, R266) -/

/-- First byte of a die's HBM. -/
def hbmBase (d : Nat) : Nat := d * 0x30_0000_0000

/-- Line index within its die of a physical HBM address, and its stack, channel and line within the channel (R263). -/
def hbmLine (pa : Nat) : Nat := pa % 0x30_0000_0000 / 256
def hbmStack (pa : Nat) : Nat := 3 * (pa / 0x30_0000_0000) + hbmLine pa % 3
def hbmChannel (pa : Nat) : Nat := hbmLine pa / 3 % 32
def hbmW (pa : Nat) : Nat := hbmLine pa / 96

/-- Slices of a die's local portion under the placement in force (R254). -/
def Part.localSlices (p : Part) (d : Nat) : Nat := if (p.die d).cacheMode = 1 then 32 else 24

/-- Slice and set of a local line, by physical address / 256, and of a remote line (R254). -/
def Part.localPlace (p : Part) (line : Nat) : Nat × Nat :=
  let n := p.localSlices (256 * line / 0x30_0000_0000)
  let l := hbmLine (256 * line)
  (l % n, l / n % 8192)

def remotePlace (line : Nat) : Nat × Nat := (24 + line % 8, line / 8 % 8192)

/-- Keys of a stored word in the table of differences: HBM and tile stores by PA / 8, a remote portion's copies apart by die,
local portions apart from HBM. -/
def remoteKey (d pa : Nat) : Nat := (d + 1) * 2 ^ 48 + pa / 8
def localKey (pa : Nat) : Nat := 5 * 2 ^ 48 + pa / 8

def keyPa (k : Nat) : Nat := 8 * (k % 2 ^ 48)
def keyArray (k : Nat) : Nat := k / 2 ^ 48

/-- The address v of a stored word in its array, by its key (R266). -/
def Part.wordAddr (p : Part) (key : Nat) : BitVec 28 :=
  let pa := keyPa key
  let at_ := fun (set way : Nat) => BitVec.ofNat 28 ((set * 16 + way) * 32 + pa % 256 / 8)
  match keyArray key with
  | 0 => match whereIs pa with
    | .hbm _ => BitVec.ofNat 28 (hbmW pa * 32 + pa % 256 / 8)
    | .tile _ a => BitVec.ofNat 28 (a / 8)
    | _ => 0
  | 5 => at_ (p.localPlace (pa / 256)).2 ((Tab.get ⟨0, false⟩ p.lines (pa / 256)).way)
  | d => at_ (remotePlace (pa / 256)).2 ((Tab.get ⟨0, 0, []⟩ (p.die (d - 1)).rlines (pa / 256)).way)

/-! ### Check code on reads and writes -/

/-- The die whose counters a word's errors reach. -/
def errDie (pa : Nat) : Nat :=
  match whereIs pa with
  | .hbm d => d
  | .tile c _ => dieOf c
  | _ => 0

/-- Count a correctable read, raising the die's event when the threshold is passed within a scrub period (R269, R272). -/
def Part.countCe (p : Part) (d pa : Nat) : Part :=
  let old := (p.die d).ceScrub
  let p := ((p.bump Fld.MEM_ERR_STATUS.CE_COUNT d 1).count d 8 1).modDie d (fun x => { x with ceScrub := x.ceScrub + 1 })
  if old = p.get Fld.MEM_ERR_CTRL.CE_EVENT_THRESHOLD d then p.event .memory .ok (unitWord d 0 0xFF) pa else p

/-- Count an uncorrectable read and fill UE_LOG if it is empty (R270, R294). -/
def Part.countUe (p : Part) (d pa src : Nat) (mis : Bool) : Part :=
  let p := (p.bump Fld.MEM_ERR_STATUS.UE_COUNT d 1).count d 9 1
  if p.get Fld.UE_LOG.SOURCE d = 0 then
    ((p.put Fld.UE_LOG.SOURCE d src).put Fld.UE_LOG.MISDIRECTED d (bnat mis)).put Fld.UE_LOG.ADDR d (8 * (pa / 8))
  else p

/-- Flip bits of a 64-bit word of the part's memory. -/
def Part.flipWord (p : Part) (pa : Nat) (m : BitVec 64) : Part :=
  if m = 0 then p
  else p.setBytes (8 * (pa / 8)) (leBytes 8 (fieldAt (p.bytes (8 * (pa / 8)) 8) 0 8 ^^^ m.toNat))

/-- Flip bits of a 64-bit word of a remote line. -/
def RLine.flip (x : RLine) (pa : Nat) (m : BitVec 64) : RLine :=
  let o := pa % 256 / 8 * 8
  { x with data := x.data.take o ++ leBytes 8 (fieldAt x.data o 8 ^^^ m.toNat) ++ x.data.drop (o + 8) }

/-- A word of HBM beneath a line of the local portion stands for data that differ from the line's by `m` more. -/
def Part.beneath (p : Part) (key : Nat) (m : BitVec 64) : Part :=
  let u := Tab.get ⟨0, 0, 0, 1⟩ p.upsets key
  let v : Upset := { u with data := u.data ^^^ m, check := u.check ^^^ checkBits m 0 }
  { p with upsets := if v.data = 0 ∧ v.check = 0 ∧ v.addr = 0 then Tab.del p.upsets key else Tab.put p.upsets key v }

/-- The word of a key takes `m` over what the part's memory holds: what its stored bits, valid or corrected, stand for. The
part's memory holds the local portion's word where a line is present, and HBM keeps its own beneath a clean one. -/
def Part.takeWord (p : Part) (key : Nat) (m : BitVec 64) : Part :=
  let pa := keyPa key
  let p := { p with upsets := Tab.del p.upsets key }
  if m = 0 then p
  else match keyArray key with
    | 0 => if (Tab.find? p.lines (pa / 256)).isSome then p.beneath key m else p.flipWord pa m
    | 5 => let p := p.flipWord pa m
      if (Tab.get ⟨0, false⟩ p.lines (pa / 256)).dirty then p else p.beneath (pa / 8) m
    | d => p.modDie (d - 1) (fun x => { x with rlines := x.rlines.map (fun y =>
        if y.1 = pa / 256 then (y.1, y.2.flip pa m) else y) })

/-- Read one stored word: correct and rewrite it, or report it (R267, R269, R270), with the die whose counters it reaches.
Answers whether the word is uncorrectable. -/
def Part.checkWord (p : Part) (key d : Nat) : Part × Bool :=
  match Tab.find? p.upsets key with
  | none => (p, false)
  | some u =>
    match eccDecode u with
    | .clean => (if u.data = 0 then p else p.takeWord key u.data, false)
    | .corrected m => ((p.takeWord key (u.data ^^^ m)).countCe d (keyPa key), false)
    | .bad mis => (p.countUe d (keyPa key) u.src mis, true)

/-- Read stored words in order, stopping at the first uncorrectable one. -/
def Part.checkWords (p : Part) (keys : List Nat) (d : Nat) : Part × Bool :=
  match keys with
  | [] => (p, false)
  | k :: r =>
    match p.checkWord k d with
    | (p, true) => (p, true)
    | (p, false) => p.checkWords r d

/-- Whether the word of a key is uncorrectable. -/
def Part.isBad (p : Part) (key : Nat) : Bool :=
  match Tab.find? p.upsets key with
  | some u => (match eccDecode u with | .bad _ => true | _ => false)
  | none => false

/-- Words of one array, by the key of their first byte, that `[pa, pa + n)` touches and whose stored bits differ. -/
def Part.keysFrom (p : Part) (first pa n : Nat) : List Nat := Tab.keysIn p.upsets first ((pa + n - 1) / 8 + 1 - pa / 8)

/-- Such words of HBM and tile stores. -/
def Part.badKeys (p : Part) (pa n : Nat) : List Nat := p.keysFrom (pa / 8) pa n

/-- Words of a range of HBM that differ from their codewords, as an access through the local portion meets them. -/
def Part.rangeKeys (p : Part) (pa n : Nat) : List Nat :=
  (p.badKeys pa n).filter (fun k => (Tab.find? p.lines (keyPa k / 256)).isNone) ++
    (p.keysFrom (localKey pa) pa n).filter (fun k => (Tab.find? p.lines (keyPa k / 256)).isSome)

/-- The lowest of some addresses. -/
def lowest (l : List Nat) : Option Nat := l.foldl (fun (b : Option Nat) x => some (match b with | some y => min y x | none => x)) none

/-- Read a range of HBM in ascending order up to its first uncorrectable word, whose address is the second answer. -/
def Part.checkRange (p : Part) (pa n : Nat) : Part × Option Nat :=
  let keys := p.rangeKeys pa n
  let bad := lowest ((keys.filter p.isBad).map keyPa)
  let read := keys.filter (fun k => match bad with | some a => keyPa k ≤ a | none => true)
  (read.foldl (fun (p : Part) k => (p.checkWord k (errDie pa)).1) p, bad)

/-- Whether the local portion of its die holds the line of an address. -/
def Part.hasLine (p : Part) (pa : Nat) : Bool := (Tab.find? p.lines (pa / 256)).isSome

/-- Such words as an access to `[pa, pa + n)`, within one line of HBM or in a tile store, meets them. -/
def Part.wordKeys (p : Part) (pa n : Nat) : List Nat := if p.hasLine pa then p.keysFrom (localKey pa) pa n else p.badKeys pa n

/-! ### The local portion of a die cache (R254, R255, R271) -/

/-- Keys of the words of a line that differ, from the key of its first word. -/
def Part.lineKeys (p : Part) (first : Nat) : List Nat := Tab.keysIn p.upsets first 32

/-- A dirty line that holds an uncorrectable word is locked (R271). -/
def Part.isLocked (p : Part) (line : Nat) : Bool :=
  (Tab.get ⟨0, false⟩ p.lines line).dirty && (p.lineKeys (localKey (256 * line))).any p.isBad

/-- Locked lines of die `d`. -/
def Part.lockedList (p : Part) (d : Nat) : List Nat :=
  (p.lines.filter (fun x => whereIs (256 * x.1) == .hbm d && p.isLocked x.1)).map (·.1)

/-- LOCKED_LINES (R289). -/
def Part.lockedLines (p : Part) (d : Nat) : Nat := (p.lockedList d).length

/-- A line leaves the local portion, unless it is locked: written back when dirty, which replaces its words of HBM whole
(R255, R266, R271). -/
def Part.dropLine (p : Part) (line : Nat) : Part :=
  if p.isLocked line then p
  else
    let first := localKey (256 * line)
    let p := if (Tab.get ⟨0, false⟩ p.lines line).dirty then
        let p := (p.checkWords (p.lineKeys first) (errDie (256 * line))).1
        { p with upsets := Tab.delRange p.upsets (32 * line) 32 }
      else p
    { p with upsets := Tab.delRange p.upsets first 32, lines := Tab.del p.lines line }

/-- A word of HBM crosses into another array, whose key for it is `key`: it is corrected on leaving; an uncorrectable one is
taken over as it is stored (R266, log entry 80). -/
def Part.crossWord (p : Part) (src key d : Nat) : Part :=
  match Tab.find? p.upsets src with
  | some u => if p.isBad src then { p with upsets := Tab.put p.upsets key u } else (p.checkWord src d).1
  | none => p

/-- Fill the local portion with a line it does not hold: into a free way of its set, or that of a line which the free
replacement of R254 names among those not locked. With every way locked the line stays outside (log entry 80). -/
def Part.fillLine (p : Part) (line : Nat) : Part :=
  if p.hasLine (256 * line) then p
  else
    let d := 256 * line / 0x30_0000_0000
    let set := p.lines.filter (fun x => x.1 * 256 / 0x30_0000_0000 == d && p.localPlace x.1 == p.localPlace line)
    let take := fun (p : Part) (way : Nat) =>
      let p := (p.lineKeys (32 * line)).foldl (fun (p : Part) k => p.crossWord k (localKey (8 * k)) d) p
      { p with lines := Tab.put p.lines line ⟨way, false⟩ }
    match (List.range 16).find? (fun w => set.all (fun x => x.2.way != w)) with
    | some w => take p w
    | none =>
      let free := set.filter (fun x => !p.isLocked x.1)
      match free[Config.freeNat p.draw % max 1 free.length]? with
      | some v => take ({ p with draw := p.draw + 1 }.dropLine v.1) v.2.way
      | none => p

/-- Bring the line of an HBM access into the local portion, which every access passes through but those of scrubbing and update
passes (R255). -/
def Part.reach (p : Part) (pa : Nat) (direct : Bool) : Part :=
  match whereIs pa with
  | .hbm _ => if direct then p else p.fillLine (pa / 256)
  | _ => p

/-- Read HBM bytes of one line, or tile-store bytes, under the check code. -/
def Part.readHome (p : Part) (pa n : Nat) (direct : Bool) : Part × Acc (List Byte) :=
  let p := p.reach pa direct
  match p.checkWords (p.wordKeys pa n) (errDie pa) with
  | (p, true) => (p, .fail .uncorrectable)
  | (p, false) => (p, .ok (p.bytes pa n))

/-- Mark a line that the local portion holds as dirty (R255). -/
def Part.markDirty (p : Part) (line : Nat) : Part :=
  match Tab.find? p.lines line with
  | some x => { p with lines := Tab.put p.lines line { x with dirty := true } }
  | none => p

/-- Write HBM bytes of one line, or tile-store bytes, under the check code: a word covered whole is replaced with valid check
bits, a partial word is read first and left unchanged if it is uncorrectable (R252, R270). -/
def Part.writeHome (p : Part) (pa : Nat) (l : List Byte) (direct : Bool) : Part × Acc Unit :=
  let n := l.length
  let p := p.reach pa direct
  let covered := fun k => decide (pa ≤ keyPa k ∧ keyPa k + 8 ≤ pa + n)
  let keys := p.wordKeys pa n
  let p := { p with upsets := p.upsets.filter (fun x => !(keys.contains x.1 && covered x.1)) }
  let part := keys.filter (fun k => !covered k)
  let (p, bad) := part.foldl (fun (pb : Part × List Nat) k =>
    match pb.1.checkWord k (errDie pa) with
    | (p, true) => (p, keyPa k / 8 :: pb.2)
    | (p, false) => (p, pb.2)) (p, [])
  let p := if bad.isEmpty then p.setBytes pa l
    else (l.zip (List.range n)).foldl (fun p x => if bad.contains ((pa + x.2) / 8) then p else p.setByte (pa + x.2) x.1) p
  (p.markDirty (pa / 256), if bad.isEmpty then .ok () else .fail .uncorrectable)

/-- Write back every dirty local line of die `d` but the locked ones, and invalidate the whole cache (R256, R271). -/
def Part.flushCache (p : Part) (d : Nat) : Part :=
  let p := ((p.lines.map (·.1)).filter (fun line => whereIs (256 * line) == .hbm d)).foldl (fun p line => p.dropLine line) p
  { p with upsets := p.upsets.filter (fun x => keyArray x.1 != d + 1) }.modDie d (fun y => { y with rlines := [] })

/-! ### Sparse copies of whole ranges -/

/-- Listed bytes of a range, as offsets. -/
def Part.cellsOf (p : Part) (pa n : Nat) : List (Nat × Byte) :=
  match whereIs pa with
  | .host port a =>
    let k := port * 2 ^ 64 + a
    (p.host.filter (fun x => k ≤ x.1 && x.1 < k + n)).map (fun x => (x.1 - k, x.2))
  | _ => (p.mem.filter (fun x => pa ≤ x.1 && x.1 < pa + n)).map (fun x => (x.1 - pa, x.2))

/-- Set every byte of a range to zero, with valid check bits; a die cache has written back what it held of it (log entry
80). -/
def Part.zeroRange (p : Part) (pa n : Nat) : Part :=
  match whereIs pa with
  | .host port a => { p with host := Tab.delRange p.host (port * 2 ^ 64 + a) n }
  | _ => { p with
      mem := Tab.delRange p.mem pa n
      upsets := Tab.delRange (Tab.delRange p.upsets (pa / 8) (n / 8)) (localKey pa) (n / 8)
      lines := Tab.delRange p.lines (pa / 256) (n / 256) }

/-- Replace a range by listed bytes at offsets, all others zero. -/
def Part.putCells (p : Part) (pa n : Nat) (cells : List (Nat × Byte)) : Part :=
  cells.foldl (fun p x => p.setByte (pa + x.1) x.2) (p.zeroRange pa n)

/-- Copy a range onto another. -/
def Part.copyRange (p : Part) (src dst n : Nat) : Part := p.putCells dst n (p.cellsOf src n)

/-! ### Windows of accumulator banks (R116, R117) -/

/-- Whether a window access may proceed in the bank's state. -/
def BankSt.allows (s : BankSt) (write : Bool) : Bool :=
  match s with
  | .filling => false
  | .draining => !write
  | .empty | .full => true

/-- The physical engine whose bank `k` is (bank number = 4 x core + 2 x engine + bank). -/
def Part.engineOfBank (p : Part) (k : Nat) : Nat := 2 * p.phys (k / 4) + (k / 2) % 2

/-- Bytes of a bank from an offset. -/
def Bank.bytes (b : Bank) (off n : Nat) : List Byte :=
  (List.range n).map (fun i => BitVec.ofNat 8 ((b.elem ((off + i) / 4)).toNat / 2 ^ (8 * ((off + i) % 4))))

/-- A bank with one byte replaced. -/
def Bank.setByte (b : Bank) (off : Nat) (v : Byte) : Bank :=
  let w := (b.elem (off / 4)).toNat
  let s := 8 * (off % 4)
  b.setElem (off / 4) (BitVec.ofNat 32 (w - (w / 2 ^ s % 256) * 2 ^ s + v.toNat * 2 ^ s))

def Bank.setBytes (b : Bank) (off : Nat) (l : List Byte) : Bank :=
  match l with
  | [] => b
  | v :: r => (b.setByte off v).setBytes (off + 1) r

/-- A window write that proceeds: the bank becomes FULL, unbound, with depth, status and check state clear (R116). -/
def Bank.windowWrite (b : Bank) (off : Nat) (l : List Byte) : Bank :=
  { b.setBytes off l with st := .full, status := 0, check := { CheckSt.clear with skip := true } }

/-- Read through a window; a STOPPED engine's windows complete with UNCORRECTABLE. `none` is a wait. -/
def Part.readWindow (p : Part) (k off n : Nat) : Option (Acc (List Byte)) :=
  if (p.engine (p.engineOfBank k)).stopped then some (.fail .uncorrectable)
  else if ((p.bank k).st).allows false then some (.ok ((p.bank k).bytes off n)) else none

/-- Write through a window; writes to a STOPPED engine's windows are discarded. `none` is a wait. -/
def Part.writeWindow (p : Part) (k off : Nat) (l : List Byte) : Option (Part × Acc Unit) :=
  if (p.engine (p.engineOfBank k)).stopped then some (p, .fail .uncorrectable)
  else if ((p.bank k).st).allows true then some (p.setBank k ((p.bank k).windowWrite off l), .ok ()) else none

/-! ### Guarded ranges of open spans (R455, R457) -/

/-- Word `i` of RANGE entries of a span record: kind, LOCAL, address, length. -/
def spanRange (l : List Byte) (i : Nat) : Nat × Bool × Nat × Nat :=
  let a := fieldAt l (0x20 + 16 * i) 8
  (bits a 63 62, bit a 61, bits a 47 0, fieldAt l (0x28 + 16 * i) 8)

def spanCount (l : List Byte) : Nat := fieldAt l 0x10 1

/-- Whether `[a, a + n)` meets `[b, b + m)`. -/
def meets (a n b m : Nat) : Bool := decide (a < b + m ∧ b < a + n)

/-- Whether a local write of core `c` meets a GUARD range or the bank save area of its open span. -/
def Part.guardHit (p : Part) (c a n : Nat) : Bool :=
  match (p.core c).span with
  | none => false
  | some s =>
    (List.range (spanCount s.record)).any (fun i =>
      let r := spanRange s.record i
      r.1 == 1 && meets a n r.2.2.1 r.2.2.2) ||
    (bit (fieldAt s.record 0 8) 63 && meets a n (bits (fieldAt s.record 0 8) 23 0) 0x4_0020)

/-! ### Paired cores (R443, R452) -/

/-- The pair entry of a die that names local cluster `a` as leader or follower with core `n` in its mask (R443, R452). -/
def Part.pairOf (p : Part) (c : Nat) : Option (Bool × Nat) :=
  let d := dieOf c
  let k := clusterOf c % 8
  (List.range 4).findSome? (fun i =>
    let e := 4 * d + i
    if p.get Fld.PAIR_CTRL.ENABLE e = 1 ∧ bit (p.get Fld.PAIR_CTRL.CORE_MASK e) (c % 8) then
      let a := p.get Fld.PAIR_CTRL.CLUSTER_A e
      let b := p.get Fld.PAIR_CTRL.CLUSTER_B e
      if k = a then some (true, 64 * d + 8 * b + c % 8)
      else if k = b then some (false, 64 * d + 8 * a + c % 8) else none
    else none)

/-- A leader whose paired comparison is being decided runs unpaired (R468). -/
def CoreSt.unpaired (x : CoreSt) : Bool :=
  match x.decision with
  | some d => d.pairDrop
  | none => false

/-- The pair in which a core works now. -/
def Part.pairNow (p : Part) (c : Nat) : Option (Bool × Nat) :=
  match p.pairOf c with
  | some (l, o) => if (p.core (if l then c else o)).unpaired then none else some (l, o)
  | none => none

/-- The follower of a leader core. -/
def Part.follower (p : Part) (c : Nat) : Option Nat :=
  match p.pairNow c with
  | some (true, f) => some f
  | _ => none

def Part.isFollower (p : Part) (c : Nat) : Bool :=
  match p.pairOf c with
  | some (false, _) => true
  | _ => false

/-- The other core of a paired core. -/
def Part.twin (p : Part) (c : Nat) : Option Nat := (p.pairNow c).map (·.2)

/-- The core whose instructions run on a core: the leader of a follower. -/
def Part.issuer (p : Part) (c : Nat) : Nat := if p.isFollower c then (p.twin c).getD c else c

/-- The core of an instruction and, for a leader, its follower. -/
def Part.runners (p : Part) (c : Nat) : List Nat := c :: (p.follower c).toList

/-! ### Physical accesses by die `d` -/

/-- Whether the remote portion of die `d` is in use (R254, R257). -/
def Part.remoteOn (p : Part) (d : Nat) : Bool := (p.die d).cacheMode == 0

/-- A line leaves the remote portion of die `d`. -/
def Part.dropRemote (p : Part) (d line : Nat) : Part :=
  { p with upsets := Tab.delRange p.upsets (remoteKey d (256 * line)) 32 }.modDie d
    (fun x => { x with rlines := Tab.del x.rlines line })

/-- Fill the remote portion of die `d` with a line that was read through its home's local portion (R257): into the way of an
older copy, a free way of its set, or that of a line which the free replacement of R254 names. -/
def Part.fillRemote (p : Part) (d line : Nat) : Part :=
  let p := p.dropRemote d line
  let set := (p.die d).rlines.filter (fun x => remotePlace x.1 == remotePlace line)
  let take := fun (p : Part) (way : Nat) =>
    let p := (p.wordKeys (256 * line) 256).foldl (fun (p : Part) k => p.crossWord k (remoteKey d (keyPa k)) (errDie (256 * line))) p
    let r : RLine := ⟨p.get Fld.MEM_STATUS.REMOTE_EPOCH d, way, p.bytes (256 * line) 256⟩
    p.modDie d (fun x => { x with rlines := Tab.put x.rlines line r })
  match (List.range 16).find? (fun w => set.all (fun x => x.2.way != w)) with
  | some w => take p w
  | none =>
    match set[Config.freeNat p.draw % max 1 set.length]? with
    | some v => take ({ p with draw := p.draw + 1 }.dropRemote d v.1) v.2.way
    | none => p

/-- How a requester reaches HBM: through the remote portion of its own die where that may hold the line; through the home's
local portion only, as page walks and atomic adds; past it, as update passes (R255, R257). -/
inductive Via where
  | remote | home | direct
  deriving DecidableEq, Repr

/-- Read within one 256-byte line at a physical address, for a requester of die `d`. Bank windows that must wait answer
`wait 65536`. -/
def Part.readLine (p : Part) (d pa n : Nat) (via : Via) : Part × Acc (List Byte) :=
  match whereIs pa with
  | .hbm h =>
    if via == .remote && h != d && p.remoteOn d then
      let hit := match Tab.find? (p.die d).rlines (pa / 256) with
        | some r => r.epoch == p.get Fld.MEM_STATUS.REMOTE_EPOCH d
        | none => false
      if hit then
        match p.checkWords (p.keysFrom (remoteKey d pa) pa n) d with
        | (p, true) => (p, .fail .uncorrectable)
        | (p, false) => (p, .ok (bytesAt (Tab.get ⟨0, 0, []⟩ (p.die d).rlines (pa / 256)).data (pa % 256) n))
      else
        match p.readHome pa n false with
        | (p, .ok l) => (p.fillRemote d (pa / 256), .ok l)
        | r => r
    else p.readHome pa n (via == .direct)
  | .tile _ _ => p.readHome pa n false
  | .window k off =>
    match p.readWindow k off n with
    | some a => (p, a)
    | none => (p, .wait 65536)
  | .host port a => if p.linkUp port then (p, .ok (p.hostBytes port a n)) else (p, .fail .timeout)
  | .reserved _ => (p, .fail .range)
  | .mmio | .hole => (p, .fail .xlateFault)

/-- Write within one 256-byte line, past the local portion for an update pass; a remote HBM write drops the writer's own copy of the line (R259), and a write into
the tile store of a paired core is applied to both cores (R443). -/
def Part.writeLine (p : Part) (d pa : Nat) (l : List Byte) (direct : Bool) : Part × Acc Unit :=
  match whereIs pa with
  | .hbm h => (if h = d then p else p.dropRemote d (pa / 256)).writeHome pa l direct
  | .tile c a =>
    if p.guardHit c a l.length then (p, .fail .protFault)
    else
      match p.twin c with
      | some f => (p.writeHome (tileBase f + a) l false).1.writeHome pa l false
      | none => p.writeHome pa l false
  | .window k off =>
    let p := match p.twin (k / 4) with
      | some f => match p.writeWindow (4 * f + k % 4) off l with
        | some r => r.1
        | none => p
      | none => p
    match p.writeWindow k off l with
    | some r => r
    | none => (p, .wait 65536)
  | .host port a => if p.linkUp port then (p.setHostBytes port a l, .ok ()) else (p, .fail .timeout)
  | .reserved _ => (p, .fail .range)
  | .mmio | .hole => (p, .fail .xlateFault)

/-- The parts of `[a, a + n)` that lie in one 256-byte line each; `fuel` bounds their number. -/
def lineParts (fuel a n : Nat) : List (Nat × Nat) :=
  match fuel with
  | 0 => []
  | f + 1 => if n = 0 then [] else
    let m := min n (256 - a % 256)
    (a, m) :: lineParts f (a + m) (n - m)

def linesOf (a n : Nat) : List (Nat × Nat) := lineParts (n / 256 + 2) a n

/-! ### Translation (R275 to R279) -/

/-- Requesters that use DVAs (R275); `updRec` is the update unit as it writes a status record (R350). -/
inductive Req where
  | fetch | moverRd | moverWr | updRd | updWr | updRec | barRd | barWr | traceWr
  deriving DecidableEq, Repr

def Req.isWrite : Req → Bool
  | .moverWr | .updWr | .updRec | .barWr | .traceWr => true
  | _ => false

/-- Whether an entry's attributes and page permit a requester; the page's first physical address is `pa` (R275). -/
def permits (r : Req) (e : Word) (pa : Nat) : Bool :=
  let b := fun i => bit e.toNat i
  let hbm := decide (pa < 0xC0_0000_0000)
  let trace := !(b 7) || r == .traceWr || !r.isWrite
  trace && match r with
    | .fetch => b 4 && hbm && !b 5
    | .moverRd => b 2
    | .moverWr | .updRec => b 3
    | .updRd => b 2 && hbm && !b 5
    | .updWr => b 3 && hbm && !b 5
    | .barRd => b 8 && b 2 && !b 5
    | .barWr => b 8 && b 3 && !b 5
    | .traceWr => b 3 && !b 5

/-- Physical ranges a page may lie in: not a hole, not MMIO (R273, R278). -/
def pageMapped (pa : Nat) : Bool :=
  match whereIs pa with
  | .mmio | .hole => false
  | _ => true

/-- ADDR of an entry as an address. -/
def entryAddr (e : Word) : Nat := bits e.toNat 47 12 * 4096

/-- What an entry is at a level: levels 1, 2, 3 and 4 (fine) (R277, R278). -/
inductive EntryIs where
  | table (pa : Nat)
  | page (pa size : Nat)
  | touch (h : Nat)
  | bad
  deriving DecidableEq, Repr

def readEntry (level : Nat) (e : Word) : EntryIs :=
  let n := e.toNat
  let valid := bit n 0
  let tab := bit n 1
  let pager := bit n 6
  if !valid then (if pager && 3 ≤ level then .touch (bits n 63 48) else .bad)
  else if bits n 11 9 ≠ 0 then .bad
  else if tab then
    if level ≤ 3 ∧ bits n 63 48 = 0 ∧ bits n 8 2 = 0 ∧ entryAddr e < 0xC0_0000_0000 then .table (entryAddr e) else .bad
  else if level ≤ 2 then .bad
  else if !pager && bits n 63 48 != 0 then .bad
  else if level = 3 then
    if bits n 20 12 = 0 ∧ pageMapped (entryAddr e) then .page (entryAddr e) (2 ^ 21) else .bad
  else if bits n 15 12 = 0 ∧ pageMapped (entryAddr e) then .page (entryAddr e) (2 ^ 16) else .bad

/-- Outcome of a walk; `held` where a table entry lies in a range that holds its requester back. -/
inductive Walk where
  | leaf (l : Leaf)
  | fail (st : Status)
  | touch (h : Nat)
  | held
  deriving DecidableEq, Repr

/-- Whether an access of a requester of die `d` to memory must wait: a running update pass holds every requester but its own
unit (R260), a partner copy holds writes (R476), a change of REMOTE_MODE holds every access to its die's HBM (R256). -/
def Part.heldBack (p : Part) (d : Nat) (r : Req) (pa n : Nat) : Bool :=
  (match whereIs pa with | .hbm h => p.get Fld.MEM_STATUS.MODE_BUSY h == 1 | _ => false) ||
  p.dies.any (fun x => x.2.holds.any (fun y => meets pa n y.1 y.2.1 &&
    (if y.2.2 then !((r == .updRd || r == .updWr || r == .updRec) && x.1 == d) else r.isWrite)))

/-- Read one table entry from HBM for a walk of requester `r` (R276). -/
def Part.readTable (p : Part) (d pa : Nat) : Part × Option Word :=
  match p.readLine d pa 8 .home with
  | (p, .ok l) => (p, some (BitVec.ofNat 64 (leNat l)))
  | (p, _) => (p, none)

/-- A walk's read is a read: a requester that writes reads its tables. -/
def Req.walks (r : Req) : Req := if r == .updRd || r == .updWr || r == .updRec then .updRd else .moverRd

/-- Walk from a table at `pa` at `level` (R276). -/
def Part.walkFrom (p : Part) (d : Nat) (r : Req) (dva pa level fuel : Nat) : Part × Walk :=
  match fuel with
  | 0 => (p, .fail .xlateFault)
  | f + 1 =>
    let idx := if level = 1 then bits dva 47 39 else if level = 2 then bits dva 38 30
      else if level = 3 then bits dva 29 21 else bits dva 20 16
    if p.heldBack d r.walks (pa + 8 * idx) 8 then (p, .held) else
    match p.readTable d (pa + 8 * idx) with
    | (p, none) => (p, .fail .uncorrectable)
    | (p, some e) =>
      match readEntry level e with
      | .table q => p.walkFrom d r dva q (level + 1) f
      | .page _ size => (p, .leaf ⟨dva / size * size, size, e⟩)
      | .touch h => (p, .touch h)
      | .bad => (p, .fail .xlateFault)

/-- The cached leaf that covers a DVA, or a walk, whose leaf is then cached; at 4,096 leaves the oldest leaves (R279,
log entry 12). -/
def Part.walk (p : Part) (d : Nat) (r : Req) (dva : Nat) : Part × Walk :=
  match (p.die d).tlb.find? (fun l => l.base ≤ dva && dva < l.base + l.size) with
  | some l => (p, .leaf l)
  | none =>
    let root := p.get Fld.XLATE_ROOT.ROOT d * 4096
    if 0xC0_0000_0000 ≤ root then (p, .fail .xlateFault) else
    match p.walkFrom d r dva root 1 4 with
    | (p, .leaf l) => (p.modDie d (fun x => { x with tlb := (l :: x.tlb).take 4096 }), .leaf l)
    | r => r

/-- Entries of the level-3 table that maps a DVA: the physical address of its entry, if levels 1 and 2 lead there. -/
def Part.level3At (p : Part) (d dva : Nat) : Option Nat :=
  let e1 := fieldAt (p.bytes (p.get Fld.XLATE_ROOT.ROOT d * 4096 + 8 * bits dva 47 39) 8) 0 8
  match readEntry 1 (BitVec.ofNat 64 e1) with
  | .table q1 =>
    let e2 := fieldAt (p.bytes (q1 + 8 * bits dva 38 30) 8) 0 8
    match readEntry 2 (BitVec.ofNat 64 e2) with
    | .table q2 => some (q2 + 8 * bits dva 29 21)
    | _ => none
  | _ => none

/-! ### Pager state changes (R280 to R286) -/

def pageBytes : Nat := 2 ^ 21

/-- Handles of die `d` that are not FREE, with their numbers. -/
def Part.handlesOf (p : Part) (d : Nat) : List (Nat × Handle) :=
  p.handles.filter (fun x => x.1 / 16384 == d && x.2.st != .free)

/-- Frames of die `d`'s pool that no handle holds, lowest address first. -/
def Part.freeFrames (p : Part) (d : Nat) : List Nat :=
  let used := (p.handlesOf d).flatMap (fun x => x.2.frames)
  ((List.range (p.get Fld.PAGER_POOL.SIZE_2M d)).map
    (fun i => p.get Fld.PAGER_POOL.BASE d * pageBytes + i * pageBytes)).filter (fun f => !used.contains f)

/-- Chunks of die `d`'s host reserve that no handle holds. -/
def Part.freeChunks (p : Part) (d : Nat) : List Nat :=
  let used := (p.handlesOf d).flatMap (fun x => x.2.chunks)
  (List.range (p.get Fld.PAGER_RESERVE.SIZE_2M d)).filter (fun i => !used.contains i)

/-- Physical address of chunk `i` of the reserve. -/
def Part.chunkPa (p : Part) (d i : Nat) : Nat := p.get Fld.PAGER_RESERVE.BASE d * pageBytes + i * pageBytes

/-- Drop every cached leaf that covers `[base, base + n)`, on all dies. -/
def Part.dropLeaves (p : Part) (base n : Nat) : Part :=
  (List.range 4).foldl (fun p d => p.modDie d (fun x =>
    { x with tlb := x.tlb.filter (fun l => l.base + l.size ≤ base || base + n ≤ l.base) })) p

/-- Write the level-3 entries of a handle's pages: valid and mapping its frames, or invalid with PAGER and HANDLE kept
(`keep`), or all zero (R281, R282). -/
def Part.writeEntries (p : Part) (d h : Nat) (x : Handle) (valid keep : Bool) : Part :=
  let flags : Nat := 1 * bnat valid + 4 * bnat valid + 8 * bnat valid + 64 + 128 * bnat x.trace + 256 * bnat x.hostVisible
  (List.range x.pages).foldl (fun p i =>
    match p.level3At d (x.dva + i * pageBytes) with
    | none => p
    | some pa =>
      let e := if valid then h * 2 ^ 48 + (x.frames.getD i 0) + flags
        else if keep then h * 2 ^ 48 + (x.frames.getD i 0) + flags else 0
      (p.writeHome pa (leBytes 8 e) false).1) p

/-! ### Entries of the mover's table (R6, R185, R283, R300, R301) -/

/-- Whether a node number names this part (R73). -/
def Part.isSelf (p : Part) (node : Nat) : Bool := node == 0xFFFF || node == p.get Fld.FAB_NODE.NODE 0

/-- Whether an engine instruction of core `c` is a RELAY.SEND to an engine beyond its cluster (R183, R185). -/
def Part.sendsOut (p : Part) (c : Nat) (e : QEntry) : Bool :=
  let g := (e.gs.getD 0 0).toNat
  bits e.word.toNat 63 56 == 0x33 && bits e.word.toNat 39 38 == 2 &&
    (!p.isSelf (bits g 15 0) || 8 * bits g 17 16 + bits g 20 18 != clusterOf c)

/-- RELAY.SENDs of a die that hold an entry. -/
def Part.relayEntries (p : Part) (d : Nat) : Nat :=
  ((p.cores.filter (fun x => dieOf x.1 == d)).flatMap (fun x => (x.2.flying .me0 ++ x.2.flying .me1).filter
    (fun f => f.st != .relayAsk && p.sendsOut x.1 f.e))).length

/-- Transfers a die's mover has admitted: those of cores and of COPY, relays beyond the cluster, pager copies. -/
def Part.outstanding (p : Part) (d : Nat) : Nat :=
  (p.die d).active.length + ((p.handlesOf d).filter (fun x => x.2.entry)).length + p.relayEntries d

/-- Note the highest number of outstanding transfers (R328). -/
def Part.notePeak (p : Part) (d : Nat) : Part := p.modDie d (fun x => { x with peak := max x.peak (p.outstanding d) })

/-- Whether a request finds an entry at once: one is free and no request waits (R301). -/
def Part.entryFree (p : Part) (d : Nat) : Bool := (p.die d).waiting.isEmpty && decide (p.outstanding d < 4096)

/-- The copy of a handle takes an entry, or asks for one. -/
def Part.askCopy (p : Part) (h : Nat) : Part :=
  let d := h / 16384
  if p.entryFree d then (p.setHandle h { p.handle h with entry := true }).notePeak d
  else p.modDie d (fun x => { x with waiting := x.waiting ++ [.copy h] })

/-- The copy of a handle gives its entry back, or asks no longer. -/
def Part.copyDone (p : Part) (h : Nat) : Part :=
  (p.setHandle h { p.handle h with entry := false }).modDie (h / 16384) (fun x => { x with waiting := x.waiting.erase (.copy h) })

/-! ### Waits on a handle (R286) -/

/-- The moment since which some access waits on a handle. -/
def Part.waitSince (p : Part) (h : Nat) : Option Nat :=
  lowest (p.dies.flatMap (fun x => (x.2.active.filter (fun t => t.waitHandle == some h)).map (·.waitAt) ++
      (match x.2.pass with | some q => if q.wait = some h then [q.waitAt] else [] | none => [])) ++
    (p.seqWaits.filter (fun x => x.2.on == some h)).map (fun x => x.2.since))

/-- Nanoseconds in which some access waited on a handle, up to now. -/
def Part.stallNs (p : Part) (h : Nat) : Nat :=
  let x := p.handle h
  min (x.stall + (match p.waitSince h with | some t => p.time.raw - max t x.stalledTo | none => 0)) (2 ^ 24 * 1000 - 1)

/-- Count the wait of an access on a handle that ends now. -/
def Part.countWait (p : Part) (h since : Nat) : Part :=
  let x := p.handle h
  if 65536 ≤ h then p
  else p.setHandle h { x with
    stall := min (x.stall + (p.time.raw - max since x.stalledTo)) (2 ^ 24 * 1000 - 1), stalledTo := p.time.raw }

/-- The accesses that wait on a handle go on (`st` 0), or end with a status; a sequencer meets it at its next dispatch. -/
def Part.endWaits (p : Part) (h st : Nat) : Part :=
  let p := match p.waitSince h with | some t => p.countWait h t | none => p
  let move := fun (t : Xfer) => if t.waitHandle = some h then { t with waitHandle := none, status := st } else t
  let pass := fun (q : Pass) => if q.wait = some h then { q with wait := none, given := st } else q
  { p with
    dies := p.dies.map (fun z => (z.1, { z.2 with active := z.2.active.map move, pass := z.2.pass.map pass }))
    seqWaits := p.seqWaits.filterMap (fun z => if z.2.on = some h then (if st = 0 then none else some (z.1, ⟨none, 0, st⟩)) else some z) }

/-! ### Offloads, prefetches and the requests that need frames -/

/-- Begin the offload of a RESIDENT handle, when the reserve has room (R282). -/
def Part.startOffload (p : Part) (h : Nat) : Part × Bool :=
  let d := h / 16384
  let x := p.handle h
  let free := p.freeChunks d
  if free.length < x.pages then (p, false)
  else
    let p := p.writeEntries d h x false true
    let p := p.dropLeaves x.dva (x.pages * pageBytes)
    ((p.setHandle h { x with st := .offloading, chunks := free.take x.pages }).askCopy h, true)

/-- A running update pass treats a handle with pages in its streams as pinned (R346). -/
def Part.passPins (p : Part) (x : Handle) : Bool :=
  p.dies.any (fun d => d.2.holds.any (fun h => h.2.2 && x.frames.any (fun f => meets f pageBytes h.1 h.2.1)))

/-- Candidates for eviction: RESIDENT, OFFLOADABLE, not PINNED, lowest STAMP first (R284). -/
def Part.evictNext (p : Part) (d : Nat) : Option Nat :=
  let c := (p.handlesOf d).filter (fun x => x.2.st == .resident && x.2.offloadable && !x.2.pinned && !p.passPins x.2)
  (c.foldl (fun (best : Option (Nat × Nat)) x =>
    match best with
    | none => some (x.2.stamp, x.1)
    | some b => if x.2.stamp < b.1 then some (x.2.stamp, x.1) else best) none).map (·.2)

/-- Frames that evictions under way will free. -/
def Part.comingFrames (p : Part) (d : Nat) : Nat :=
  ((p.handlesOf d).filter (fun x => x.2.st == .offloading)).foldl (fun s x => s + x.2.frames.length) 0

/-- A number that names the next entry to RESIDENT (STAMP, R284). -/
def Part.nextStamp (p : Part) (d : Nat) : Part × Nat :=
  (p.modDie d (fun x => { x with stamp := x.stamp + 1 }), (p.die d).stamp + 1)

/-- Begin a prefetch with frames at hand (R282). -/
def Part.beginPrefetch (p : Part) (h : Nat) (frames : List Nat) : Part :=
  (p.setHandle h { p.handle h with st := .prefetching, frames := frames }).askCopy h

/-- The lowest free DVA range of `n` pages in the arena of die `d`. -/
def Part.freeRange (p : Part) (d n : Nat) : Option Nat :=
  let base := p.get Fld.PAGER_ARENA.BASE d * 2 ^ 30
  let size := p.get Fld.PAGER_ARENA.SIZE_GIB d * 2 ^ 30
  let hs := p.handlesOf d
  let ok := fun b => decide (base ≤ b ∧ b + n * pageBytes ≤ base + size) &&
    hs.all (fun x => x.2.dva + x.2.pages * pageBytes ≤ b || b + n * pageBytes ≤ x.2.dva)
  ((base :: hs.map (fun x => x.2.dva + x.2.pages * pageBytes)).filter ok).foldl
    (fun (m : Option Nat) b => match m with | none => some b | some a => some (min a b)) none

/-- The lowest free handle number of die `d`. -/
def Part.freeHandle (p : Part) (d : Nat) : Option Nat :=
  let used := (p.handlesOf d).map (·.1)
  ((List.range (used.length + 1)).map (fun i => d * 16384 + i)).find? (fun h => !used.contains h && h < (d + 1) * 16384)

/-- Set the state of an issued pager instruction of a core, found by its dispatch number. -/
def Part.setPg (p : Part) (c order : Nat) (st : FlySt) : Part :=
  p.modCore c (fun x => x.setFlying .mover ((x.flying .mover).map
    (fun f => if f.e.order = order then { f with st := st } else f)))

/-- Allocate a handle with frames at hand (R281). -/
def Part.takeHandle (p : Part) (d pages flags h dva : Nat) (frames : List Nat) : Part :=
  let (p, s) := p.nextStamp d
  let x : Handle := ⟨.resident, dva, pages, frames, [], bit flags 0, bit flags 2, bit flags 3, bit flags 1, s, 0, p.time.raw, false⟩
  (p.setHandle h x).writeEntries d h x true false

/-- A prefetch of `h` cannot be: its instruction ends with `st`, and so do the accesses that wait on it, with BUSY where frames
could not be obtained (R286). -/
def Part.failPrefetch (p : Part) (who : Option (Nat × Nat)) (h : Nat) (st : Status) : Part :=
  let p := match who with
    | some (c, o) => p.setPg c o (.pgDone st.code h 0)
    | none => p
  p.endWaits h (if st = .reserveExhausted then Status.busy.code else st.code)

/-- A prefetch request whose handle is no longer OFFLOADED: it joins a prefetch under way, or is decided (R282). -/
def Part.lateJob (p : Part) (d : Nat) (j : PgJob) : Option Part :=
  match j with
  | .alloc _ _ _ _ => none
  | .prefetch who h pin =>
    let tell := fun (st : FlySt) => match who with
      | some (c, o) => p.setPg c o st
      | none => p
    match (p.handle h).st with
    | .offloaded => none
    | .prefetching =>
      let q := tell (.pgRun h)
      some (if pin then q.modDie d (fun x => { x with pgPin := h :: x.pgPin }) else q)
    | .resident => some (tell (.pgDone Status.ok.code h 0))
    | .lost => some (p.failPrefetch who h .uncorrectable)
    | _ => some (p.failPrefetch who h .busy)

/-- Try one waiting request: done, still waiting for frames that an offload under way will free, or refused (R281, R284).
Evictions go one at a time: none begins while an offload of the die is under way. -/
def Part.tryJob (p : Part) (d : Nat) (j : PgJob) : Part × Bool :=
  match p.lateJob d j with
  | some q => (q, true)
  | none =>
  let need := match j with
    | .alloc _ _ pages _ => pages
    | .prefetch _ h _ => (p.handle h).pages
  let free := p.freeFrames d
  if need ≤ free.length then
    match j with
    | .alloc c o pages flags =>
      match p.freeHandle d, p.freeRange d pages with
      | some h, some dva =>
        ((p.takeHandle d pages flags h dva (free.take pages)).setPg c o (.pgDone Status.ok.code h dva), true)
      | _, _ => (p.setPg c o (.pgDone Status.busy.code 0 0), true)
    | .prefetch who h pin =>
      let p := p.beginPrefetch h (free.take need)
      let p := if pin then p.modDie d (fun x => { x with pgPin := h :: x.pgPin }) else p
      (match who with | some (c, o) => p.setPg c o (.pgRun h) | none => p, true)
  else if 0 < p.comingFrames d then (p, false)
  else
    match p.evictNext d with
    | some v =>
      match p.startOffload v with
      | (p, true) => (p, false)
      | (p, false) =>
        match j with
        | .alloc c o _ _ => (p.setPg c o (.pgDone Status.reserveExhausted.code 0 0), true)
        | .prefetch who h _ => (p.failPrefetch who h .reserveExhausted, true)
    | none =>
      match j with
      | .alloc c o _ _ => (p.setPg c o (.pgDone Status.busy.code 0 0), true)
      | .prefetch who h _ => (p.failPrefetch who h .busy, true)

/-- Try the waiting requests of die `d`, oldest first, until one must wait. -/
def Part.runJobs (p : Part) (d fuel : Nat) : Part :=
  match fuel with
  | 0 => p
  | f + 1 =>
    match (p.die d).pgWait with
    | [] => p
    | j :: r =>
      match p.tryJob d j with
      | (p, true) => (p.modDie d (fun x => { x with pgWait := r })).runJobs d f
      | (p, false) => p

/-- Queue a request that needs frames, and serve what can be served. -/
def Part.pagerJob (p : Part) (d : Nat) (j : PgJob) : Part :=
  let p := p.modDie d (fun x => { x with pgWait := x.pgWait ++ [j] })
  p.runJobs d ((p.die d).pgWait.length + 1)

/-- Whether a prefetch of `h` already waits for frames. -/
def Part.prefetchWaits (p : Part) (h : Nat) : Bool :=
  (p.die (h / 16384)).pgWait.any (fun j => match j with | .prefetch _ g _ => g == h | _ => false)

/-- An access touches handle `h` (R286). Host BAR2 accesses never wait and start no prefetch. -/
def Part.touch (p : Part) (r : Req) (h : Nat) : Part × Acc Unit :=
  let d := h / 16384
  match (p.handle h).st with
  | .free | .resident => (p, .fail .xlateFault)
  | .lost => (p, .fail .uncorrectable)
  | st =>
    if r = .barRd ∨ r = .barWr then (p, .fail .busy)
    else if p.get Fld.PAGER_CTRL.DEMAND_EN d = 0 then (p, .fail .xlateFault)
    else if st = .offloaded ∧ ¬ p.prefetchWaits h then
      let p := p.pagerJob d (.prefetch none h false)
      if (p.handle h).st = .offloaded ∧ ¬ p.prefetchWaits h then (p, .fail .busy) else (p, .wait h)
    else (p, .wait h)

/-! ### Accesses by DVA -/

/-- Translate a DVA for a requester of die `d` (R275, R278). -/
def Part.translate (p : Part) (d : Nat) (r : Req) (dva : Nat) : Part × Acc Nat :=
  if 2 ^ 48 ≤ dva then (p, .fail .xlateFault) else
  match p.walk d r dva with
  | (p, .fail st) => (p, .fail st)
  | (p, .held) => (p, .wait 65537)
  | (p, .touch h) =>
    match p.touch r h with
    | (p, .ok _) => (p, .fail .xlateFault)
    | (p, .fail st) => (p, .fail st)
    | (p, .wait h) => (p, .wait h)
  | (p, .leaf l) =>
    let pa := match readEntry (if l.size = 2 ^ 21 then 3 else 4) l.entry with
      | .page q _ => q
      | _ => 0
    if permits r l.entry pa then (p, .ok (pa + (dva - l.base))) else (p, .fail .protFault)

/-- Read the lines of a DVA range, in order. -/
def Part.readParts (p : Part) (d : Nat) (r : Req) (cached : Bool) (ls : List (Nat × Nat)) : Part × Acc (List Byte) :=
  match ls with
  | [] => (p, .ok [])
  | (a, n) :: rest =>
    match p.translate d r a with
    | (p, .fail st) => (p, .fail st)
    | (p, .wait h) => (p, .wait h)
    | (p, .ok pa) =>
      if p.heldBack d r pa n then (p, .wait 65537) else
      match p.readLine d pa n (if r = .updRd ∨ r = .updWr then .direct else if cached then .remote else .home) with
      | (p, .fail st) => (p, .fail st)
      | (p, .wait h) => (p, .wait h)
      | (p, .ok l) =>
        match p.readParts d r cached rest with
        | (p, .ok m) => (p, .ok (l ++ m))
        | x => x

/-- Read `n` bytes at a DVA for a requester of die `d`. -/
def Part.readDva (p : Part) (d : Nat) (r : Req) (dva n : Nat) : Part × Acc (List Byte) :=
  p.readParts d r true (linesOf dva n)

/-- Write the lines of a DVA range, in order, stopping at the first that fails. -/
def Part.writeParts (p : Part) (d : Nat) (r : Req) (ls : List (Nat × Nat)) (data : List Byte) : Part × Acc Unit :=
  match ls with
  | [] => (p, .ok ())
  | (a, n) :: rest =>
    match p.translate d r a with
    | (p, .fail st) => (p, .fail st)
    | (p, .wait h) => (p, .wait h)
    | (p, .ok pa) =>
      if p.heldBack d r pa n then (p, .wait 65537) else
      match p.writeLine d pa (data.take n) (r == .updWr) with
      | (p, .ok _) => p.writeParts d r rest (data.drop n)
      | x => x

/-- Write bytes at a DVA for a requester of die `d`. -/
def Part.writeDva (p : Part) (d : Nat) (r : Req) (dva : Nat) (data : List Byte) : Part × Acc Unit :=
  p.writeParts d r (linesOf dva data.length) data

/-! ### Tile-store accesses of a core's own engines (R249) -/

/-- Whether `[a, a + n)` lies wholly in the data region. -/
def inData (a n : Nat) : Bool := decide (a + n ≤ 0xA0_0000)

/-- Whether `[a, a + n)` lies wholly in one accumulator window, and which bank of core `c`. -/
def windowOf (c a n : Nat) : Option (Nat × Nat) :=
  if 0xA0_0000 ≤ a ∧ a + n ≤ 0xA4_0000 ∧ 0 < n ∧ (a - 0xA0_0000) / 0x1_0000 = (a + n - 1 - 0xA0_0000) / 0x1_0000 then
    some (4 * c + (a - 0xA0_0000) / 0x1_0000, (a - 0xA0_0000) % 0x1_0000)
  else none

/-- Read a core's own local addresses: data region under the check code, or a bank window. -/
def Part.readLocal (p : Part) (c a n : Nat) : Part × Acc (List Byte) :=
  if n = 0 then (p, .ok [])
  else if inData a n then p.readHome (tileBase c + a) n false
  else match windowOf c a n with
    | some (k, off) =>
      match p.readWindow k off n with
      | some r => (p, r)
      | none => (p, .wait 65536)
    | none => (p, .fail .range)

/-- Write a core's own local addresses. -/
def Part.writeLocal (p : Part) (c a : Nat) (l : List Byte) : Part × Acc Unit :=
  if l.length = 0 then (p, .ok ())
  else if inData a l.length then
    if p.guardHit c a l.length then (p, .fail .protFault) else p.writeHome (tileBase c + a) l false
  else match windowOf c a l.length with
    | some (k, off) =>
      match p.writeWindow k off l with
      | some r => r
      | none => (p, .wait 65536)
    | none => (p, .fail .range)

end Sys2Proof.Machine
end

