-- ==== Sys2Proof/Machine/Observe.lean ====
section
/-! DEFINITION. Time as the part reads it (R423, R431, R432, R592), and the Pennal trace (R587 to R591). -/

namespace Sys2Proof.Machine

/-! ### Meridian and job time -/

/-- Let the raw meridian reach a moment, if it has not (log entry 7). -/
def Part.advanceTo (p : Part) (raw : Nat) : Part :=
  if p.time.raw < raw then { p with time := { p.time with raw := raw % 2 ^ 64 } } else p

/-- One nanosecond of a part whose reset is released and whose clocks run (R423). -/
def Part.tick (p : Part) : Part :=
  if p.pins.resetN && p.pins.refPkg && p.run != .dead then { p with time := { p.time with raw := (p.time.raw + 1) % 2 ^ 64 } } else p

/-- The offset a slew has reached at raw moment `r` (R432, R592). -/
def Slew.at (s : Slew) (r : Nat) : Int :=
  let k : Int := ((r - s.r0) / 1000 : Nat)
  if s.o0 < s.o1 then min (s.o0 + k) s.o1 else max (s.o0 - k) s.o1

/-- The offset in force, as a signed number. -/
def Part.offset (p : Part) : Int :=
  match p.time.slew with
  | some s => s.at p.time.raw
  | none => signed 64 (p.get Fld.JOB_OFFSET.OFFSET 0)

def Part.jobValid (p : Part) : Bool := p.get Fld.TIME_STATUS.JOB_TIME_VALID 0 == 1

/-- Job time: raw meridian plus offset modulo 2^64; 0 while not valid (R431). -/
def Part.jobTime (p : Part) : Nat :=
  if p.jobValid then (((p.time.raw : Int) + p.offset) % (2 ^ 64 : Int)).toNat else 0

/-- The meridian count of die `d`, and job time by it (R424, R431). -/
def Part.rawOn (p : Part) (d : Nat) : Nat := (((p.time.raw : Int) + Tab.get 0 p.time.skew d) % (2 ^ 64 : Int)).toNat

def Part.jobTimeOn (p : Part) (d : Nat) : Nat :=
  if p.jobValid then (((p.rawOn d : Int) + p.offset) % (2 ^ 64 : Int)).toNat else 0

/-! ### Trace -/

/-- Trace records one die may form in a 1,000-tick window (R590). -/
def Part.traceCap (p : Part) (d : Nat) : Nat := if p.get Fld.MEM_STATUS.HBM_RATE d = 80 then 3840 else 4800

def Part.traceDrop (p : Part) (d : Nat) : Part :=
  (p.bump Fld.TRACE_STATUS.DROPPED d 1).count d 12 1

/-- Form a trace record of class `cls` and event `ev` on die `d` and write or drop it (R587 to R590). -/
def Part.trace (p : Part) (d cls ev unit : Nat) (payload : List Byte) : Part :=
  if p.get Fld.TRACE_CTRL.ENABLE d = 0 then p
  else if ¬ (bit (p.get Fld.TRACE_CTRL.CLASS_EN d) cls ∨ cls = 3 ∨ cls = 4) then p
  else
    let x := p.die d
    let win := p.time.raw / 1000
    let n := if x.traceWin = win then x.traceCount else 0
    let sq := x.dieSeq
    let p := p.setDie d { x with dieSeq := (x.dieSeq + 1) % 2 ^ 16, traceWin := win, traceCount := n + 1 }
    let cap := 128 * p.get Fld.TRACE_SIZE.SIZE_4K d
    if p.get Fld.TRACE_STATUS.FAILED d = 1 ∨ p.get Fld.TRACE_STATUS.FULL d = 1 ∨ cap = 0 then p.traceDrop d
    else if p.traceCap d ≤ n ∧ cls ≠ 3 ∧ cls ≠ 4 then p.traceDrop d
    else
      let head := p.get Fld.TRACE_HEAD.HEAD d
      let r := leBytes 8 p.time.raw ++ leBytes 4 unit ++ leBytes 2 (cls * 256 + ev) ++ leBytes 2 sq ++ bytesAt payload 0 16
      match p.writeDva d .traceWr (p.get Fld.TRACE_BASE.BASE d * 4096 + 32 * (head % cap)) r with
      | (p, .ok _) =>
        let p := p.put Fld.TRACE_HEAD.HEAD d (head + 1)
        if p.get Fld.TRACE_CTRL.MODE d = 1 ∧ cap ≤ head + 1 then p.put Fld.TRACE_STATUS.FULL d 1 else p
      | (p, .fail st) =>
        let p := (p.put Fld.TRACE_STATUS.FAILED d 1).put Fld.TRACE_STATUS.FAIL_STATUS d st.code
        (p.traceDrop d).event .delivery st (unitWord d 0 0xFF) (p.get Fld.TRACE_BASE.BASE d * 4096 + 32 * (head % cap))
      | (p, .wait _) => p.traceDrop d

/-- Payload bytes from (offset, size, value) fields, offsets counted from 0x10. -/
def payload (fs : List (Nat × Nat × Nat)) : List Byte :=
  leBytes 16 (fs.foldl (fun v f => v + (f.2.2 % 2 ^ (8 * f.2.1)) * 2 ^ (8 * f.1)) 0)

/-! ### Setting job time (R428, R432, R434) -/

/-- Set a new job offset: at once while job time is not valid, else by a slew (R432). Each writes its trace record, on
die 0 (R434, log entry 15). -/
def Part.setOffset (p : Part) (new : Int) : Part :=
  let raw64 := (new % (2 ^ 64 : Int)).toNat
  let old := p.offset
  let old64 := (old % (2 ^ 64 : Int)).toNat
  let p := p.put Fld.JOB_OFFSET.OFFSET 0 raw64
  if p.jobValid ∧ old64 ≠ raw64 then
    let p := { p with time := { p.time with slew := some ⟨p.time.raw, old, signed 64 raw64⟩ } }
    (p.put Fld.TIME_STATUS.SLEWING 0 1).trace 0 3 2 (unitWord 0xFF 0 0xFF) (payload [(0, 8, raw64), (8, 8, old64)])
  else
    let p := { p with time := { p.time with slew := none } }
    ((p.put Fld.TIME_STATUS.SLEWING 0 0).put Fld.TIME_STATUS.JOB_TIME_VALID 0 1).trace 0 3 1 (unitWord 0xFF 0 0xFF)
      (payload [(0, 8, raw64), (8, 8, old64)])

end Sys2Proof.Machine
end

