-- ==== Sys2Proof/Machine/Task.lean ====
section
/-! DEFINITION. Token counters (R66 to R71), signals within the part (R73 to R76), task descriptors, slots, watches and
the pipeline gait (R80 to R97, R352 to R355). -/

namespace Sys2Proof.Machine

/-! ### Token counters -/

/-- Counter `t` of core `c`. -/
def CoreSt.token (x : CoreSt) (t : Nat) : Nat := Tab.get 0 x.tc t

def CoreSt.setToken (x : CoreSt) (t v : Nat) : CoreSt := { x with tc := Tab.set 0 x.tc t v }

/-- Mark the watches that a counter has reached (R85). -/
def CoreSt.hitWatches (x : CoreSt) (t : Nat) : CoreSt :=
  { x with watches := x.watches.map (fun w => if w.tok = t ∧ w.threshold ≤ x.token t then { w with hit := true } else w) }

/-- Increment counter `t` of core `c` by `n`, saturating at 0xFFFF (R69). -/
def Part.tokAdd (p : Part) (c t n : Nat) : Part :=
  let v := (p.core c).token t + n
  let p := p.modCore c (fun x => (x.setToken t (min v 0xFFFF)).hitWatches t)
  if v ≤ 0xFFFF then p
  else
    let old := p.get Fld.SYNC_STATUS.SAT_TOKEN c
    let low := if p.get Fld.SYNC_STATUS.TOKEN_SATURATED c = 1 then min old t else t
    ((p.put Fld.SYNC_STATUS.SAT_TOKEN c low).put Fld.SYNC_STATUS.TOKEN_SATURATED c 1).event .delivery .range
      (unitWord (dieOf c) c 0xFF) t

/-- Note a change that an instruction of an open span makes to a counter (R460). -/
def Part.noteTok (p : Part) (c t : Nat) (d : Int) : Part :=
  p.modCore c (fun x =>
    match x.span with
    | some s => { x with span := some { s with tcDelta := Tab.set 0 s.tcDelta t (Tab.get 0 s.tcDelta t + d) } }
    | none => x)

/-- Take `n` from a counter that holds at least `n` (R67). -/
def Part.tokTake (p : Part) (c t n : Nat) : Part :=
  (p.modCore c (fun x => x.setToken t (x.token t - n))).noteTok c t (-(n : Int))

/-! ### Signals to a core of this part (R73, R76) -/

/-- Why an increment of counter `t` of core `c` by `n` cannot be applied (R76), in the order range, retired, off. -/
def Part.sigCheck (p : Part) (c t n : Nat) : Status :=
  if 255 < c ∨ 63 < t ∨ n = 0 then .range
  else if p.coreRetired c then .retiredUnit
  else if ¬ p.domainOn (clusterOf c) then .busy
  else .ok

/-- Apply an increment within the part, or answer why not. -/
def Part.sigLocal (p : Part) (c t n : Nat) : Part × Status :=
  match p.sigCheck c t n with
  | .ok => (p.tokAdd c t n, .ok)
  | st => (p, st)

/-! ### Task descriptors (R80) -/

def descEntry (l : List Byte) : Nat := fieldAt l 0 8
def descArg (l : List Byte) : Nat := fieldAt l 8 8
def descClass (l : List Byte) : Nat := fieldAt l 0x10 2
def descMb (l : List Byte) : Nat := fieldAt l 0x12 2
def descBind (l : List Byte) : Nat := fieldAt l 0x14 1
def descPre (l : List Byte) : Nat := fieldAt l 0x15 1
def descPrecond (l : List Byte) (i : Nat) : Nat := fieldAt l (0x18 + 8 * i) 8
def descCompletion (l : List Byte) : Nat := fieldAt l 0x38 8

/-- Fields of a precondition: global core, token, threshold. -/
def preCore (v : Nat) : Nat := bits v 29 22
def preTok (v : Nat) : Nat := bits v 21 16
def preThr (v : Nat) : Nat := bits v 15 0

/-- A precondition whose fields are in range and whose reserved bits are 0. -/
def preOk (v : Nat) : Bool := decide (v < 2 ^ 30 ∧ 32 ≤ preTok v ∧ 1 ≤ preThr v)

/-- A COMPLETION word in range: amount 1 to 255 when enabled, reserved bits 0. -/
def completionOk (v : Nat) : Bool :=
  decide (bits v 62 30 = 0 ∧ bits v 15 8 = 0) && (!bit v 63 || decide (1 ≤ bits v 7 0))

/-- Fields of a descriptor in range and reserved bits 0 (R80, R82). -/
def descOk (l : List Byte) : Bool :=
  decide (descEntry l < 2 ^ 48 ∧ descEntry l % 8 = 0 ∧ descClass l ≤ 3 ∧
    (descBind l = 0xFF ∨ descBind l ≤ 7) ∧ descPre l ≤ 4 ∧ fieldAt l 0x16 2 = 0) &&
  (List.range (descPre l)).all (fun i => preOk (descPrecond l i)) && completionOk (descCompletion l)

/-- The preconditions a descriptor uses, with their indices. -/
def descPreconds (l : List Byte) : List (Nat × Nat) := (List.range (descPre l)).map (fun i => (i, descPrecond l i))

/-! ### Posting (R81, R82) -/

/-- Slots of a cluster in a state. -/
def Part.slotsIn (p : Part) (k : Nat) (st : SlotSt) : List Nat :=
  (List.range 256).filter (fun s => (p.slot k s).st == st)

/-- Slots that are not FREE, which are the listed ones. -/
def Part.liveSlots (p : Part) (k : Nat) : List (Nat × Slot) :=
  (p.slots.filter (fun x => x.1 / 256 == k && x.2.st != .free)).map (fun x => (x.1 % 256, x.2))

/-- The lowest-numbered FREE slot. -/
def Part.freeSlot (p : Part) (k : Nat) : Option Nat :=
  let used := (p.liveSlots k).map (·.1)
  (List.range 256).find? (fun s => !used.contains s)

/-- Whether every watch of a descriptor can be placed (R85): 512 watches in a core, its domain on. -/
def Part.watchesFit (p : Part) (l : List Byte) : Bool :=
  (descPreconds l).all (fun x =>
    let c := preCore x.2
    p.domainOn (clusterOf c) &&
      decide ((p.core c).watches.length + ((descPreconds l).filter (fun y => preCore y.2 == c)).length ≤ 512))

/-- The gait is on in a cluster. -/
def Part.gaitOn (p : Part) (k : Nat) : Bool := p.get Fld.DIST_CTRL.GAIT_EN k == 1

/-- Whether a cluster is retired as a whole (R61). -/
def Part.clusterRetired (p : Part) (k : Nat) : Bool := bit (p.rd .DISABLED_MAP k).toNat 40

/-- The status of posting a descriptor, by R82 row by row (with R354's RANGE); a post to a retired cluster is work sent to a
unit of the disabled-unit map (R56). -/
def Part.postStatus (p : Part) (k : Nat) (l : List Byte) : Status :=
  if ¬ p.domainOn k then .busy
  else if ¬ descOk l then .range
  else if p.gaitOn k ∧ (descClass l = 1 ∨ descClass l = 2) ∧ p.get Fld.GAIT_CTRL.MB_COUNT k ≤ descMb l then .range
  else if p.clusterRetired k ∨ (descBind l ≤ 7 ∧ p.coreRetired (8 * k + descBind l)) ∨
      (descPreconds l).any (fun x => p.coreRetired (preCore x.2)) then .retiredUnit
  else if p.freeSlot k = none then .busy
  else if ¬ p.watchesFit l then .busy
  else .ok

/-- Place the watches of a posted slot; one whose counter already stands at its threshold has been reached (R85). -/
def Part.placeWatches (p : Part) (k s : Nat) (l : List (Nat × Nat)) : Part :=
  match l with
  | [] => p
  | (i, v) :: r =>
    let c := preCore v
    let w : Watch := ⟨k, s, i, preTok v, preThr v, decide (preThr v ≤ (p.core c).token (preTok v))⟩
    (p.modCore c (fun x => { x with watches := x.watches ++ [w] })).placeWatches k s r

/-- Count a post for the task keys of tandem mode and answer how many came before it (R439). -/
def Part.countOcc (p : Part) (k : Nat) (l : List Byte) : Part × Nat :=
  let x := p.cluster k
  let e := descEntry l
  let a := descArg l
  let m := descMb l
  let n := ((x.occ.find? (fun o => o.1 == e && o.2.1 == a && o.2.2.1 == m)).map (fun o => o.2.2.2)).getD 0
  let rest := x.occ.filter (fun o => !(o.1 == e && o.2.1 == a && o.2.2.1 == m))
  if p.get Fld.TANDEM_CTRL.ENABLE 0 = 1 then (p.setCluster k { x with occ := (e, a, m, n + 1) :: rest }, n) else (p, 0)

/-- Post a descriptor to a cluster: its status, and the slot it took (R82, R97). -/
def Part.post (p : Part) (k : Nat) (l : List Byte) : Part × Status × Nat :=
  match p.postStatus k l, p.freeSlot k with
  | .ok, some s =>
    let (p, occ) := p.countOcc k l
    let x := p.cluster k
    let st : SlotSt := if descPre l = 0 then .ready else .waiting
    let p := p.setSlot k s ⟨st, bytesAt l 0 64, x.postCount, 0, 0, 0, occ⟩
    let p := p.setCluster k { x with postCount := (x.postCount + 1) % 2 ^ 32 }
    (p.placeWatches k s (descPreconds l), .ok, s)
  | .ok, none => (p, .busy, 0)
  | st, _ => (p, st, 0)

/-- Requesters of a post: cores 0 to 255, host port q as 256 + q. -/
def stagingKey (k who : Nat) : Nat := 512 * k + who

/-- The staging buffer of a requester in a distributor (R81). -/
def Part.stage (p : Part) (k who : Nat) : List Byte := Tab.get (List.replicate 64 0) p.staging (stagingKey k who)

/-- Write bytes into a requester's staging buffer; a write that covers 0x3F posts and clears it (R81). The outcome of a
window post is kept in POST_RESULT (R96). -/
def Part.stageWrite (p : Part) (k who off : Nat) (l : List Byte) : Part × Option (Status × Nat) :=
  let zero : List Byte := List.replicate 64 0
  let old := p.stage k who
  let buf := old.take off ++ l ++ old.drop (off + l.length)
  if off + l.length = 64 then
    let p := { p with staging := Tab.set zero p.staging (stagingKey k who) zero }
    let (p, st, s) := p.post k buf
    let p := { p with postRes := Tab.set (0, 0) p.postRes (stagingKey k who) (st.code, s) }
    (p, some (st, s))
  else ({ p with staging := Tab.set zero p.staging (stagingKey k who) buf }, none)

/-! ### Slots -/

/-- Free a slot and its watches (R84, R85). Its fields then read as after reset: DESIGN CHOICE (log entry 75). -/
def Part.freeSlotAt (p : Part) (k s : Nat) : Part :=
  let p := p.setSlot k s Slot.reset
  let keep := fun (w : Watch) => !(w.cluster == k && w.slot == s)
  let t := p.cores.map (fun x => (x.1, { x.2 with watches := x.2.watches.filter keep }))
  { p with cores := t.filter (fun x => x.2 != CoreSt.reset) }

/-- Move bound tasks of a retired core to FAULTED (R84). -/
def Part.faultBound (p : Part) (k n : Nat) : Part :=
  (p.liveSlots k).foldl (fun p x =>
    if descBind x.2.desc = n ∧ (x.2.st = .waiting ∨ x.2.st = .ready) then
      p.setSlot k x.1 { x.2 with st := .faulted, status := Status.retiredUnit.code, core := n }
    else p) p

/-! ### The gait (R352 to R355) -/

/-- A due pair: class (1 FORWARD, 2 BACKWARD, 3 UPDATE), micro-batch and phase. -/
structure Due3 where
  cls : Nat
  mb : Nat
  phase : Nat
  deriving DecidableEq, Repr

/-- The i-th due pair of a step with B micro-batches and W warm-up forwards (R352). -/
def duePair (b w i : Nat) : Due3 :=
  if i < w then ⟨1, i, 0⟩
  else if i < w + 2 * (b - w) then
    let j := i - w
    if j % 2 = 0 then ⟨2, j / 2, 1⟩ else ⟨1, j / 2 + w, 1⟩
  else if i < 2 * b then ⟨2, i - b, 2⟩
  else ⟨3, 0, 3⟩

/-- The due pair of a cluster. -/
def Part.due (p : Part) (k : Nat) : Due3 :=
  duePair (p.get Fld.GAIT_CTRL.MB_COUNT k) (p.get Fld.GAIT_CTRL.WARMUP k) (p.cluster k).pairIdx

/-- Whether a BACKWARD task of the cluster is still at work. -/
def Part.backwardBusy (p : Part) (k : Nat) : Bool :=
  (p.liveSlots k).any (fun x => descClass x.2.desc == 2 && (x.2.st == .running || x.2.st == .faulted))

/-- Whether the gait admits a READY slot (R353). -/
def Part.admits (p : Part) (k : Nat) (x : Slot) : Bool :=
  if !p.gaitOn k then true
  else
    let d := p.due k
    let c := descClass x.desc
    if c = 0 then true
    else if d.cls = 3 then
      c == 3 && !p.backwardBusy k && decide ((p.cluster k).pulled < p.get Fld.GAIT_CTRL.UPD_TASKS k)
    else c == d.cls && descMb x.desc == d.mb

/-- Begin the next step: STEP rises (R353). -/
def Part.nextStep (p : Part) (k : Nat) : Part :=
  let x := p.cluster k
  p.setCluster k { x with pairIdx := 0, pulled := 0, updDone := 0, step := (x.step + 1) % 2 ^ 32 }

/-- Advance the gait after a pull of a task of class `cls`; answers whether STEP rose (R353). -/
def Part.gaitPulled (p : Part) (k cls : Nat) : Part × Bool :=
  if !p.gaitOn k || cls == 0 then (p, false)
  else
    let x := p.cluster k
    let d := p.due k
    let n := x.pulled + 1
    if d.cls = 3 then (p.setCluster k { x with pulled := n }, false)
    else if n < p.get Fld.GAIT_CTRL.PAIR_TASKS k then (p.setCluster k { x with pulled := n }, false)
    else
      let p := p.setCluster k { x with pulled := 0, pairIdx := x.pairIdx + 1 }
      if x.pairIdx + 1 = 2 * p.get Fld.GAIT_CTRL.MB_COUNT k ∧ p.get Fld.GAIT_CTRL.UPD_TASKS k = 0 then
        (p.nextStep k, true)
      else (p, false)

/-- Count a completed UPDATE task; answers whether STEP rose (R353). -/
def Part.gaitEnded (p : Part) (k cls : Nat) : Part × Bool :=
  if !p.gaitOn k || cls != 3 then (p, false)
  else
    let x := p.cluster k
    let p := p.setCluster k { x with updDone := x.updDone + 1 }
    if x.updDone + 1 = p.get Fld.GAIT_CTRL.UPD_TASKS k then (p.nextStep k, true) else (p, false)

/-! ### Pulling and starting (R86, R87) -/

/-- Whether a core is held for a farrier test or as a suspect (R95, R471). -/
def Part.held (p : Part) (c : Nat) : Bool := bit (p.get Fld.DIST_STATUS.CORE_HELD (clusterOf c)) (c % 8)

def Part.setHeld (p : Part) (c : Nat) (b : Bool) : Part :=
  let old := p.get Fld.DIST_STATUS.CORE_HELD (clusterOf c)
  p.put Fld.DIST_STATUS.CORE_HELD (clusterOf c)
    (if bit old (c % 8) == b then old else old ^^^ 2 ^ (c % 8))

/-- Whether an engine of a core is STOPPED, and neither cleared nor retired (R245). -/
def Part.anyStopped (p : Part) (c : Nat) : Bool :=
  (p.meUsable c 0 && (p.engine (2 * p.phys c)).stopped) || (p.meUsable c 1 && (p.engine (2 * p.phys c + 1)).stopped) ||
    (!p.coreRetired c && (p.ve (p.phys c)).stopped)

/-- Whether a core may pull now (R86, R92, R245, R253, R442, R443). -/
def Part.mayPull (p : Part) (c : Nat) : Bool :=
  let k := clusterOf c
  (p.core c).phase == .idle && p.get Fld.DIST_CTRL.ENABLE k == 1 && bit (p.cluster k).maskActive (c % 8) &&
    !p.coreRetired c && !p.held c && p.domainOn k && !(p.cluster k).clearing && !p.anyStopped c && !p.isFollower c &&
    p.get Fld.TANDEM_STATUS.HALTED 0 == 0

/-- The admitted READY slot with the lowest POST_SEQ, modulo 2^32, for core `c` (R86, R97). -/
def Part.pullSlot (p : Part) (c : Nat) : Option Nat :=
  let k := clusterOf c
  let cand := (p.liveSlots k).filter (fun x =>
    x.2.st == .ready && (descBind x.2.desc == 0xFF || descBind x.2.desc == c % 8) && p.admits k x.2)
  (cand.foldl (fun (b : Option (Nat × Nat)) x =>
    match b with
    | none => some (x.2.seq, x.1)
    | some y => if 2 ^ 31 ≤ (x.2.seq + 2 ^ 32 - y.1) % 2 ^ 32 then some (x.2.seq, x.1) else b) none).map (·.2)

/-- The key of a task in tandem mode: CRC-64 over 32 bytes (R439). -/
def taskKey (k occ : Nat) (l : List Byte) : Word :=
  crc64 (leBytes 2 k ++ leBytes 4 occ ++ leBytes 8 (descEntry l) ++ leBytes 8 (descArg l) ++ leBytes 2 (descMb l) ++
    leBytes 2 (descClass l) ++ leBytes 6 0)

/-- A core's state at the start of a task in a slot (R66, R87, R223). -/
def CoreSt.start (x : CoreSt) (k s : Nat) (t : Slot) : CoreSt :=
  { x with
    g := Tab.set 0 (Tab.set 0 (Tab.set 0 [] 1 (BitVec.ofNat 64 (descArg t.desc))) 2 (BitVec.ofNat 64 (descMb t.desc)))
      3 (BitVec.ofNat 64 s)
    td := []
    tc := x.tc.filter (fun y => 32 ≤ y.1)
    seed := 0
    step := 0
    deny := false
    pc := descEntry t.desc
    phase := .running s
    hold := .none
    order := 0
    event := 0
    key := taskKey k t.occ t.desc
    intervals := []
    span := none }

end Sys2Proof.Machine
end

