-- ==== Sys2Proof/Machine/Operands.lean ====
section
/-! DEFINITION. Operand forms: the fields of an Afnel word (R217, R224), which bits an instruction leaves reserved
(R225), tile descriptor registers (R221), and register reads and writes (R220). -/

namespace Sys2Proof.Machine

/-! ### Fields of an instruction word -/

def opOf (w : Word) : Nat := bits w.toNat 63 56
def waitEn (w : Word) : Bool := bit w.toNat 55
def waitTok (w : Word) : Nat := bits w.toNat 54 49
def sigEn (w : Word) : Bool := bit w.toNat 48
def sigTok (w : Word) : Nat := bits w.toNat 47 42
/-- RD of SR and SI; RA of SB; TD_D, OP1, G_ARG, G_OP -/
def fA (w : Word) : Nat := bits w.toNat 41 37
/-- RA of SR and SI; RB of SB; SRC_A, OP2, G_RES -/
def fB (w : Word) : Nat := bits w.toNat 36 32
/-- RB of SR; SRC_B -/
def fC (w : Word) : Nat := bits w.toNat 31 27
def immOf (w : Word) : Nat := bits w.toNat 31 0
def engOf (w : Word) : Nat := bits w.toNat 41 41
def bankOf (w : Word) : Nat := bits w.toNat 40 40
def tdA (w : Word) : Nat := bits w.toNat 39 35
def tdB (w : Word) : Nat := bits w.toNat 34 30
def gsizeOf (w : Word) : Nat := bits w.toNat 29 28
def csEn (w : Word) : Bool := bit w.toNat 34
def acTdC (w : Word) : Nat := bits w.toNat 33 29
def acConv (w : Word) : Nat := bits w.toNat 28 26
def acStat (w : Word) : Nat := bits w.toNat 25 21
def acSr (w : Word) : Nat := bits w.toNat 20 16
def identOf (w : Word) : Nat := bits w.toNat 1 0
def pmodeOf (w : Word) : Nat := bits w.toNat 39 38
def partnerOf (w : Word) : Nat := bits w.toNat 37 34
def gPart (w : Word) : Nat := bits w.toNat 33 29
def xbOf (w : Word) : Nat := bits w.toNat 28 28
def srcC (w : Word) : Nat := bits w.toNat 26 22
def aSc (w : Word) : Bool := bit w.toNat 21
def bSc (w : Word) : Bool := bit w.toNat 20
def cSc (w : Word) : Bool := bit w.toNat 19
def vConv (w : Word) : Nat := bits w.toNat 18 16
def vStat (w : Word) : Bool := bit w.toNat 15
def vGStat (w : Word) : Nat := bits w.toNat 14 10
def vGSr (w : Word) : Nat := bits w.toNat 9 5
def fnOf (w : Word) : Nat := bits w.toNat 4 0
def pgFlags (w : Word) : Nat := bits w.toNat 31 24
def countOf (w : Word) : Nat := bits w.toNat 7 0

/-- ROUND of a CONV field, and its stochastic code (R154). -/
def roundOf (conv : Nat) : Nat := conv % 4
def satOf (conv : Nat) : Bool := bit conv 2
def roundSR : Nat := 2

/-- Bits [hi:lo] all ones. -/
def ones (hi lo : Nat) : Nat := (2 ^ (hi + 1 - lo) - 1) * 2 ^ lo

/-! ### Opcodes (R227) -/

/-- Reserved bits of a vector word: unused sources, FN bits outside `fn`, and the fields whose enable is off. -/
def vReserved (w : Word) (useB useC conv : Bool) (fn : Nat) : Nat :=
  (if useB then 0 else ones 31 27 ||| ones 20 20) ||| (if useC then 0 else ones 26 22 ||| ones 19 19) |||
  (if conv then (if roundOf (vConv w) = roundSR then 0 else ones 9 5) else ones 18 16 ||| ones 9 5) |||
  (if vStat w then 0 else ones 14 10) ||| (ones 4 0 ^^^ fn)

/-- The reserved bits of [41:0] for an opcode; none for an unassigned opcode (R224, R225, R227). -/
def reservedBits (w : Word) : Option Nat :=
  match opOf w with
  | 0x00 | 0x1C => some (ones 41 0)
  | 0x01 | 0x02 | 0x03 | 0x04 | 0x05 | 0x06 | 0x07 | 0x08 | 0x09 | 0x0A | 0x0B => some (ones 26 0)
  | 0x0C | 0x0D | 0x0E | 0x0F | 0x10 | 0x11 | 0x12 | 0x13 | 0x14 | 0x17 | 0x18 | 0x19 => some 0
  | 0x15 => some (ones 36 32)
  | 0x16 => some (ones 41 37 ||| ones 31 0)
  | 0x1A => some (ones 36 32 ||| ones 31 12)
  | 0x1B => some (ones 41 37 ||| ones 31 12)
  | 0x20 | 0x21 | 0x22 | 0x23 | 0x24 | 0x25 | 0x26 => some (ones 27 0)
  | 0x30 => some (ones 39 2)
  | 0x31 => some (ones 34 0)
  | 0x32 => some (ones 15 0 ||| (if csEn w then 0 else ones 33 29) |||
      (if roundOf (acConv w) = roundSR then 0 else ones 20 16))
  | 0x33 | 0x34 => some (ones 27 0 ||| (if pmodeOf w = 2 then ones 37 34 else ones 33 29))
  | 0x40 | 0x41 | 0x42 => some (vReserved w true false true 0)
  | 0x43 => some (vReserved w true true true 0)
  | 0x44 | 0x45 | 0x4A | 0x58 | 0x59 | 0x5A | 0x5B | 0x5C | 0x5D => some (vReserved w false false true 0)
  | 0x46 | 0x47 => some (vReserved w true false true 1)
  | 0x48 => some (vReserved w true false true 7)
  | 0x49 => some (vReserved w true true true 0)
  | 0x50 => some (vReserved w false false true 2)
  | 0x51 | 0x52 => some (vReserved w false false true 1)
  | 0x53 => some ((vReserved w true false false 31) ||| ones 20 20)
  | 0x60 => some (ones 36 0)
  | 0x61 | 0x62 => some (ones 31 0)
  | 0x68 => some (ones 31 28 ||| ones 23 0)
  | 0x69 | 0x6A | 0x6B => some (ones 31 0)
  | 0x6C => some (ones 31 25 ||| ones 23 0)
  | 0x70 => some (ones 41 8)
  | 0x71 | 0x74 | 0x78 => some (ones 36 0)
  | 0x72 | 0x73 | 0x75 | 0x76 => some (ones 41 0)
  | 0x77 => some (ones 40 0)
  | _ => none

/-- Encoded fields that hold a reserved value (R225). -/
def badField (w : Word) : Bool :=
  let op := opOf w
  (0x20 ≤ op && op ≤ 0x26 && gsizeOf w == 3) || (op == 0x30 && identOf w == 3) ||
    ((op == 0x33 || op == 0x34) && pmodeOf w == 3)

/-- An illegal instruction (R225). -/
def illegal (w : Word) : Bool :=
  match reservedBits w with
  | none => true
  | some m => (w.toNat &&& m) != 0 || badField w

/-! ### Core registers (R220, R221) -/

/-- Scalar register n: g0 reads 0. -/
def CoreSt.gr (x : CoreSt) (n : Nat) : Word := if n = 0 then 0 else Tab.get 0 x.g n

/-- Write scalar register n: g0 discards. -/
def CoreSt.setG (x : CoreSt) (n : Nat) (v : Word) : CoreSt := if n = 0 then x else { x with g := Tab.set 0 x.g n v }

def CoreSt.tdr (x : CoreSt) (n : Nat) : BitVec 128 := Tab.get 0 x.td n
def CoreSt.setTd (x : CoreSt) (n : Nat) (v : BitVec 128) : CoreSt := { x with td := Tab.set 0 x.td n v }

/-- Scale kinds of a tile descriptor (R161, R221). -/
def tdScaleKind (t : BitVec 128) : Nat := bits t.toNat 113 112
def tdScaleAddr (t : BitVec 128) : Nat := bits t.toNat 111 88
def tdStride (t : BitVec 128) : Nat := bits t.toNat 87 64
def tdFormat (t : BitVec 128) : Nat := bits t.toNat 63 60
def tdCols (t : BitVec 128) : Nat := bits t.toNat 59 40
def tdRows (t : BitVec 128) : Nat := bits t.toNat 39 24
def tdBase (t : BitVec 128) : Nat := bits t.toNat 23 0

/-- TD.ADV: BASE modulo 2^24, other fields unchanged (R228). -/
def tdAdvance (t : BitVec 128) (d : Nat) : BitVec 128 :=
  BitVec.ofNat 128 (t.toNat - tdBase t + (tdBase t + d) % 2 ^ 24)

/-- IMM sign-extended to 64 bits (R228). -/
def immS (w : Word) : Word := BitVec.ofInt 64 (signed 32 (immOf w))

end Sys2Proof.Machine
end

