-- ==== Sys2Proof/Machine/Flags.lean ====
section
/-! DEFINITION. Computations of the scalar group (R228): results, comparisons and branch targets. The part has no
processor flags; conditions are computed from registers. -/

namespace Sys2Proof.Machine

/-- Register-register operations of opcodes 0x01 to 0x0B. -/
def aluRR (op : Nat) (a b : Word) : Word :=
  let sh := b.toNat % 64
  match op with
  | 0x01 => a + b
  | 0x02 => a - b
  | 0x03 => a &&& b
  | 0x04 => a ||| b
  | 0x05 => a ^^^ b
  | 0x06 => a <<< sh
  | 0x07 => a >>> sh
  | 0x08 => a.sshiftRight sh
  | 0x09 => a * b
  | 0x0A => if a.slt b then 1 else 0
  | _ => if a.ult b then 1 else 0

/-- Register-immediate operations ADDI, ORI and LIH (0x0C to 0x0E). -/
def aluRI (op : Nat) (a : Word) (w : Word) : Word :=
  match op with
  | 0x0C => a + immS w
  | 0x0D => a ||| BitVec.ofNat 64 (immOf w)
  | _ => BitVec.ofNat 64 (immOf w * 2 ^ 32 + a.toNat % 2 ^ 32)

/-- Whether a branch of opcodes 0x11 to 0x14 is taken. -/
def taken (op : Nat) (a b : Word) : Bool :=
  match op with
  | 0x11 => a == b
  | 0x12 => a != b
  | 0x13 => a.slt b
  | _ => b.sle a

/-- DVA reached by a signed count of instruction words from a DVA, in 48 bits. -/
def branchTo (pc : Nat) (off : Int) : Nat := (((pc : Int) + 8 * off) % (2 ^ 48 : Int)).toNat

end Sys2Proof.Machine
end

