-- ==== Sys2Proof/Machine/Fault.lean ====
section
/-! DEFINITION. Taking an instruction fault (R244 to R248), the shared first part of every failure path of R453, and halting
a core (R593, R594). -/

namespace Sys2Proof.Machine

/-- Where a fault is detected (R244), numbered as in SEQ_FAULT (R247). -/
inductive Point where
  | dispatch | issue | execution
  deriving DecidableEq, Repr

def Point.code : Point → Nat
  | .dispatch => 0 | .issue => 1 | .execution => 2

/-- UNIT of R247: 0 sequencer, then the queues. -/
def unitCode : Option EUnit → Nat
  | none => 0
  | some u => unitIdx u + 1

/-- Engine byte of R519 for a faulting unit. -/
def engByte : Option EUnit → Nat
  | some .me0 => 0 | some .me1 => 1 | some .ve => 2
  | _ => 0xFF

/-- The slot a core is working on. -/
def Phase.slot? : Phase → Option Nat
  | .idle => none
  | .pulled s | .running s | .faulted s => some s

/-- A fault record without the marks that matter for a decision. -/
def FaultRec.plain (st : Status) (u : Option EUnit) : FaultRec :=
  ⟨st.code, unitCode u, false, false, false, false, 0, [], [], 0, 0⟩

/-! ### Words of an open span (R461) -/

/-- Whether a COPY range of the open span of core `c` holds an address, local or a DVA. -/
def Part.copyHas (p : Part) (c : Nat) (loc : Bool) (a : Nat) : Bool :=
  match (p.core c).span with
  | none => false
  | some s => (List.range (spanCount s.record)).any (fun i =>
      let r := spanRange s.record i
      r.1 == 2 && r.2.1 == loc && meets a 1 r.2.2.1 r.2.2.2)

/-- The first uncorrectable word among local byte runs, as a local address. -/
def Part.badLocal (p : Part) (c : Nat) (runs : List (Nat × Nat)) : Option Nat :=
  (runs.flatMap (fun r => if r.2 = 0 then [] else (p.badKeys (tileBase c + r.1) r.2).filter p.isBad)).head?.map
    (fun k => 8 * k - tileBase c)

/-- Whether an UNCORRECTABLE met in local byte runs came from a word in a COPY range, or from a bank. -/
def Part.spanData (p : Part) (c : Nat) (runs : List (Nat × Nat)) : Bool :=
  match p.badLocal c runs with
  | some a => p.copyHas c true a
  | none => runs.any (fun r => (windowOf c r.1 (max 1 r.2)).isSome)

/-- A fault record with the mark of `spanData`. -/
def Part.faultIn (p : Part) (c : Nat) (st : Status) (u : Option EUnit) (runs : List (Nat × Nat)) : FaultRec :=
  { FaultRec.plain st u with inSpanData := st == .uncorrectable && p.spanData c runs }

/-- The word of SEQ_FAULT that describes a fault (R247). -/
def seqFaultWord (u : Option EUnit) (pt : Point) (w : Word) (st : Status) (ill inSpan : Bool) : Word :=
  BitVec.ofNat 64 (2 ^ 63 + opOf w * 2 ^ 40 + unitCode u * 2 ^ 36 + pt.code * 2 ^ 34 + bnat ill * 2 ^ 33 +
    bnat inSpan * 2 ^ 32 + st.code)

/-- SEQ_FAULT and SEQ_FAULT_PC, written when they hold no fault yet (R246, R247). -/
def Part.recordFault (p : Part) (c : Nat) (seq : Word) (pc : Nat) : Part :=
  if p.get Fld.SEQ_FAULT.VALID c = 1 then p
  else (p.wr .SEQ_FAULT c seq).wr .SEQ_FAULT_PC c (BitVec.ofNat 64 pc)

/-- The wait of a core's sequencer on a handle ends with the access. -/
def Part.leaveWait (p : Part) (c : Nat) : Part :=
  let p := match (p.seqWait c).on with
    | some h => p.countWait h (p.seqWait c).since
    | none => p
  p.setSeqWait c SeqWait.reset

/-- An instruction of core `c` faults (R245): dispatch stops, waiting queue entries are discarded, the fault is recorded
and reported, the slot moves to FAULTED, and with an open span the fault waits for the warden's decision. A core
whose slot has already moved reports an event only. -/
def Part.fault (p : Part) (c : Nat) (u : Option EUnit) (pt : Point) (w : Word) (pc : Nat) (ill : Bool) (r : FaultRec) : Part :=
  let st := Status.ofCode r.status
  let x := p.core c
  let s := (x.phase.slot?).getD 0
  let ev := fun (p : Part) => (p.event .fault st (unitWord (dieOf c) c (engByte u)) (s + pc * 2 ^ 16)).trace (dieOf c) 6 1
    (unitWord (dieOf c) c (engByte u)) (payload [(0, 2, st.code), (2, 2, s), (8, 8, pc)])
  let seq := seqFaultWord u pt w st ill x.span.isSome
  let p := p.recordFault c seq pc
  match x.phase with
  | .running s =>
    let p := (p.leaveWait c).setCore c { x with
      phase := .faulted s, hold := .none, q := [], stepping := false,
      fault := if x.span.isSome then some { r with seq := seq, pc := pc } else none }
    let t := p.slot (clusterOf c) s
    ev (p.setSlot (clusterOf c) s { t with st := .faulted, status := st.code, core := c % 8 })
  | _ => ev p

/-- A dispatch fault. -/
def Part.dispatchFault (p : Part) (c : Nat) (w : Word) (pc : Nat) (st : Status) (ill : Bool) : Part :=
  p.fault c none .dispatch w pc ill (FaultRec.plain st none)

/-- Halt a core before its next dispatch (R593, R594): REASON 1 HALT, 2 STEP, 3 BRK, 4 breakpoint register. -/
def Part.halt (p : Part) (c reason : Nat) : Part :=
  let pc := (p.core c).pc
  let p := p.modCore c (fun x => { x with stepping := false, haltReq := false })
  let p := ((p.put Fld.DBG_STATUS.HALTED c 1).put Fld.DBG_STATUS.REASON c reason).put Fld.DBG_STATUS.PC c pc
  p.trace (dieOf c) 8 1 (unitWord (dieOf c) c 0xFF) (payload [(0, 1, reason), (8, 8, pc)])

def Part.isHalted (p : Part) (c : Nat) : Bool := p.get Fld.DBG_STATUS.HALTED c == 1

/-- Whether an enabled breakpoint register names a DVA (R594, R597). -/
def Part.breakAt (p : Part) (c pc : Nat) : Bool :=
  (List.range 4).any (fun k => p.get Fld.DBG_BP.EN (4 * c + k) == 1 && 8 * p.get Fld.DBG_BP.ADDR (4 * c + k) == pc)

end Sys2Proof.Machine
end

