-- ==== Sys2Proof/Machine/Seq.lean ====
section
/-! DEFINITION. The sequencer (R62 to R68, R217 to R229, R238 to R243): fetching and dispatching one instruction, the scalar
and control group, and sending instructions to the engine queues. -/

namespace Sys2Proof.Machine

/-! ### Fetch and dispatch -/

/-- The replay of a decision has reached its item and waits for the comparison (R467). -/
def CoreSt.deciding (x : CoreSt) : Bool :=
  match x.decision with
  | some d => d.got.isSome
  | none => false

/-- Whether the sequencer of core `c` may dispatch now. -/
def Part.canDispatch (p : Part) (c : Nat) : Bool :=
  (match (p.core c).phase with | .running _ => true | _ => false) && (p.core c).hold == .none && !p.isHalted c &&
    !(p.core c).deciding

/-- Fetch the word at the program counter (R218); a wait that ended with a status ends it so (R286). -/
def Part.fetch (p : Part) (c : Nat) : Part × Acc Word :=
  if (p.seqWait c).given ≠ 0 then (p.setSeqWait c SeqWait.reset, .fail (Status.ofCode (p.seqWait c).given))
  else match p.readDva (dieOf c) .fetch (p.core c).pc 8 with
  | (p, .ok l) => (p, .ok (BitVec.ofNat 64 (leNat l)))
  | (p, .fail st) => (p, .fail st)
  | (p, .wait h) => (p, .wait h)

/-- A sequencer breakpoint or a halt asked for stops the core before this dispatch: its REASON (R593, R594). -/
def Part.haltsBefore (p : Part) (c : Nat) (w : Word) : Option Nat :=
  let x := p.core c
  if x.haltReq then some 1
  else if x.passBreak then none
  else if opOf w = 0x1C ∧ p.get Fld.DBG_CTRL.BRK_ARM c = 1 then some 3
  else if p.breakAt c x.pc then some 4
  else none

/-- Tile-store address of LD, ST, TD.LD and TD.ST: RA + IMM (R228). -/
def Part.tsAddr (p : Part) (c : Nat) (w : Word) : Nat := ((p.core c).gr (fB w) + immS w).toNat

/-- The bytes a tile-store instruction names; none for another instruction. -/
def Part.tsRun (p : Part) (c : Nat) (w : Word) : List (Nat × Nat) :=
  let op := opOf w
  if op = 0x0F ∨ op = 0x10 then [(p.tsAddr c w, 8)] else if op = 0x17 ∨ op = 0x18 then [(p.tsAddr c w, 16)] else []

/-- What dispatching an instruction comes to. -/
inductive Disp where
  /-- dispatched: the state with the effect, and the next program counter -/
  | done (p : Part) (pc : Nat)
  /-- begun, and the sequencer is held until it completes -/
  | held (p : Part)
  /-- a dispatch fault; illegal instruction or not -/
  | refuse (st : Status) (ill : Bool)
  /-- an execution fault of a sequencer instruction -/
  | fail (p : Part) (st : Status)
  /-- not yet: the sequencer stalls -/
  | stall

/-- An access of the sequencer of core `c` waits on a handle (R286). -/
def Part.waitOn (p : Part) (c h : Nat) : Part :=
  let x := p.seqWait c
  p.setSeqWait c ⟨some h, if x.on = some h then x.since else p.time.raw, 0⟩

/-- The state after a dispatch took place: the program counter, the dispatch count, and the halt of a step (R593). -/
def Part.dispatched (p : Part) (c pc : Nat) : Part :=
  let p := (p.modCore c (fun x => { x with pc := pc % 2 ^ 48, passBreak := false })).setSeqWait c SeqWait.reset
  if (p.core c).stepping then p.halt c 2 else p

/-- Dispatch the instruction at the program counter of core `c` when its opcode satisfies `is`: fetch it, halt before
it (R594), report a fetch fault or an illegal instruction (R218, R225), else carry out `body`. A command for another
opcode than the one fetched names no event, and the state stays. -/
def Part.dispatch (p : Part) (c : Nat) (is : Nat → Bool) (body : Part → Word → Disp) : Part :=
  if !p.canDispatch c then p
  else
    let pc := (p.core c).pc
    match p.fetch c with
    | (p', .fail st) =>
      if (p.core c).haltReq then p.halt c 1
      else if !(p.core c).passBreak && p.breakAt c pc then p.halt c 4
      else p'.dispatchFault c 0 pc st false
    | (p', .wait h) => p'.waitOn c h
    | (p', .ok w) =>
      if !is (opOf w) then p
      else match p.haltsBefore c w with
        | some r => p.halt c r
        | none =>
          if illegal w then p'.dispatchFault c w pc .unsupported true
          else match body p' w with
            | .done q n => q.dispatched c n
            | .held q => q
            | .refuse st ill => p'.dispatchFault c w pc st ill
            | .fail q st => q.fault c none .execution w pc false (q.faultIn c st none (q.tsRun c w))
            | .stall => p

/-! ### Waits and signals of a sequencer instruction (R67, R68, R459) -/

/-- The wait condition of an ordinary instruction holds. -/
def Part.waitOk (p : Part) (c : Nat) (w : Word) : Bool := !waitEn w || decide (1 ≤ (p.core c).token (waitTok w))

/-- Take the count of the wait. -/
def Part.takeWait (p : Part) (c : Nat) (w : Word) : Part := if waitEn w then p.tokTake c (waitTok w) 1 else p

/-- Hold a signal for the commit of the open span. -/
def Part.holdSig (p : Part) (c : Nat) (h : HeldSig) : Part :=
  p.modCore c (fun x =>
    match x.span with
    | some s => { x with span := some { s with held := s.held ++ [h] } }
    | none => x)

/-- The signal an instruction gives at completion: at once, or held when it was dispatched in the open span and names a
core counter (R68, R459). -/
def Part.signalAt (p : Part) (c : Nat) (w : Word) (order : Nat) (inSpan : Bool) : Part :=
  if !sigEn w then p
  else if inSpan && 32 ≤ sigTok w then p.holdSig c ⟨order, 0xFFFF, c, sigTok w, 1⟩
  else
    let p := p.tokAdd c (sigTok w) 1
    if inSpan then p.noteTok c (sigTok w) 1 else p

/-- Whether an instruction dispatched now lies in an open span. -/
def Part.spanOpen (p : Part) (c : Nat) : Bool := (p.core c).span.isSome

/-- Signals a dispatch promises to the held list: its own signal to a core counter. -/
def heldBy (w : Word) : Nat := if sigEn w && 32 ≤ sigTok w then 1 else 0

/-- The checks of an open span at dispatch (R459): what follows RELAY.SEND is SPAN.COMMIT, and at most 64 signals are
held; `extra` counts signals the instruction holds beside its own. -/
def Part.spanCheck (p : Part) (c : Nat) (w : Word) (extra : Nat) : Option Status :=
  match (p.core c).span with
  | none => none
  | some s =>
    if s.sendSeen ∧ opOf w ≠ 0x75 then some .conflict
    else if 64 < s.heldCount + heldBy w + extra then some .range
    else none

/-- Count the signals promised at a dispatch. -/
def Part.countHeld (p : Part) (c : Nat) (n : Nat) : Part :=
  p.modCore c (fun x =>
    match x.span with
    | some s => { x with span := some { s with heldCount := s.heldCount + n } }
    | none => x)

/-- Take the next dispatch number. -/
def Part.nextOrder (p : Part) (c : Nat) : Part × Nat :=
  (p.modCore c (fun x => { x with order := x.order + 1 }), (p.core c).order)

/-- What a sequencer instruction's own effect comes to. -/
inductive SeqOut where
  | ok (p : Part)
  | jump (p : Part) (pc : Nat)
  | fail (p : Part) (st : Status)
  | held (p : Part)
  | stall

/-- A sequencer instruction of class S: dispatch checks, wait, effect, signal (R67, R68, R226). `check` gives the
dispatch faults of the instruction. -/
def Part.seqOp (p : Part) (c : Nat) (is : Nat → Bool) (check : Part → Word → Option Status)
    (run : Part → Word → Nat → SeqOut) : Part :=
  p.dispatch c is (fun p w =>
    match check p w, p.spanCheck c w 0 with
    | some st, _ => .refuse st false
    | none, some st => .refuse st false
    | none, none =>
      if !p.waitOk c w then .stall
      else
        let pc := (p.core c).pc
        let (p, o) := (p.takeWait c w).nextOrder c
        let p := p.countHeld c (heldBy w)
        match run p w pc with
        | .ok q => .done (q.signalAt c w o (q.spanOpen c)) (pc + 8)
        | .jump q n => .done (q.signalAt c w o (q.spanOpen c)) n
        | .fail q st => .fail q st
        | .held q => .held q
        | .stall => .stall)

/-- No dispatch check. -/
def noCheck : Part → Word → Option Status := fun _ _ => none

/-- Write a scalar register. -/
def Part.setG (p : Part) (c n : Nat) (v : Word) : Part := p.modCore c (fun x => x.setG n v)

/-! ### Operand forms of the scalar group -/

/-- SR form: RD = f RA RB. -/
def Part.scalarRR (p : Part) (c op : Nat) : Part :=
  p.seqOp c (· == op) noCheck (fun p w _ =>
    .ok (p.setG c (fA w) (aluRR op ((p.core c).gr (fB w)) ((p.core c).gr (fC w)))))

/-- SI form: RD = f RA IMM. -/
def Part.scalarRI (p : Part) (c op : Nat) : Part :=
  p.seqOp c (· == op) noCheck (fun p w _ => .ok (p.setG c (fA w) (aluRI op ((p.core c).gr (fB w)) w)))

/-- SB form: a conditional branch. -/
def Part.scalarBranch (p : Part) (c op : Nat) : Part :=
  p.seqOp c (· == op) noCheck (fun p w pc =>
    if taken op ((p.core c).gr (fA w)) ((p.core c).gr (fB w)) then .jump p (branchTo pc (signed 32 (immOf w))) else .ok p)

/-- Whether an access of `n` bytes is aligned and lies in the data region or one window (R229). -/
def tsOk (a n : Nat) : Bool := a % n == 0 && (inData a n || (windowOf 0 a n).isSome)

/-- The effect of LD, ST, TD.LD or TD.ST once its wait is taken; `wait` where a bank window must wait (R116, R229). A
paired follower's tile store takes the same writes (R444). -/
def Part.tsAccess (p : Part) (c : Nat) (w : Word) : SeqOut :=
  let a := p.tsAddr c w
  let op := opOf w
  let n := if op = 0x0F ∨ op = 0x10 then 8 else 16
  if !tsOk a n then .fail p .range
  else if op = 0x0F ∨ op = 0x17 then
    match p.readLocal c a n with
    | (p, .ok l) =>
      if op = 0x0F then .ok (p.setG c (fA w) (BitVec.ofNat 64 (leNat l)))
      else .ok (p.modCore c (fun x => x.setTd (fA w) (BitVec.ofNat 128 (leNat l))))
    | (p, .fail st) => .fail p st
    | (p, .wait _) => .held (p.modCore c (fun x => { x with hold := .window w }))
  else
    let data := if op = 0x10 then leBytes 8 ((p.core c).gr (fA w)).toNat else leBytes 16 ((p.core c).tdr (fA w)).toNat
    match p.writeLocal c a data with
    | (p, .ok _) =>
      match p.follower c with
      | some f => .ok (p.writeLocal f a data).1
      | none => .ok p
    | (p, .fail st) => .fail p st
    | (p, .wait _) => .held (p.modCore c (fun x => { x with hold := .window w }))

def Part.tsOp (p : Part) (c op : Nat) : Part := p.seqOp c (· == op) noCheck (fun p w _ => p.tsAccess c w)

/-- Complete a sequencer access that waited for a bank window, once the bank allows it (R116). -/
def Part.retryWindow (p : Part) (c : Nat) : Part :=
  match (p.core c).hold with
  | .window w =>
    let pc := (p.core c).pc
    let q := p.modCore c (fun x => { x with hold := .none })
    match q.tsAccess c w with
    | .ok r => (r.signalAt c w ((r.core c).order - 1) (r.spanOpen c)).dispatched c (pc + 8)
    | .fail r st => r.fault c none .execution w pc false (r.faultIn c st none (r.tsRun c w))
    | _ => p
  | _ => p

/-! ### Chain width and usable engines (R192, R194, R197) -/

/-- Usable engines of a cluster, by local number (core x 2 + engine). -/
def Part.usable (p : Part) (k : Nat) : List Nat :=
  (List.range 16).filter (fun i => p.meUsable (8 * k + i / 2) (i % 2))

def Part.chainWidth (p : Part) (k : Nat) : Nat :=
  let n := (p.usable k).length
  if n < 14 then n else if p.get Fld.RELAY_CTRL.PORTABLE k = 1 then 14 else n

/-- The local engine at a chain position (R192). -/
def Part.chainAt (p : Part) (k m : Nat) : Option Nat :=
  if m < p.chainWidth k then (p.usable k)[m]? else none

/-- The chain position of global engine `e` in its cluster (R192). -/
def Part.positionOf (p : Part) (e : Nat) : Option Nat :=
  (List.range (p.chainWidth (e / 16))).find? (fun m => p.chainAt (e / 16) m == some (e % 16))

/-- The clusters of this part that hold a named engine of a relay instruction of core `c`, and whether its partner lies in
this part. -/
def Part.relayClusters (p : Part) (c : Nat) (e : QEntry) : List Nat × Bool :=
  let k := clusterOf c
  let g := (e.gs.getD 0 0).toNat
  if pmodeOf e.word ≠ 2 then ([k], true)
  else if p.isSelf (bits g 15 0) then ([k, 8 * bits g 17 16 + bits g 20 18], true) else ([k], false)

/-- Relay transfers of a cluster in flight (R197, R599): every SEND, and every RECV that stands alone. -/
def Part.relayFlight (p : Part) (k : Nat) : Nat :=
  (p.cores.flatMap (fun x => (x.2.flying .me0 ++ x.2.flying .me1).filter (fun f =>
    let r := p.relayClusters x.1 f.e
    (opOf f.e.word == 0x33 || (opOf f.e.word == 0x34 && (f.st == .relayWait || !r.2))) && r.1.contains k))).length

/-- RELAY_STATUS of a cluster (R197). -/
def Part.relayStatus (p : Part) (k : Nat) : Word :=
  BitVec.ofNat 64 (p.get Fld.RELAY_STATUS.TIMEOUT_COUNT k * 2 ^ 48 + min (p.relayFlight k) 255 * 2 ^ 32 +
    bnat (decide ((p.usable k).length < 14)) * 2 ^ 21 + p.chainWidth k * 2 ^ 16 +
    (p.usable k).foldl (fun m i => m + 2 ^ i) 0)

/-! ### Control registers (R223) -/

/-- Read a control register; none for a number not in the table. -/
def Part.crRead (p : Part) (c n : Nat) : Option Word :=
  let x := p.core c
  match n with
  | 0x000 => some (BitVec.ofNat 64 (p.get Fld.DIE_IDENT.SITE (dieOf c) * 2 ^ 16 + clusterOf c * 2 ^ 8 + c))
  | 0x001 => some (BitVec.ofNat 64 (bnat p.jobValid * 2 ^ 16 + p.get Fld.FAB_NODE.NODE 0))
  | 0x002 => some x.seed
  | 0x003 => some (BitVec.ofNat 64 x.step)
  | 0x004 => some (BitVec.ofNat 64 (bnat x.deny))
  | 0x005 => some (BitVec.ofNat 64 (p.rawOn (dieOf c)))
  | 0x006 => some (BitVec.ofNat 64 (p.jobTimeOn (dieOf c)))
  | 0x007 => some (p.relayStatus (clusterOf c))
  | 0x008 => some (match x.span with
    | some s => BitVec.ofNat 64 (2 * s.replays + 1)
    | none => 0)
  | _ => none

/-- Write a control register that may be written. -/
def CoreSt.crWrite (x : CoreSt) (n : Nat) (v : Word) : CoreSt :=
  match n with
  | 0x002 => { x with seed := v }
  | 0x003 => { x with step := v.toNat % 2 ^ 32 }
  | 0x004 => { x with deny := bit v.toNat 0 }
  | _ => x

def crNum (w : Word) : Nat := bits w.toNat 11 0

def Part.crRdOp (p : Part) (c : Nat) : Part :=
  p.seqOp c (· == 0x1A) (fun p w => if (p.crRead c (crNum w)).isNone then some .range else none)
    (fun p w _ => .ok (p.setG c (fA w) ((p.crRead c (crNum w)).getD 0)))

/-- CR.WR. Bits that a register does not hold are ignored: SR_STEP [63:32] (R223) and EXEC_MODE [63:1] (log entry 16). -/
def Part.crWrOp (p : Part) (c : Nat) : Part :=
  p.seqOp c (· == 0x1B)
    (fun _ w => if crNum w = 2 ∨ crNum w = 3 ∨ crNum w = 4 then none else some .range)
    (fun p w _ => .ok (p.modCore c (fun x => x.crWrite (crNum w) (x.gr (fB w)))))

/-! ### Queued instructions (R62, R63, R222) -/

/-- The instruction as its queue holds it: word, DVA and captured operands. -/
def Part.capture (p : Part) (c : Nat) (w : Word) (tds gs : List Nat) (order event : Nat) : QEntry :=
  let x := p.core c
  ⟨w, x.pc, tds.map x.tdr, gs.map x.gr, x.seed, x.step, order, event, x.span.isSome, 0, false⟩

/-- Note that the open span has dispatched its RELAY.SEND (R459). -/
def Part.markSend (p : Part) (c : Nat) : Part :=
  p.modCore c (fun x => match x.span with
    | some s => { x with span := some { s with sendSeen := true } }
    | none => x)

/-- Whether a DVA names HBM, as far as its translation shows now (R438). -/
def Part.dvaIsHbm (p : Part) (d dva : Nat) : Bool :=
  match (p.walk d .moverRd dva).2 with
  | .leaf l => decide (entryAddr l.entry < 0xC0_0000_0000)
  | .touch _ => true
  | .fail _ | .held => false

def neverDigested : Part → Word → Bool := fun _ _ => false

/-- Send an instruction to a queue, or stall while the queue is full; `check` gives its dispatch faults, `extra` the
signals it holds beside its own in a span, `digested` whether it is an event of tandem mode (R438). -/
def Part.queueOp (p : Part) (c op : Nat) (unit : Word → EUnit) (tds gs : Word → List Nat) (digested : Part → Word → Bool)
    (check : Part → Word → Option Status) (extra : Part → Word → Nat) (fix : Part → Word → QEntry → QEntry) : Part :=
  p.dispatch c (· == op) (fun p w =>
    match check p w, p.spanCheck c w (extra p w) with
    | some st, _ => .refuse st false
    | none, some st => .refuse st false
    | none, none =>
      let u := unit w
      if unitDepth u ≤ ((p.core c).queue u).length then .stall
      else
        let pc := (p.core c).pc
        let e := fix p w (p.capture c w (tds w) (gs w) (p.core c).order (p.core c).event)
        let dig := digested p w
        let p := p.countHeld c (heldBy w + extra p w)
        let p := p.modCore c (fun x => { (x.setQueue u (x.queue u ++ [e])) with
          order := x.order + 1, event := if dig then x.event + 1 else x.event })
        .done (if op = 0x33 then p.markSend c else p) (pc + 8))

def meOf (w : Word) : EUnit := if engOf w = 0 then .me0 else .me1
def noExtra : Part → Word → Nat := fun _ _ => 0
def asIs : Part → Word → QEntry → QEntry := fun _ _ e => e

/-- G_SR = 31 with ROUND = SR is a dispatch fault (R224). -/
def srCheck (conv gsr : Nat) : Option Status := if roundOf conv = roundSR ∧ gsr = 31 then some .range else none

/-- Registers of a G_SR pair, read only when ROUND is SR (R224). -/
def srRegs (conv gsr : Nat) : List Nat := if roundOf conv = roundSR then [gsr, gsr + 1] else []

/-- An MTX instruction (R230). -/
def Part.mtxOp (p : Part) (c op : Nat) : Part :=
  p.queueOp c op meOf (fun w => [tdA w, tdB w]) (fun _ => []) neverDigested noCheck noExtra asIs

/-- A vector instruction: its descriptors and scalars are those its sources name (R234). Captured scalars are, in order,
sources A, B, C, the status address and the G_SR pair. -/
def Part.vecOp (p : Part) (c op : Nat) : Part :=
  p.queueOp c op (fun _ => .ve) (fun w => [fA w, fB w, fC w, srcC w])
    (fun w => [fB w, fC w, srcC w, vGStat w] ++ (if op = 0x53 then [] else srRegs (vConv w) (vGSr w))) neverDigested
    (fun _ w => if op = 0x53 then none else srCheck (vConv w) (vGSr w)) noExtra asIs

/-! ### Meanings: the scalar and control group -/

/-- NOP, and every unassigned opcode, which is an illegal instruction (R225, R228). -/
def execNop (c : Fin 256) (s : State) : Host.Outcome State Fault Refusal :=
  s.runReady (fun p => p.seqOp c (fun op => op == 0 || (reservedBits (BitVec.ofNat 64 (op * 2 ^ 56))).isNone) noCheck
    (fun p _ _ => .ok p))

def execAdd (c : Fin 256) (s : State) : Host.Outcome State Fault Refusal := s.runReady (fun p => p.scalarRR c 0x01)
def execSub (c : Fin 256) (s : State) : Host.Outcome State Fault Refusal := s.runReady (fun p => p.scalarRR c 0x02)
def execAnd (c : Fin 256) (s : State) : Host.Outcome State Fault Refusal := s.runReady (fun p => p.scalarRR c 0x03)
def execOr (c : Fin 256) (s : State) : Host.Outcome State Fault Refusal := s.runReady (fun p => p.scalarRR c 0x04)
def execXor (c : Fin 256) (s : State) : Host.Outcome State Fault Refusal := s.runReady (fun p => p.scalarRR c 0x05)
def execShl (c : Fin 256) (s : State) : Host.Outcome State Fault Refusal := s.runReady (fun p => p.scalarRR c 0x06)
def execShr (c : Fin 256) (s : State) : Host.Outcome State Fault Refusal := s.runReady (fun p => p.scalarRR c 0x07)
def execSra (c : Fin 256) (s : State) : Host.Outcome State Fault Refusal := s.runReady (fun p => p.scalarRR c 0x08)
def execMul (c : Fin 256) (s : State) : Host.Outcome State Fault Refusal := s.runReady (fun p => p.scalarRR c 0x09)
def execSlt (c : Fin 256) (s : State) : Host.Outcome State Fault Refusal := s.runReady (fun p => p.scalarRR c 0x0A)
def execSltu (c : Fin 256) (s : State) : Host.Outcome State Fault Refusal := s.runReady (fun p => p.scalarRR c 0x0B)
def execAddi (c : Fin 256) (s : State) : Host.Outcome State Fault Refusal := s.runReady (fun p => p.scalarRI c 0x0C)
def execOri (c : Fin 256) (s : State) : Host.Outcome State Fault Refusal := s.runReady (fun p => p.scalarRI c 0x0D)
def execLih (c : Fin 256) (s : State) : Host.Outcome State Fault Refusal := s.runReady (fun p => p.scalarRI c 0x0E)
def execLd (c : Fin 256) (s : State) : Host.Outcome State Fault Refusal := s.runReady (fun p => p.tsOp c 0x0F)
def execSt (c : Fin 256) (s : State) : Host.Outcome State Fault Refusal := s.runReady (fun p => p.tsOp c 0x10)
def execBeq (c : Fin 256) (s : State) : Host.Outcome State Fault Refusal := s.runReady (fun p => p.scalarBranch c 0x11)
def execBne (c : Fin 256) (s : State) : Host.Outcome State Fault Refusal := s.runReady (fun p => p.scalarBranch c 0x12)
def execBlt (c : Fin 256) (s : State) : Host.Outcome State Fault Refusal := s.runReady (fun p => p.scalarBranch c 0x13)
def execBge (c : Fin 256) (s : State) : Host.Outcome State Fault Refusal := s.runReady (fun p => p.scalarBranch c 0x14)

def execJal (c : Fin 256) (s : State) : Host.Outcome State Fault Refusal :=
  s.runReady (fun p => p.seqOp c (· == 0x15) noCheck (fun p w pc =>
    .jump (p.setG c (fA w) (BitVec.ofNat 64 ((pc + 8) % 2 ^ 48))) (branchTo pc (signed 32 (immOf w)))))

/-- JR: a target whose bits [2:0] are not 0 is a dispatch fault with RANGE (R229). -/
def execJr (c : Fin 256) (s : State) : Host.Outcome State Fault Refusal :=
  s.runReady (fun p => p.seqOp c (· == 0x16)
    (fun p w => if ((p.core c).gr (fB w)).toNat % 8 = 0 then none else some .range)
    (fun p w _ => .jump p ((p.core c).gr (fB w)).toNat))

def execTdLd (c : Fin 256) (s : State) : Host.Outcome State Fault Refusal := s.runReady (fun p => p.tsOp c 0x17)
def execTdSt (c : Fin 256) (s : State) : Host.Outcome State Fault Refusal := s.runReady (fun p => p.tsOp c 0x18)

def execTdAdv (c : Fin 256) (s : State) : Host.Outcome State Fault Refusal :=
  s.runReady (fun p => p.seqOp c (· == 0x19) noCheck (fun p w _ =>
    .ok (p.modCore c (fun x => x.setTd (fA w) (tdAdvance (x.tdr (fA w)) (x.gr (fB w) + immS w).toNat)))))

def execCrRd (c : Fin 256) (s : State) : Host.Outcome State Fault Refusal := s.runReady (fun p => p.crRdOp c)
def execCrWr (c : Fin 256) (s : State) : Host.Outcome State Fault Refusal := s.runReady (fun p => p.crWrOp c)

/-- BRK: with breakpoints armed the core halts before it (R594), else as NOP. -/
def execBrk (c : Fin 256) (s : State) : Host.Outcome State Fault Refusal :=
  s.runReady (fun p => p.seqOp c (· == 0x1C) noCheck (fun p _ _ => .ok p))

/-! ### Meanings: matrix and vector instructions enter their queues -/

def execMtxMac (c : Fin 256) (s : State) : Host.Outcome State Fault Refusal := s.runReady (fun p => p.mtxOp c 0x20)
def execMtxL1 (c : Fin 256) (s : State) : Host.Outcome State Fault Refusal := s.runReady (fun p => p.mtxOp c 0x21)
def execMtxL2s (c : Fin 256) (s : State) : Host.Outcome State Fault Refusal := s.runReady (fun p => p.mtxOp c 0x22)
def execMtxMinp (c : Fin 256) (s : State) : Host.Outcome State Fault Refusal := s.runReady (fun p => p.mtxOp c 0x23)
def execMtxMaxp (c : Fin 256) (s : State) : Host.Outcome State Fault Refusal := s.runReady (fun p => p.mtxOp c 0x24)
def execMtxEqc (c : Fin 256) (s : State) : Host.Outcome State Fault Refusal := s.runReady (fun p => p.mtxOp c 0x25)
def execMtxGtc (c : Fin 256) (s : State) : Host.Outcome State Fault Refusal := s.runReady (fun p => p.mtxOp c 0x26)

def execAccClr (c : Fin 256) (s : State) : Host.Outcome State Fault Refusal :=
  s.runReady (fun p => p.queueOp c 0x30 meOf (fun _ => []) (fun _ => []) neverDigested noCheck noExtra asIs)

def execAccLd (c : Fin 256) (s : State) : Host.Outcome State Fault Refusal :=
  s.runReady (fun p => p.queueOp c 0x31 meOf (fun w => [tdA w]) (fun _ => []) neverDigested noCheck noExtra asIs)

/-- ACC.DRAIN reads td[TD_O], td[TD_C], g[G_STAT] and the G_SR pair at dispatch (R222, R232). -/
def execAccDrain (c : Fin 256) (s : State) : Host.Outcome State Fault Refusal :=
  s.runReady (fun p => p.queueOp c 0x32 meOf (fun w => [tdA w, acTdC w])
    (fun w => acStat w :: srRegs (acConv w) (acSr w)) (fun _ _ => true) (fun _ w => srCheck (acConv w) (acSr w)) noExtra asIs)

/-- The relay partner an instruction names, resolved at dispatch where it lies in the own cluster (R192, R233): the
captured entry holds its local engine number there, or marks a position at or above CHAIN_WIDTH. -/
def Part.resolvePartner (p : Part) (c : Nat) (w : Word) (e : QEntry) : QEntry :=
  let k := clusterOf c
  let g := ((p.core c).gr (gPart w)).toNat
  let own := pmodeOf w = 2 ∧ p.isSelf (bits g 15 0) ∧ 8 * bits g 17 16 + bits g 20 18 = k
  if pmodeOf w = 0 then { e with partner := partnerOf w }
  else if pmodeOf w = 1 ∨ (own ∧ bit g 25) then
    let m := if pmodeOf w = 1 then partnerOf w else bits g 24 21
    match p.chainAt k m with
    | some i => { e with partner := i }
    | none => { e with partner := m, badPos := true }
  else { e with partner := bits g 24 21 }

/-- RELAY.SEND: in an open span it is the last instruction before SPAN.COMMIT (R459). -/
def execRelaySend (c : Fin 256) (s : State) : Host.Outcome State Fault Refusal :=
  s.runReady (fun p => p.queueOp c 0x33 meOf (fun _ => []) (fun w => [gPart w]) neverDigested noCheck noExtra
    (fun p w e => p.resolvePartner c w e))

/-- RELAY.RECV: a dispatch fault with CONFLICT in an open span (R459). -/
def execRelayRecv (c : Fin 256) (s : State) : Host.Outcome State Fault Refusal :=
  s.runReady (fun p => p.queueOp c 0x34 meOf (fun _ => []) (fun w => [gPart w]) neverDigested
    (fun p _ => if p.spanOpen c then some .conflict else none) noExtra (fun p w e => p.resolvePartner c w e))

def execVAdd (c : Fin 256) (s : State) : Host.Outcome State Fault Refusal := s.runReady (fun p => p.vecOp c 0x40)
def execVSub (c : Fin 256) (s : State) : Host.Outcome State Fault Refusal := s.runReady (fun p => p.vecOp c 0x41)
def execVMul (c : Fin 256) (s : State) : Host.Outcome State Fault Refusal := s.runReady (fun p => p.vecOp c 0x42)
def execVFma (c : Fin 256) (s : State) : Host.Outcome State Fault Refusal := s.runReady (fun p => p.vecOp c 0x43)
def execVAbs (c : Fin 256) (s : State) : Host.Outcome State Fault Refusal := s.runReady (fun p => p.vecOp c 0x44)
def execVNeg (c : Fin 256) (s : State) : Host.Outcome State Fault Refusal := s.runReady (fun p => p.vecOp c 0x45)
def execVMin (c : Fin 256) (s : State) : Host.Outcome State Fault Refusal := s.runReady (fun p => p.vecOp c 0x46)
def execVMax (c : Fin 256) (s : State) : Host.Outcome State Fault Refusal := s.runReady (fun p => p.vecOp c 0x47)
def execVCmp (c : Fin 256) (s : State) : Host.Outcome State Fault Refusal := s.runReady (fun p => p.vecOp c 0x48)
def execVSel (c : Fin 256) (s : State) : Host.Outcome State Fault Refusal := s.runReady (fun p => p.vecOp c 0x49)
def execVCvt (c : Fin 256) (s : State) : Host.Outcome State Fault Refusal := s.runReady (fun p => p.vecOp c 0x4A)
def execVRsum (c : Fin 256) (s : State) : Host.Outcome State Fault Refusal := s.runReady (fun p => p.vecOp c 0x50)
def execVRmax (c : Fin 256) (s : State) : Host.Outcome State Fault Refusal := s.runReady (fun p => p.vecOp c 0x51)
def execVRmin (c : Fin 256) (s : State) : Host.Outcome State Fault Refusal := s.runReady (fun p => p.vecOp c 0x52)
def execVAmax (c : Fin 256) (s : State) : Host.Outcome State Fault Refusal := s.runReady (fun p => p.vecOp c 0x53)
def execVExp2 (c : Fin 256) (s : State) : Host.Outcome State Fault Refusal := s.runReady (fun p => p.vecOp c 0x58)
def execVLog2 (c : Fin 256) (s : State) : Host.Outcome State Fault Refusal := s.runReady (fun p => p.vecOp c 0x59)
def execVRcp (c : Fin 256) (s : State) : Host.Outcome State Fault Refusal := s.runReady (fun p => p.vecOp c 0x5A)
def execVRsqrt (c : Fin 256) (s : State) : Host.Outcome State Fault Refusal := s.runReady (fun p => p.vecOp c 0x5B)
def execVSin (c : Fin 256) (s : State) : Host.Outcome State Fault Refusal := s.runReady (fun p => p.vecOp c 0x5C)
def execVCos (c : Fin 256) (s : State) : Host.Outcome State Fault Refusal := s.runReady (fun p => p.vecOp c 0x5D)

/-! ### Meanings: mover and pager instructions enter the mover queue -/

def toMover : Word → EUnit := fun _ => .mover

/-- Whether the completion token of the descriptor that MOV.D names would be held by an open span (R459). -/
def Part.movHeld (p : Part) (c : Nat) (w : Word) : Nat :=
  let a := ((p.core c).gr (fA w)).toNat
  let v := fieldAt (p.bytes (tileBase c + a) 128) 0x58 8
  if bit v 63 ∧ ¬ (bits v 29 22 = c ∧ bits v 21 16 < 32) then 1 else 0

/-- Whether the destination of the descriptor that MOV.D names is HBM of any part (R438). -/
def Part.movDigested (p : Part) (c : Nat) (w : Word) : Bool :=
  let l := p.bytes (tileBase c + ((p.core c).gr (fA w)).toNat) 128
  !bit (fieldAt l 0x25 1) 1 && (!p.isSelf (fieldAt l 0x0E 2) || p.dvaIsHbm (dieOf c) (fieldAt l 0x08 6))

def execMovD (c : Fin 256) (s : State) : Host.Outcome State Fault Refusal :=
  s.runReady (fun p => p.queueOp c 0x60 toMover (fun _ => []) (fun w => [fA w]) (fun p w => p.movDigested c w)
    noCheck (fun p w => p.movHeld c w) asIs)

/-- MOV.FADD and MOV.IADD: OP2 = 31, an open span, and for MOV.FADD DENY_ORDER_DEP or FORCE_DENY_ORDER_DEP, refuse
it at dispatch (R236, R437). -/
def Part.atomicCheck (p : Part) (c : Nat) (w : Word) : Option Status :=
  if fB w = 31 then some .range
  else if p.spanOpen c then some .conflict
  else if opOf w = 0x61 ∧ ((p.core c).deny ∨ p.get Fld.REPRO_CTRL.FORCE_DENY_ORDER_DEP 0 = 1) then some .unsupported
  else none

def Part.atomicOp (p : Part) (c op : Nat) : Part :=
  p.queueOp c op toMover (fun w => [fA w]) (fun w => [fB w, fB w + 1])
    (fun p w => p.dvaIsHbm (dieOf c) ((p.core c).gr (fB w)).toNat) (fun p w => p.atomicCheck c w) noExtra asIs

def execMovFadd (c : Fin 256) (s : State) : Host.Outcome State Fault Refusal := s.runReady (fun p => p.atomicOp c 0x61)
def execMovIadd (c : Fin 256) (s : State) : Host.Outcome State Fault Refusal := s.runReady (fun p => p.atomicOp c 0x62)

/-- PG.* instructions read g[G_ARG] and g[G_RES] (R237). -/
def Part.pgOp (p : Part) (c op : Nat) : Part :=
  p.queueOp c op toMover (fun _ => []) (fun w => [fA w, fB w]) neverDigested noCheck noExtra asIs

def execPgAlloc (c : Fin 256) (s : State) : Host.Outcome State Fault Refusal := s.runReady (fun p => p.pgOp c 0x68)
def execPgFree (c : Fin 256) (s : State) : Host.Outcome State Fault Refusal := s.runReady (fun p => p.pgOp c 0x69)
def execPgOffload (c : Fin 256) (s : State) : Host.Outcome State Fault Refusal := s.runReady (fun p => p.pgOp c 0x6A)
def execPgPrefetch (c : Fin 256) (s : State) : Host.Outcome State Fault Refusal := s.runReady (fun p => p.pgOp c 0x6B)
def execPgPin (c : Fin 256) (s : State) : Host.Outcome State Fault Refusal := s.runReady (fun p => p.pgOp c 0x6C)

/-- WARM goes to the queue of the engine it names (R243). -/
def execWarm (c : Fin 256) (s : State) : Host.Outcome State Fault Refusal :=
  s.runReady (fun p => p.queueOp c 0x77 meOf (fun _ => []) (fun _ => []) neverDigested noCheck noExtra asIs)

/-! ### Meanings: waits, fences and launch -/

/-- WAIT takes COUNT from its counter once it holds that many (R67, R238). -/
def execWait (c : Fin 256) (s : State) : Host.Outcome State Fault Refusal :=
  s.runReady (fun p => p.dispatch c (· == 0x70) (fun p w =>
    if !waitEn w || countOf w == 0 then .refuse .range false
    else match p.spanCheck c w 0 with
      | some st => .refuse st false
      | none =>
        if (p.core c).token (waitTok w) < countOf w then .stall
        else
          let pc := (p.core c).pc
          let (p, o) := (p.tokTake c (waitTok w) (countOf w)).nextOrder c
          let p := p.countHeld c (heldBy w)
          .done (p.signalAt c w o (p.spanOpen c)) (pc + 8)))

/-- Advance the remote epoch of a die; the step to 0 invalidates every remote line (R258). -/
def Part.stepEpoch (p : Part) (d : Nat) : Part :=
  let e := (p.get Fld.MEM_STATUS.REMOTE_EPOCH d + 1) % 2 ^ 16
  let p := p.put Fld.MEM_STATUS.REMOTE_EPOCH d e
  if e = 0 then p.modDie d (fun x => { x with rlines := [] }) else p

def execFenceAcq (c : Fin 256) (s : State) : Host.Outcome State Fault Refusal :=
  s.runReady (fun p => p.seqOp c (· == 0x72) noCheck (fun p _ _ => .ok (p.stepEpoch (dieOf c))))

/-- Mover instructions a FENCE.REL waits for (R240). -/
def isMove (e : QEntry) : Bool := opOf e.word == 0x60 || opOf e.word == 0x61 || opOf e.word == 0x62

def CoreSt.movesPending (x : CoreSt) : Bool :=
  (x.queue .mover).any isMove || (x.flying .mover).any (fun f => isMove f.e)

def execFenceRel (c : Fin 256) (s : State) : Host.Outcome State Fault Refusal :=
  s.runReady (fun p => p.seqOp c (· == 0x73) noCheck (fun p _ _ => if (p.core c).movesPending then .stall else .ok p))

/-- LAUNCH.AT: at once when job time has passed, else the sequencer is held (R242, R431). -/
def execLaunchAt (c : Fin 256) (s : State) : Host.Outcome State Fault Refusal :=
  s.runReady (fun p => p.seqOp c (· == 0x78) (fun p _ => if p.jobValid then none else some .unsupported)
    (fun p w _ =>
      let t := ((p.core c).gr (fA w)).toNat
      if t ≤ p.jobTimeOn (dieOf c) then .ok p else .held (p.modCore c (fun x => { x with hold := .launch w t }))))

/-- Raw meridian moments still to pass until job time reaches `t`; job time runs with the offset in force. -/
def Part.reachJob (p : Part) (t : Nat) : Part :=
  if t ≤ p.jobTime then p else
    let p := p.advanceTo (p.time.raw + (t - p.jobTime))
    if t ≤ p.jobTime then p else p.advanceTo (p.time.raw + (t - p.jobTime) + (t - p.jobTime) / 500 + 2)

/-- Job time reaches the value a waiting LAUNCH.AT holds, and the instruction completes (R242, log entry 7). -/
def execJobTimeReached (c : Fin 256) (s : State) : Host.Outcome State Fault Refusal :=
  s.runReady (fun p =>
    match (p.core c).hold with
    | .launch w t =>
      if p.jobValid then
        let p := p.reachJob t
        let p := if t ≤ p.jobTimeOn (dieOf c) then p else p.advanceTo (p.time.raw + 2)
        let p := p.modCore c (fun x => { x with hold := .none })
        (p.signalAt c w ((p.core c).order - 1) (p.spanOpen c)).dispatched c ((p.core c).pc + 8)
      else p
    | _ => p)

end Sys2Proof.Machine
end

