-- ==== Sys2Proof/Machine/Pager.lean ====
section
/-! DEFINITION. The pager (R280 to R286): issuing PG.* instructions, completing their record, the end of offloads and
prefetches, and the limit on waiting accesses. -/

namespace Sys2Proof.Machine

/-! ### PG.* at issue (R237, R281 to R283) -/

def pgArg (e : QEntry) : Nat := (e.gs.getD 0 0).toNat
def pgRes (e : QEntry) : Nat := (e.gs.getD 1 0).toNat

/-- The handle a PG.* instruction names; PG.ALLOC names none. -/
def pgNames (e : QEntry) : Option Nat := if opOf e.word = 0x68 then none else some (pgArg e % 65536)

def isPg (e : QEntry) : Bool := 0x68 ≤ opOf e.word && opOf e.word ≤ 0x6C

/-- An earlier PG.* on the same handle is still in flight (R283). -/
def Part.pgHolds (p : Part) (e : QEntry) : Bool :=
  match pgNames e with
  | none => false
  | some h => p.cores.any (fun x => (x.2.flying .mover).any (fun f => isPg f.e && pgNames f.e == some h))

/-- Free a handle: its entries are cleared on all dies, its frames and chunks return (R282). STALL_US stays until the next
allocation (R299). -/
def Part.releaseHandle (p : Part) (h : Nat) : Part :=
  let d := h / 16384
  let x := p.handle h
  let p := p.writeEntries d h x false false
  let p := p.dropLeaves x.dva (x.pages * pageBytes)
  let p := p.setHandle h { Handle.reset with stall := x.stall, stalledTo := x.stalledTo }
  p.runJobs d ((p.die d).pgWait.length + 1)

/-- The outcome of a PG.* on a handle of R282: the state of its instruction, after the change it makes. The instruction is
already in flight under its dispatch number. -/
def Part.pgHandle (p : Part) (c order op h : Nat) (unpin : Bool) : Part :=
  let x := p.handle h
  let done := fun (p : Part) (st : Status) => p.setPg c order (.pgDone st.code h 0)
  match op, x.st with
  | _, .free => done p .range
  | 0x69, .resident | 0x69, .offloaded | 0x69, .lost => done (p.releaseHandle h) .ok
  | 0x69, _ => done p .busy
  | 0x6A, .resident =>
    if x.pinned || !x.offloadable then done p .conflict
    else if p.passPins x then done p .busy
    else match p.startOffload h with
      | (p, true) => p.setPg c order (.pgRun h)
      | (p, false) => done p .reserveExhausted
  | 0x6A, .offloaded => done p .ok
  | 0x6A, .lost => done p .uncorrectable
  | 0x6A, _ => done p .busy
  | 0x6B, .resident => done p .ok
  | 0x6B, .offloaded => (p.setPg c order .pgWait).pagerJob (h / 16384) (.prefetch (some (c, order)) h false)
  | 0x6B, .lost => done p .uncorrectable
  | 0x6B, _ => done p .busy
  | _, st =>
    if unpin then done (p.setHandle h { x with pinned := false }) .ok
    else match st with
      | .resident => done (p.setHandle h { x with pinned := true }) .ok
      | .offloaded => (p.setPg c order .pgWait).pagerJob (h / 16384) (.prefetch (some (c, order)) h true)
      | .lost => done p .uncorrectable
      | _ => done p .busy

/-- PG.ALLOC in the order of R281. -/
def Part.pgAlloc (p : Part) (c order size flags : Nat) : Part :=
  let d := dieOf c
  let done := fun (st : Status) => p.setPg c order (.pgDone st.code 0 0)
  let pages := ceilDiv size pageBytes
  if p.get Fld.PAGER_ARENA.ENABLE d = 0 then done .unsupported
  else if size = 0 ∨ p.get Fld.PAGER_ARENA.SIZE_GIB d * 2 ^ 30 < size then done .range
  else if bit flags 0 ∧ bit flags 1 then done .conflict
  else if (p.freeHandle d).isNone ∨ (p.freeRange d pages).isNone then done .busy
  else (p.setPg c order .pgWait).pagerJob d (.alloc c order pages flags)

/-- A PG.* instruction of core `c`, already in flight, is carried out. An open span refuses PG.ALLOC and PG.FREE with
CONFLICT in the record (R459); reserved bits of G_ARG are RANGE. -/
def Part.pgStart (p : Part) (c : Nat) (e : QEntry) : Part :=
  let op := opOf e.word
  let bad := fun (st : Status) => p.setPg c e.order (.pgDone st.code (pgArg e % 65536) 0)
  if e.inSpan && (op == 0x68 || op == 0x69) then bad .conflict
  else if op = 0x68 then p.pgAlloc c e.order (pgArg e) (pgFlags e.word)
  else if 65536 ≤ pgArg e then bad .range
  else p.pgHandle c e.order op (pgArg e) (bit (pgFlags e.word) 0)

/-- The result address must be 16-byte aligned and in the data region (R237). -/
def pgCheck (e : QEntry) : Option Status := if pgRes e % 16 = 0 ∧ inData (pgRes e) 16 then none else some .range

/-- The result record (R237). -/
def pgRecord (status h dva : Nat) : List Byte := leBytes 2 status ++ leBytes 2 h ++ [0, 0, 0, 0] ++ leBytes 8 dva

/-! ### Copies end (R282, R283) -/

/-- Mark the PG.* instructions on handle `h` in flight as decided, when `is` holds of their opcode. -/
def Part.pgFinish (p : Part) (h : Nat) (is : Nat → Bool) (st : Status) : Part :=
  let upd := fun (f : Fly) => if f.st = .pgRun h ∧ is (opOf f.e.word) then { f with st := .pgDone st.code h 0 } else f
  { p with cores := p.cores.map (fun x => (x.1, x.2.setFlying .mover ((x.2.flying .mover).map upd))) }

/-- Serve what can be served of the requests of a die that wait for frames. -/
def Part.serveJobs (p : Part) (d : Nat) : Part := p.runJobs d ((p.die d).pgWait.length + 1)

/-- An offload that fails at a block counts as a stopped transfer (R270, R329), and the handle enters RESIDENT again, with a new
STAMP (R284, log entry 19). -/
def Part.offloadFails (p : Part) (h : Nat) (st : Status) : Part :=
  let d := h / 16384
  let r := ((p.copyDone h).bump Fld.MOVER_ERRORS.FAULT_COUNT d 1).nextStamp d
  let x := { r.1.handle h with st := .resident, chunks := [], stamp := r.2 }
  let p := (r.1.setHandle h x).writeEntries d h x true false
  let p := p.pgFinish h (· == 0x6A) st
  (p.endWaits h 0).serveJobs d

/-- Whether the host port behind a die's reserve has its link up (R274). -/
def Part.reserveUp (p : Part) (d : Nat) : Bool :=
  match whereIs (p.chunkPa d 0) with
  | .host port _ => p.linkUp port
  | _ => false

/-- Copy frames to chunks of the reserve, in order, up to the block that holds the first uncorrectable word (R270, R314); whether
all were copied. -/
def Part.copyOut (p : Part) (d : Nat) (pairs : List (Nat × Nat)) : Part × Bool :=
  match pairs with
  | [] => (p, true)
  | (f, c) :: r =>
    match p.checkRange f pageBytes with
    | (p, none) => (p.copyRange f (p.chunkPa d c) pageBytes).copyOut d r
    | (p, some a) => (p.putCells (p.chunkPa d c) (a / 256 * 256 - f) (p.cellsOf f (a / 256 * 256 - f)), false)

/-- Whether an access waits on a handle. -/
def Part.hasWaiters (p : Part) (h : Nat) : Bool := (p.waitSince h).isSome

/-- The copy of an OFFLOADING handle ends (R282). A frame with an uncorrectable word, or a link that is down, stops it. Accesses
that wait need it back (R286). -/
def Part.offloadEnds (p : Part) (h : Nat) : Part :=
  let d := h / 16384
  let x := p.handle h
  if !p.reserveUp d then p.offloadFails h .timeout
  else match p.copyOut d (x.frames.zip x.chunks) with
  | (p, false) => p.offloadFails h .uncorrectable
  | (p, true) =>
    let p := (p.copyDone h).setHandle h { x with st := .offloaded, frames := [], entry := false }
    let p := p.pgFinish h (· == 0x6A) .ok
    let p := if p.get Fld.PAGER_CTRL.DEMAND_EN d = 0 then p.endWaits h 0
      else if p.hasWaiters h ∧ !p.prefetchWaits h then
        p.modDie d (fun y => { y with pgWait := y.pgWait ++ [.prefetch none h false] })
      else p
    p.serveJobs d

/-- A handle's copy to the reserve ends (R282). -/
def execPagerOffloadComplete (h : Fin 65536) (s : State) : Host.Outcome State Fault Refusal :=
  s.runReady (fun p => if (p.handle h).st = .offloading ∧ (p.handle h).entry then p.offloadEnds h else p)

/-- The data of a PREFETCHING handle is back: valid entries, RESIDENT, reserve space released (R282, R284). -/
def Part.prefetchEnds (p : Part) (h : Nat) : Part :=
  let d := h / 16384
  let p := p.copyDone h
  let x := p.handle h
  let pairs := x.frames.zip x.chunks
  let p := pairs.foldl (fun p y => p.copyRange (p.chunkPa d y.2) y.1 pageBytes) p
  let r := p.nextStamp d
  let pin := (r.1.die d).pgPin.contains h
  let y : Handle := { x with st := .resident, chunks := [], stamp := r.2, pinned := x.pinned || pin }
  let p := r.1.setHandle h y
  let p := p.modDie d (fun z => { z with pgPin := z.pgPin.filter (· != h) })
  let p := p.writeEntries d h y true false
  let p := p.pgFinish h (fun o => o == 0x6B || o == 0x6C) .ok
  (p.endWaits h 0).serveJobs d

/-- A read of the reserve ends with a status (R489), which stops the copy at a block (R329): the handle is OFFLOADED again, and
what waits for it ends with that status (log entry 37). -/
def Part.prefetchFails (p : Part) (h : Nat) (st : Status) : Part :=
  let d := h / 16384
  let p := (p.copyDone h).bump Fld.MOVER_ERRORS.FAULT_COUNT d 1
  let p := (p.setHandle h { p.handle h with st := .offloaded, frames := [] }).modDie d (fun z => { z with pgPin := z.pgPin.filter (· != h) })
  ((p.pgFinish h (fun o => o == 0x6B || o == 0x6C) st).endWaits h st.code).serveJobs d

/-- A handle's data is copied back and it becomes RESIDENT (R282); a reserve whose link is down ends its copy with TIMEOUT
(R274). -/
def execPagerPrefetchComplete (h : Fin 65536) (s : State) : Host.Outcome State Fault Refusal :=
  s.runReady (fun p =>
    if (p.handle h).st = .prefetching ∧ (p.handle h).entry then
      if p.reserveUp (h / 16384) then p.prefetchEnds h else p.prefetchFails h .timeout
    else p)

/-- The host port of a die's reserve is lost: handles that hold reserve space are LOST (R285, log entry 32). -/
def Part.loseReserve (p : Part) (d : Nat) : Part :=
  let p := ((p.handlesOf d).filter (fun x => !x.2.chunks.isEmpty)).foldl (fun (p : Part) y =>
    let q := p.copyDone y.1
    ((q.setHandle y.1 { q.handle y.1 with st := .lost, frames := [], chunks := [] }).pgFinish y.1 (fun _ => true) .uncorrectable).endWaits y.1 0) p
  p.serveJobs d

/-! ### Waiting accesses (R286) -/

/-- An access that has waited DEMAND_LIMIT_US on a handle ends with TIMEOUT, and the prefetch continues (R286): time is at
least that much later than its wait began. -/
def execDemandLimitExpiry (a : Accessor) (s : State) : Host.Outcome State Fault Refusal :=
  s.runReady (fun p =>
    let limit := fun (h : Nat) => p.get Fld.PAGER_CTRL.DEMAND_LIMIT_US (h / 16384)
    let ends := fun (h since : Nat) => (p.advanceTo (since + 1000 * limit h)).countWait h since
    match a with
    | .seq c =>
      match (p.seqWait c).on with
      | some h =>
        if h < 65536 ∧ limit h ≠ 0 then
          ((ends h (p.seqWait c).since).setSeqWait c SeqWait.reset).dispatchFault c 0 (p.core c).pc .timeout false
        else p
      | none => p
    | .unit _ _ => p
    | .xfer d id =>
      match (p.die d).active.find? (fun t => t.id == id) with
      | some t =>
        match t.waitHandle with
        | some h =>
          if h < 65536 ∧ limit h ≠ 0 then
            (ends h t.waitAt).modDie d (fun x => { x with active := x.active.map (fun y =>
              if y.id = id then { y with waitHandle := none, status := Status.timeout.code } else y) })
          else p
        | none => p
      | none => p
    | .pass d =>
      match (p.die d).pass with
      | some q =>
        match q.wait with
        | some h =>
          if h < 65536 ∧ limit h ≠ 0 then
            (ends h q.waitAt).modDie d (fun x => { x with pass := some { q with wait := none, given := Status.timeout.code } })
          else p
        | none => p
      | none => p)

end Sys2Proof.Machine
end

