-- ==== Sys2Proof/Machine/Float.lean ====
section
/-! DEFINITION. Number formats (R144 to R153), conversions and roundings (R154 to R160, R165, R166), and exact arithmetic on
their values. -/

namespace Sys2Proof.Machine

/-- The formats of R144. -/
inductive Fmt where
  | fp32 | fp16 | bf16 | e4m3 | e5m2 | e2m1 | int8 | int4 | int32
  deriving DecidableEq, Repr

def Fmt.ofCode : Nat → Option Fmt
  | 0 => some .fp32 | 1 => some .fp16 | 2 => some .bf16 | 3 => some .e4m3 | 4 => some .e5m2 | 5 => some .e2m1
  | 6 => some .int8 | 7 => some .int4 | 8 => some .int32
  | _ => none

/-- Element bits. -/
def Fmt.width : Fmt → Nat
  | .fp32 | .int32 => 32
  | .fp16 | .bf16 => 16
  | .e4m3 | .e5m2 | .int8 => 8
  | .e2m1 | .int4 => 4

def Fmt.isInt : Fmt → Bool
  | .int8 | .int4 | .int32 => true
  | _ => false

def Fmt.isFp8 : Fmt → Bool
  | .e4m3 | .e5m2 => true
  | _ => false

/-- Fraction bits and bias of a float format (R145). -/
def Fmt.frac : Fmt → Nat
  | .fp32 => 23 | .fp16 => 10 | .bf16 => 7 | .e4m3 => 3 | .e5m2 => 2 | .e2m1 => 1
  | _ => 0

def Fmt.bias : Fmt → Nat
  | .fp32 | .bf16 => 127 | .fp16 | .e5m2 => 15 | .e4m3 => 7 | .e2m1 => 1
  | _ => 0

/-- Code of the largest finite value (R157). -/
def Fmt.maxCode : Fmt → Nat
  | .fp32 => 0x7F7FFFFF | .fp16 => 0x7BFF | .bf16 => 0x7F7F | .e4m3 => 0x7E | .e5m2 => 0x7B | .e2m1 => 0x7
  | .int8 => 127 | .int4 => 7 | .int32 => 2147483647

/-- Code of +Inf, or what stands for it (R157): NaN in E4M3, 6 in E2M1. -/
def Fmt.infCode : Fmt → Nat
  | .fp32 => 0x7F800000 | .fp16 => 0x7C00 | .bf16 => 0x7F80 | .e4m3 => 0x7F | .e5m2 => 0x7C | .e2m1 => 0x7
  | _ => 0

/-- Canonical positive NaN (R150); E2M1 has none and takes +0. -/
def Fmt.nanCode : Fmt → Nat
  | .fp32 => 0x7FC00000 | .fp16 => 0x7E00 | .bf16 => 0x7FC0 | .e4m3 => 0x7F | .e5m2 => 0x7E
  | _ => 0

/-- A value: NaN or infinity with its sign, or (-1)^neg x m x 2^e. -/
inductive FVal where
  | nan (neg : Bool)
  | inf (neg : Bool)
  | fin (neg : Bool) (m : Nat) (e : Int)
  deriving DecidableEq, Repr

/-- The value of a code (R145 to R149, R151). -/
def Fmt.decode (f : Fmt) (code : Nat) : FVal :=
  if f.isInt then
    let v := signed f.width code
    .fin (decide (v < 0)) v.natAbs 0
  else
    let s := bit code (f.width - 1)
    let mag := code % 2 ^ (f.width - 1)
    let ex := mag / 2 ^ f.frac
    let fr := mag % 2 ^ f.frac
    let low : Int := 1 - (f.bias : Int) - (f.frac : Int)
    if f = .e4m3 ∧ mag = 0x7F then .nan s
    else if f ≠ .e2m1 ∧ f ≠ .e4m3 ∧ f.infCode ≤ mag then (if mag = f.infCode then .inf s else .nan s)
    else if ex = 0 then .fin s fr low
    else .fin s (2 ^ f.frac + fr) (low + (ex : Int) - 1)

/-- m1 x 2^e1 ≤ m2 x 2^e2. -/
def dyLe (m1 : Nat) (e1 : Int) (m2 : Nat) (e2 : Int) : Bool :=
  if e1 ≤ e2 then decide (m1 ≤ m2 * 2 ^ (e2 - e1).toNat) else decide (m1 * 2 ^ (e1 - e2).toNat ≤ m2)

/-- Rounding modes: 0 RNE, 1 RTZ, 2 SR with 16 random bits. -/
structure Rnd where
  mode : Nat
  sat : Bool
  r : Nat
  deriving DecidableEq, Repr

def rne : Rnd := ⟨0, false, 0⟩

/-- Round m x 2^e to a multiple of 2^u (R165, R166): the multiple. -/
def roundTo (rd : Rnd) (m : Nat) (e u : Int) : Nat :=
  if u ≤ e then m * 2 ^ (e - u).toNat
  else
    let s := (u - e).toNat
    let q := m / 2 ^ s
    let rest := m % 2 ^ s
    let up :=
      match rd.mode with
      | 0 => decide (2 ^ s < 2 * rest) || (decide (2 * rest = 2 ^ s) && decide (q % 2 = 1))
      | 1 => false
      | _ => decide (2 ^ 16 ≤ rest * 2 ^ 16 / 2 ^ s + rd.r)
    if up then q + 1 else q

/-- Set the sign of a code. -/
def withSign (f : Fmt) (neg : Bool) (code : Nat) : Nat := if neg then code + 2 ^ (f.width - 1) else code

/-- Conversion of a value into a float format (R155, R157). -/
def toFloat (f : Fmt) (rd : Rnd) (x : FVal) : Nat :=
  match x with
  | .nan s => if f = .e2m1 then 0 else withSign f s f.nanCode
  | .inf s => withSign f s (if f = .e4m3 ∧ rd.sat then f.maxCode else f.infCode)
  | .fin s m e =>
    if m = 0 then withSign f s 0
    else
      let low : Int := 1 - (f.bias : Int) - (f.frac : Int)
      let u := max low ((Nat.log2 m : Int) + e - (f.frac : Int))
      let q := roundTo rd m e u
      match f.decode f.maxCode with
      | .fin _ mm me =>
        if dyLe q u mm me then withSign f s (((u - low).toNat) * 2 ^ f.frac + q)
        else withSign f s (if rd.sat ∨ rd.mode = 1 then f.maxCode else f.infCode)
      | _ => 0

/-- Conversion of a value into an integer format: rounded, then clamped (R158). -/
def toInt (f : Fmt) (rd : Rnd) (x : FVal) : Nat :=
  let hi := 2 ^ (f.width - 1) - 1
  match x with
  | .nan _ => 0
  | .inf s => if s then hi + 1 else hi
  | .fin s m e =>
    let q := roundTo rd m e 0
    if s then (if q = 0 then 0 else if hi + 1 ≤ q then hi + 1 else 2 ^ f.width - q) else min q hi

/-- Conversion of a code between formats (R155, R156); the identity keeps every bit. -/
def convert (src dst : Fmt) (rd : Rnd) (code : Nat) : Nat :=
  if src = dst then code % 2 ^ src.width
  else if dst.isInt then toInt dst rd (src.decode code) else toFloat dst rd (src.decode code)

/-! ### Exact arithmetic with IEEE 754 special cases -/

/-- The NaN that arithmetic produces (R150). -/
def qnan : FVal := .nan false

def FVal.neg : FVal → FVal
  | .nan s => .nan s
  | .inf s => .inf (!s)
  | .fin s m e => .fin (!s) m e

def FVal.isNan : FVal → Bool
  | .nan _ => true
  | _ => false

def FVal.isZero : FVal → Bool
  | .fin _ m _ => m == 0
  | _ => false

/-- Signed mantissa at exponent `u ≤ e`. -/
def scaled (s : Bool) (m : Nat) (e u : Int) : Int :=
  let v : Int := (m * 2 ^ (e - u).toNat : Nat)
  if s then -v else v

/-- A signed dyadic number as a value; zero takes the sign given. -/
def ofSigned (v : Int) (u : Int) (zneg : Bool) : FVal :=
  if v = 0 then .fin zneg 0 0 else .fin (decide (v < 0)) v.natAbs u

def FVal.mul (x y : FVal) : FVal :=
  match x, y with
  | .nan _, _ | _, .nan _ => qnan
  | .inf s, .inf t => .inf (s != t)
  | .inf s, .fin t m _ | .fin t m _, .inf s => if m = 0 then qnan else .inf (s != t)
  | .fin s m e, .fin t n g => .fin (s != t) (m * n) (e + g)

/-- Exact sum; an exact zero is +0 unless both terms are -0 (round to nearest). -/
def FVal.add (x y : FVal) : FVal :=
  match x, y with
  | .nan _, _ | _, .nan _ => qnan
  | .inf s, .inf t => if s = t then .inf s else qnan
  | .inf s, .fin _ _ _ | .fin _ _ _, .inf s => .inf s
  | .fin s m e, .fin t n g =>
    let u := min e g
    ofSigned (scaled s m e u + scaled t n g u) u (s && t && m == 0 && n == 0)

def FVal.sub (x y : FVal) : FVal :=
  match y with
  | .nan _ => qnan
  | _ => x.add y.neg

/-- x < y for values that are not NaN. -/
def FVal.lt (x y : FVal) : Bool :=
  match x, y with
  | .nan _, _ | _, .nan _ => false
  | .inf s, .inf t => s && !t
  | .inf s, .fin _ _ _ => s
  | .fin _ _ _, .inf t => !t
  | .fin s m e, .fin t n g =>
    let u := min e g
    decide (scaled s m e u < scaled t n g u)

/-- Numerical equality; +0 equals -0. -/
def FVal.eq (x y : FVal) : Bool := !x.isNan && !y.isNan && !x.lt y && !y.lt x

/-- Quotient with 80 further bits and a sticky bit, so that every rounding of it is that of the exact quotient. -/
def FVal.div (x y : FVal) : FVal :=
  match x, y with
  | .nan _, _ | _, .nan _ => qnan
  | .inf _, .inf _ => qnan
  | .inf s, .fin t _ _ => .inf (s != t)
  | .fin s _ _, .inf t => .fin (s != t) 0 0
  | .fin s m e, .fin t n g =>
    if n = 0 then (if m = 0 then qnan else .inf (s != t))
    else
      let k := 80 + Nat.log2 n
      let q := m * 2 ^ k / n
      let st := if m * 2 ^ k % n = 0 then 0 else 1
      .fin (s != t) (2 * q + st) (e - g - (k : Int) - 1)

/-- Integer square root by bits, from bit `n` down. -/
def isqrtFrom (n : Nat) (v acc : Nat) : Nat :=
  match n with
  | 0 => if (acc + 1) * (acc + 1) ≤ v then acc + 1 else acc
  | n + 1 => let a := acc + 2 ^ (n + 1); isqrtFrom n v (if a * a ≤ v then a else acc)

/-- Square root with further bits and a sticky bit. -/
def FVal.sqrt (x : FVal) : FVal :=
  match x with
  | .nan _ => qnan
  | .inf s => if s then qnan else .inf false
  | .fin s m e =>
    if m = 0 then .fin s 0 0
    else if s then qnan
    else
      let par := (e % 2).toNat
      let v := m * 2 ^ par * 2 ^ 160
      let q := isqrtFrom (Nat.log2 v / 2 + 1) v 0
      let st := if q * q = v then 0 else 1
      .fin false (2 * q + st) ((e - (par : Int)) / 2 - 80 - 1)

/-- An FP32 code as a value and back, RNE. -/
def f32 (c : Nat) : FVal := Fmt.fp32.decode c
def toF32 (x : FVal) : Nat := toFloat .fp32 rne x

/-- FP32 arithmetic, RNE with canonical NaN. -/
def f32Add (a b : Nat) : Nat := toF32 ((f32 a).add (f32 b))
def f32Mul (a b : Nat) : Nat := toF32 ((f32 a).mul (f32 b))

/-- A code with its sign bit cleared, and with it inverted. -/
def absCode (f : Fmt) (c : Nat) : Nat := c % 2 ^ (f.width - 1)
def negCode (f : Fmt) (c : Nat) : Nat := (c % 2 ^ f.width) ^^^ 2 ^ (f.width - 1)

/-! ### Elements in memory (R152) -/

/-- Bytes of a row of `n` elements. -/
def rowBytes (f : Fmt) (n : Nat) : Nat := ceilDiv (n * f.width) 8

/-- Element `j` of a row. -/
def elemAt (f : Fmt) (row : List Byte) (j : Nat) : Nat :=
  if f.width = 4 then
    let b := (row.getD (j / 2) 0).toNat
    if j % 2 = 0 then b % 16 else b / 16
  else fieldAt row (j * (f.width / 8)) (f.width / 8)

/-- A row of element codes as bytes; the pad nibble of an odd 4-bit row is 0. -/
def packRow (f : Fmt) (l : List Nat) : List Byte :=
  if f.width = 4 then
    match l with
    | [] => []
    | [a] => [BitVec.ofNat 8 (a % 16)]
    | a :: b :: r => BitVec.ofNat 8 (a % 16 + 16 * (b % 16)) :: packRow f r
  else l.flatMap (fun a => leBytes (f.width / 8) a)

end Sys2Proof.Machine
end

