-- ==== Sys2Proof/Machine/Vector.lean ====
section
/-! DEFINITION. The vector engine (R198 to R212): operand tiles, issue checks, evaluation of one element, row reductions,
absmax to scale, transcendental functions and the non-finite report. -/

namespace Sys2Proof.Machine

/-! ### Operand tiles (R199, R221, R234) -/

/-- A tile operand; a scalar register counts as a 1 x 1 FP32 tile with its value. -/
structure VTile where
  rows : Nat
  cols : Nat
  stride : Nat
  base : Nat
  fmt : Nat
  kind : Nat
  saddr : Nat
  scalar : Option Nat
  deriving DecidableEq, Repr

def tileOf (t : BitVec 128) : VTile :=
  ⟨tdRows t, tdCols t, tdStride t, tdBase t, tdFormat t, tdScaleKind t, tdScaleAddr t, none⟩

def scalarTile (g : Word) : VTile := ⟨1, 1, 4, 0, 0, 0, 0, some (g.toNat % 2 ^ 32)⟩

/-- Bytes from the first byte of a tile to its last. -/
def VTile.extent (t : VTile) (f : Fmt) : Nat := (t.rows - 1) * t.stride + rowBytes f t.cols

/-- Whether `[a, a + n)` lies wholly in the data region or one accumulator window. -/
def inRegion (a n : Nat) : Bool := inData a n || (windowOf 0 a n).isSome

/-- Whether a tile and its scale vector lie in a region, with base and stride aligned to its elements (R200). -/
def VTile.placed (t : VTile) : Bool :=
  t.scalar.isSome ||
  ((t.kind != 1 || inRegion t.saddr (4 * t.rows)) &&
    match Fmt.ofCode t.fmt with
    | none => true
    | some f => let b := max 1 (f.width / 8)
      t.base % b == 0 && t.stride % b == 0 && inRegion t.base (t.extent f))

/-- Whether the bytes of two tiles meet, row by row. -/
def VTile.overlaps (a b : VTile) : Bool :=
  match a.scalar, b.scalar, Fmt.ofCode a.fmt, Fmt.ofCode b.fmt with
  | none, none, some f, some g =>
    meets a.base (a.extent f) b.base (b.extent g) &&
    (List.range a.rows).any (fun i => (List.range b.rows).any (fun j =>
      meets (a.base + i * a.stride) (rowBytes f a.cols) (b.base + j * b.stride) (rowBytes g b.cols)))
  | _, _, _, _ => false

/-- An output that coincides exactly with an input (R200). -/
def VTile.coincides (a b : VTile) : Bool :=
  a.base == b.base && a.stride == b.stride && a.rows == b.rows && a.cols == b.cols &&
    ((Fmt.ofCode a.fmt).map Fmt.width == (Fmt.ofCode b.fmt).map Fmt.width)

/-- Input shapes of R199 against an output. -/
def VTile.fits (t out : VTile) : Bool :=
  (t.rows == out.rows || t.rows == 1) && (t.cols == out.cols || t.cols == 1)

def VTile.sized (t : VTile) : Bool := decide (1 ≤ t.rows ∧ t.rows ≤ 65535 ∧ 1 ≤ t.cols ∧ t.cols ≤ 65535)

/-! ### The operands of an entry -/

/-- Sources an opcode uses: A, B, C (R234). -/
def vUses (op : Nat) : Bool × Bool :=
  (op == 0x40 || op == 0x41 || op == 0x42 || op == 0x43 || op == 0x46 || op == 0x47 || op == 0x48 || op == 0x49,
    op == 0x43 || op == 0x49)

def isReduce (op : Nat) : Bool := op == 0x50 || op == 0x51 || op == 0x52 || op == 0x53

def isTrans (op : Nat) : Bool := 0x58 ≤ op && op ≤ 0x5D

def srcTile (e : QEntry) (sc : Bool) (td g : Nat) : VTile :=
  if sc then scalarTile (e.gs.getD g 0) else tileOf (e.tds.getD td 0)

/-- The inputs of a vector instruction, in source order A, B, C. -/
def vInputs (e : QEntry) : List VTile :=
  let w := e.word
  let u := vUses (opOf w)
  [srcTile e (aSc w) 1 0] ++ (if u.1 then [srcTile e (bSc w) 2 1] else []) ++
    (if u.2 then [srcTile e (cSc w) 3 2] else [])

/-- Its outputs: one, or s and r of V.AMAX. -/
def vOutputs (e : QEntry) : List VTile :=
  if opOf e.word = 0x53 then [tileOf (e.tds.getD 0 0), tileOf (e.tds.getD 2 0)] else [tileOf (e.tds.getD 0 0)]

/-- The status address of an instruction with STAT = 1 (R211). -/
def vStatAddr (e : QEntry) : Nat := (e.gs.getD 3 0).toNat

/-- Targets of V.AMAX with their largest magnitudes (R209). -/
def amaxMax : Nat → Option Nat
  | 3 => some 448 | 4 => some 57344 | 5 => some 6 | 6 => some 127 | 7 => some 7 | 1 => some 65504
  | _ => none

/-- The issue checks of R200, with those of R209, R211, R216 and R234, in the order of R200. -/
def vCheck (p : Part) (d : Nat) (e : QEntry) : Option Status :=
  let w := e.word
  let op := opOf w
  let ins := vInputs e
  let outs := vOutputs e
  let out := outs.getD 0 (scalarTile 0)
  let shapes := if isReduce op then outs.all (fun o => o.cols == 1 && o.rows == (ins.getD 0 out).rows)
    else ins.all (fun t => t.fits out)
  let all := ins ++ outs
  let stat := !vStat w || (vStatAddr e % 8 == 0 && inRegion (vStatAddr e) 8)
  if !(all.all VTile.sized) || !shapes || !stat then some .range
  else if !(all.all VTile.placed) then some .range
  else if all.any (fun t => (Fmt.ofCode t.fmt).isNone || 2 ≤ t.kind) ||
      (op == 0x53 && (outs.any (fun o => o.fmt != 0 || o.kind != 0) || (amaxMax (fnOf w % 16)).isNone)) ||
      (op != 0x53 && roundOf (vConv w) == 3) ||
      (isTrans op && p.rd .FUNC_TABLE_ID d == 0) then some .unsupported
  else if outs.any (fun o => ins.any (fun t => o.overlaps t && (isReduce op || !o.coincides t))) then some .overlap
  else if op == 0x53 && (outs.getD 0 out).overlaps (outs.getD 1 out) then some .overlap
  else none

/-! ### Step 3 of R201 on FP32 codes -/

/-- IEEE 754 minimum (`mx` false) or maximum; with `num`, a NaN operand is ignored (R205). -/
def f32MinMax (mx num : Bool) (a b : Nat) : Nat :=
  let x := f32 a
  let y := f32 b
  if x.isNan || y.isNan then
    if num && !x.isNan then a else if num && !y.isNan then b else 0x7FC00000
  else
    let aFirst := if x.isZero && y.isZero then bit a 31 else x.lt y
    if mx then (if aFirst then b else a) else (if aFirst then a else b)

/-- The eight predicates of V.CMP (R203). -/
def cmpPred (code a b : Nat) : Bool :=
  let x := f32 a
  let y := f32 b
  let un := x.isNan || y.isNan
  match code with
  | 0 => x.eq y
  | 1 => !x.eq y
  | 2 => !un && x.lt y
  | 3 => !un && !y.lt x
  | 4 => !un && y.lt x
  | 5 => !un && !x.lt y
  | 6 => un
  | _ => !un

/-- A result with every NaN canonical (R150). -/
def canonNan (c : Nat) : Nat := if (f32 c).isNan then 0x7FC00000 else c

/-- Step 3 for the elementwise operations (R202 to R205). -/
def vElem (op fn a b c : Nat) : Nat :=
  match op with
  | 0x40 => f32Add a b
  | 0x41 => toF32 ((f32 a).sub (f32 b))
  | 0x42 => f32Mul a b
  | 0x43 => toF32 (((f32 a).mul (f32 b)).add (f32 c))
  | 0x44 => canonNan (absCode .fp32 a)
  | 0x45 => canonNan (negCode .fp32 a)
  | 0x46 => f32MinMax false (bit fn 0) a b
  | 0x47 => f32MinMax true (bit fn 0) a b
  | 0x48 => if cmpPred (fn % 8) a b then 0x3F800000 else 0
  | 0x49 => if (f32 c).eq (f32 0) then canonNan b else canonNan a
  | _ => canonNan a

/-! ### Transcendental functions (R210) -/

def pow2 (e : Int) : FVal := .fin false 1 e

/-- The integer a finite value is, if it is one. -/
def intOf (x : FVal) : Option Int :=
  match x with
  | .fin s m e =>
    if m = 0 then some 0
    else if 0 ≤ e then some (scaled s m e 0)
    else if m % 2 ^ (-e).toNat = 0 then some (if s then -((m / 2 ^ (-e).toNat : Nat) : Int) else ((m / 2 ^ (-e).toNat : Nat) : Int))
    else none
  | _ => none

/-- The exponent of an exact power of two. -/
def log2Of (x : FVal) : Option Int :=
  match x with
  | .fin false m e => if m ≠ 0 ∧ 2 ^ Nat.log2 m = m then some ((Nat.log2 m : Int) + e) else none
  | _ => none

def ofInt32 (n : Int) : Nat := toF32 (ofSigned n 0 false)

/-- Inputs whose result is exactly defined (R210). -/
def transExact (op code : Nat) : Option Nat :=
  let x := f32 code
  let inf := 0x7F800000
  let nan := 0x7FC00000
  match x with
  | .nan _ => some nan
  | .inf s =>
    match op with
    | 0x58 => some (if s then 0 else inf)
    | 0x59 => some (if s then nan else inf)
    | 0x5A => some (if s then 0x80000000 else 0)
    | 0x5B => some (if s then nan else 0)
    | _ => some nan
  | .fin s m e =>
    match op with
    | 0x58 =>
      if !x.lt (.fin false 128 0) then some inf
      else if x.lt (.fin true 150 0) then some 0
      else match intOf x with
        | some n => if -149 ≤ n ∧ n ≤ 127 then some (toF32 (pow2 n)) else none
        | none => none
    | 0x59 => if m = 0 then some 0xFF800000 else if s then some nan else (log2Of x).map ofInt32
    | 0x5A =>
      if m = 0 then some (if s then 0xFF800000 else inf)
      else if (FVal.fin false m e).lt (pow2 (-128)) then some (if s then 0xFF800000 else inf) else none
    | 0x5B => if m = 0 then some (if s then 0xFF800000 else inf) else if s then some nan else none
    | 0x5C => if m = 0 then some code else none
    | _ => if m = 0 then some 0x3F800000 else none

/-- Spacing exponent of FP32 values at a finite value. -/
def ulpExp (x : FVal) : Int :=
  match x with
  | .fin _ m e => max (-149) ((Nat.log2 m : Int) + e - 23)
  | _ => 0

/-- Whether a candidate lies within 2 ulp of 1/x, or of 1/sqrt x (R210). -/
def recipOk (cand : Nat) (x : FVal) : Bool :=
  let c := f32 cand
  let d := pow2 (ulpExp (f32 (toF32 ((pow2 0).div x))) + 1)
  let one := pow2 0
  let lo := (c.sub d).mul x
  let hi := (c.add d).mul x
  match c with
  | .fin _ _ _ => (!one.lt lo && !hi.lt one) || (!one.lt hi && !lo.lt one)
  | _ => false

def rsqrtOk (cand : Nat) (x : FVal) : Bool :=
  let c := f32 cand
  let d := pow2 (ulpExp (f32 (toF32 ((pow2 0).div x.sqrt))) + 1)
  let one := pow2 0
  let lo := c.sub d
  let hi := c.add d
  match c with
  | .fin _ _ _ => (lo.lt (pow2 (-149)) || !one.lt ((lo.mul lo).mul x)) && !hi.lt (pow2 (-149)) && !((hi.mul hi).mul x).lt one
  | _ => false

/-- A finite code in [-1, 1]. -/
def inUnit (c : Nat) : Bool :=
  match f32 c with
  | .fin _ m e => !(FVal.fin false 1 0).lt (.fin false m e)
  | _ => false

/-! Values of the other functions, in units of 2^-220: each series stops where its terms fall below one unit, so that a value
is off by less than 2^-180. -/

def fixBits : Nat := 220
def fixOne : Int := 2 ^ fixBits

def fixMul (a b : Int) : Int := a * b / fixOne

/-- A finite value in units of 2^-220; exact for every FP32 value. -/
def fixOf (x : FVal) : Int :=
  match x with
  | .fin s m e => scaled s m e (-(fixBits : Int))
  | _ => 0

/-- The sum of t + t f(k) + t f(k) f(k+1) ..., of `n` terms: each term is the one before times `num` over `den k`. -/
def fixSeries (n : Nat) (k : Nat) (num : Int) (den : Nat → Int) (t : Int) : Int :=
  match n with
  | 0 => 0
  | n + 1 => t + fixSeries n (k + 1) num den (fixMul t num / den k)

/-- The sum of z^(2k+1) / (2k+1) (`w` is z²), of `n` terms: atanh z, and with a negative `w` atan z. -/
def fixOdd (n k : Nat) (w t : Int) : Int :=
  match n with
  | 0 => 0
  | n + 1 => t / ((2 * k + 1 : Nat) : Int) + fixOdd n (k + 1) w (fixMul t w)

/-- Natural logarithm of y in [1, 2). -/
def fixLn (y : Int) : Int :=
  let z := (y - fixOne) * fixOne / (y + fixOne)
  2 * fixOdd 80 0 (fixMul z z) z

def fixLn2 : Int :=
  let z := fixOne / 3
  2 * fixOdd 80 0 (fixMul z z) z

/-- pi, by Machin's formula. -/
def fixPi : Int :=
  let at_ := fun (q : Int) => let z := fixOne / q; fixOdd 90 0 (-(fixMul z z)) z
  16 * at_ 5 - 4 * at_ 239

/-- 2^f for f in [0, 1). -/
def fixExp2 (f : Int) : Int := fixSeries 50 1 (fixMul f fixLn2) (fun k => (k : Int)) fixOne

def fixSin (r : Int) : Int :=
  fixSeries 30 1 (-(fixMul r r)) (fun k => ((2 * k * (2 * k + 1) : Nat) : Int)) r

def fixCos (r : Int) : Int :=
  fixSeries 30 1 (-(fixMul r r)) (fun k => (((2 * k - 1) * (2 * k) : Nat) : Int)) fixOne

/-- sine (`quarter` 0) or cosine (1) of `x`, reduced by quarter turns. -/
def fixTurn (quarter : Int) (x : Int) : Int :=
  let h := fixPi / 2
  let n := (2 * x + h) / (2 * h)
  let r := x - n * h
  match ((n + quarter) % 4).toNat with
  | 0 => fixSin r
  | 1 => fixCos r
  | 2 => -fixSin r
  | _ => -fixCos r

/-- A number of units of 2^u as a value. -/
def fixVal (v : Int) (u : Int) : FVal := .fin (decide (v < 0)) v.natAbs u

/-- What EXP2, LOG2, SIN or COS of a finite value is, as a number of units and their exponent. -/
def transFix (op : Nat) (x : FVal) : Int × Int :=
  let u : Int := -(fixBits : Int)
  match op with
  | 0x58 => (fixExp2 (fixOf x % fixOne), u + fixOf x / fixOne)
  | 0x59 => match x with
    | .fin _ m e =>
      let k : Int := (Nat.log2 m : Int) + e
      let y := scaled false m (e - k) u
      (k * fixOne + fixLn y * fixOne / fixLn2, u)
    | _ => (0, u)
  | 0x5C => (fixTurn 0 (fixOf x), u)
  | _ => (fixTurn 1 (fixOf x), u)

/-- Whether a candidate lies within 2 ulp of the value `v` in units of 2^u, known to 2^40 units (R210). -/
def within2 (cand : Nat) (v u : Int) : Bool :=
  let c := f32 cand
  let d := pow2 (ulpExp (fixVal v u) + 1)
  match c with
  | .fin _ _ _ => !c.lt ((fixVal (v + 2 ^ 40) u).sub d) && !((fixVal (v - 2 ^ 40) u).add d).lt c
  | _ => false

/-- Step 3 of a transcendental function: exactly defined, or what the loaded table set gives, a free value held to the 2 ulp
of R210, and to [-1, 1] for the sine and cosine of larger arguments (log entry 17). -/
def vTrans (tables : Word) (op code : Nat) : Nat :=
  match transExact op code with
  | some r => r
  | none =>
    let free := (Config.transcendental tables op (BitVec.ofNat 32 code)).toNat
    let x := f32 code
    match op with
    | 0x5A => if recipOk free x then free else toF32 ((pow2 0).div x)
    | 0x5B => if rsqrtOk free x then free else toF32 ((pow2 0).div x.sqrt)
    | _ =>
      if (op = 0x5C ∨ op = 0x5D) ∧ (FVal.fin false 65536 0).lt (f32 (absCode .fp32 code)) then (if inUnit free then free else 0)
      else
        let v := transFix op x
        if within2 free v.1 v.2 then free else toF32 (fixVal v.1 v.2)

/-! ### Reductions (R208, R209) -/

/-- One level of the pairwise tree. -/
def treeLevel (op : Nat → Nat → Nat) : List Nat → List Nat
  | a :: b :: r => op a b :: treeLevel op r
  | l => l

/-- The pairwise tree; `fuel` bounds its levels. -/
def treeReduce (op : Nat → Nat → Nat) (fuel : Nat) (l : List Nat) : Nat :=
  match fuel with
  | 0 => l.headD 0
  | f + 1 => match l with
    | [] => 0
    | [a] => a
    | _ => treeReduce op f (treeLevel op l)

def reduceRow (op : Nat → Nat → Nat) (l : List Nat) : Nat := treeReduce op (l.length + 1) l

/-- The scale s and inverse r of a row's absolute maximum (R209). -/
def amaxScale (q : Nat) (pw : Bool) (m : Nat) : Nat × Nat :=
  match f32 m with
  | .nan _ => (0x7FC00000, 0x7FC00000)
  | .inf _ => (0x7F800000, 0)
  | .fin _ n e =>
    let mv : FVal := .fin false n e
    let qv : FVal := .fin false q 0
    if n = 0 then (0x3F800000, 0x3F800000)
    else if mv.lt (.fin false q (-126)) then (toF32 (pow2 (-126)), toF32 (pow2 126))
    else if pw then
      let k : Int := (Nat.log2 (n * 2 ^ 32 / q) : Int) - 32 + e
      let up := if (FVal.fin false q k).lt mv then k + 1 else k
      (toF32 (pow2 up), toF32 (pow2 (-up)))
    else (toF32 (mv.div qv), toFloat .fp32 ⟨1, false, 0⟩ (qv.div mv))

/-! ### Reading and writing tiles -/

/-- Element codes of the rows of a tile, from the tile store of core `c`. -/
def Part.readRows (p : Part) (c : Nat) (f : Fmt) (base stride cols : Nat) (rows : Nat) : Part × Acc (List (List Nat)) :=
  match rows with
  | 0 => (p, .ok [])
  | r + 1 =>
    match p.readLocal c base (rowBytes f cols) with
    | (p, .fail st) => (p, .fail st)
    | (p, .wait h) => (p, .wait h)
    | (p, .ok l) =>
      match p.readRows c f (base + stride) stride cols r with
      | (p, .ok rest) => (p, .ok (((List.range cols).map (elemAt f l)) :: rest))
      | x => x

/-- A tile's element codes; a scalar gives its one FP32 code. -/
def Part.readTile (p : Part) (c : Nat) (t : VTile) : Part × Acc (List (List Nat)) :=
  match t.scalar with
  | some v => (p, .ok [[v]])
  | none => p.readRows c ((Fmt.ofCode t.fmt).getD .fp32) t.base t.stride t.cols t.rows

/-- The FP32 scales of a descriptor with kind VECTOR, one per row. -/
def Part.readScales (p : Part) (c : Nat) (t : VTile) : Part × Acc (List Nat) :=
  if t.kind != 1 || t.scalar.isSome then (p, .ok [])
  else
    match p.readLocal c t.saddr (4 * t.rows) with
    | (p, .ok l) => (p, .ok ((List.range t.rows).map (fun i => fieldAt l (4 * i) 4)))
    | (p, .fail st) => (p, .fail st)
    | (p, .wait h) => (p, .wait h)

/-- Write rows of bytes, one every `stride` bytes. -/
def Part.writeRows (p : Part) (c base stride : Nat) (rows : List (List Byte)) : Part × Acc Unit :=
  match rows with
  | [] => (p, .ok ())
  | l :: r =>
    match p.writeLocal c base l with
    | (p, .ok _) => p.writeRows c (base + stride) stride r
    | x => x

/-- An input as it enters step 3: FP32 codes after steps 1 and 2, with the raw codes for V.CVT. -/
structure VIn where
  fmt : Fmt
  raw : List (List Nat)
  val : List (List Nat)
  deriving DecidableEq, Repr

/-- Steps 1 and 2 of R201 over a tile. -/
def widenRows (f : Fmt) (sc : List Nat) (rows : List (List Nat)) : List (List Nat) :=
  (rows.zip (List.range rows.length)).map (fun x =>
    x.1.map (fun a => let v := convert f .fp32 rne a; match sc[x.2]? with | some s => f32Mul v s | none => v))

def Part.readInput (p : Part) (c : Nat) (t : VTile) : Part × Acc VIn :=
  match p.readTile c t with
  | (p, .fail st) => (p, .fail st)
  | (p, .wait h) => (p, .wait h)
  | (p, .ok rows) =>
    match p.readScales c t with
    | (p, .ok sc) =>
      let f := if t.scalar.isSome then .fp32 else (Fmt.ofCode t.fmt).getD .fp32
      (p, .ok ⟨f, rows, widenRows f sc rows⟩)
    | (p, .fail st) => (p, .fail st)
    | (p, .wait h) => (p, .wait h)

def Part.readInputs (p : Part) (c : Nat) (ts : List VTile) : Part × Acc (List VIn) :=
  match ts with
  | [] => (p, .ok [])
  | t :: r =>
    match p.readInput c t with
    | (p, .fail st) => (p, .fail st)
    | (p, .wait h) => (p, .wait h)
    | (p, .ok x) =>
      match p.readInputs c r with
      | (p, .ok xs) => (p, .ok (x :: xs))
      | y => y

/-- Element (i, j) of an input by the shapes of R199. -/
def pick (rows : List (List Nat)) (i j : Nat) : Nat :=
  let r := if rows.length = 1 then rows.getD 0 [] else rows.getD i []
  if r.length = 1 then r.getD 0 0 else r.getD j 0

/-! ### The results of an instruction -/

/-- Random bits of the final conversion for output element (i, j) (R207). -/
def vRandom (e : QEntry) (i j : Nat) : Nat :=
  if roundOf (vConv e.word) = roundSR then
    let a := (e.gs.getD 4 0).toNat
    let b := (e.gs.getD 5 0).toNat
    (srBits e.seed e.step (bits b 15 0) (bits b 31 16) (bits a 47 0 + i * bits a 63 48 + j)).final
  else 0

/-- Steps 4 and 5 of R201. -/
def finish (e : QEntry) (f : Fmt) (sc : List Nat) (i j v : Nat) : Nat × Nat :=
  let v := match sc[i]? with | some s => f32Mul v s | none => v
  (v, convert .fp32 f ⟨roundOf (vConv e.word), satOf (vConv e.word), vRandom e i j⟩ v)

/-- The tested value and the output code of each element of the first output, and the codes of a second output. `acc`
holds the existing output elements that V.RSUM with ACCUM adds. -/
def vResult (tables : Word) (e : QEntry) (out : VTile) (sc acc : List Nat) (ins : List VIn) : List (List (Nat × Nat)) × List (List Nat) :=
  let w := e.word
  let op := opOf w
  let f := (Fmt.ofCode out.fmt).getD .fp32
  let a := ins.getD 0 ⟨.fp32, [], []⟩
  if op = 0x53 then
    let q := (amaxMax (fnOf w % 16)).getD 1
    let rs := a.val.map (fun row => amaxScale q (bit (fnOf w) 4) (reduceRow (f32MinMax true false) (row.map (absCode .fp32))))
    (rs.map (fun x => [(x.1, x.1)]), rs.map (fun x => [x.2]))
  else if isReduce op then
    let red : Nat → Nat → Nat := if op = 0x50 then f32Add else f32MinMax (op == 0x51) (bit (fnOf w) 0)
    (((a.val.zip (List.range a.val.length)).map (fun x =>
      let v := reduceRow red x.1
      let v := if op = 0x50 ∧ bit (fnOf w) 1 then f32Add v (acc.getD x.2 0) else v
      [finish e f sc x.2 0 (canonNan v)])), [])
  else
    ((List.range out.rows).map (fun i => (List.range out.cols).map (fun j =>
      if op = 0x4A ∧ sc.isEmpty ∧ (vInputs e).all (fun t => t.kind != 1) then
        let x := pick a.raw i j
        (convert a.fmt .fp32 rne x,
          convert a.fmt f ⟨roundOf (vConv w), satOf (vConv w), vRandom e i j⟩ x)
      else
        let v := fun (k : Nat) => match ins[k]? with | some t => pick t.val i j | none => 0
        finish e f sc i j (if isTrans op then vTrans tables op (v 0) else vElem op (fnOf w) (v 0) (v 1) (v 2)))), [])

/-- NF_KIND of a value (R118, R211). -/
def nfKind (c : Nat) : Nat :=
  match f32 c with
  | .nan _ => 1
  | .inf false => 2
  | .inf true => 3
  | .fin _ _ _ => 0

/-- The first non-finite element in row-major order: row, column, kind (R171). -/
def firstNf (rows : List (List Nat)) : Option (Nat × Nat × Nat) :=
  ((rows.zip (List.range rows.length)).findSome? (fun x =>
    (x.1.zip (List.range x.1.length)).findSome? (fun y =>
      if nfKind y.1 ≠ 0 then some (x.2, y.2, nfKind y.1) else none)))

/-- The status word of R211. -/
def vStatusWord (nf : Option (Nat × Nat × Nat)) : Nat :=
  match nf with
  | none => 0
  | some (r, c, k) => (r * 65536 + c) * 2 ^ 32 + k * 2 ^ 18 + 2 ^ 17

/-- What running an engine instruction comes to: its state, the bytes it wrote as outputs (for comparisons), and its
fault, if any; or a wait for a bank window. -/
inductive EngOut where
  | done (p : Part) (out : List Byte)
  | fault (p : Part) (st : Status) (out : List Byte)
  | wait
  deriving Repr

/-- Read every input of a vector instruction of core `c` and form its results (R201 to R210). -/
def Part.vCompute (p : Part) (c : Nat) (e : QEntry) : Part × Acc (List (List (Nat × Nat)) × List (List Nat)) :=
  let out := (vOutputs e).getD 0 (scalarTile 0)
  match p.readInputs c (vInputs e) with
  | (p, .fail st) => (p, .fail st)
  | (p, .wait h) => (p, .wait h)
  | (p, .ok ins) =>
    match p.readScales c out with
    | (p, .fail st) => (p, .fail st)
    | (p, .wait h) => (p, .wait h)
    | (p, .ok sc) =>
      let old := if opOf e.word = 0x50 ∧ bit (fnOf e.word) 1 then p.readTile c out else (p, .ok [])
      match old with
      | (p, .fail st) => (p, .fail st)
      | (p, .wait h) => (p, .wait h)
      | (p, .ok prev) =>
        let acc := prev.map (fun r => convert ((Fmt.ofCode out.fmt).getD .fp32) .fp32 rne (r.getD 0 0))
        (p, .ok (vResult (p.rd .FUNC_TABLE_ID (dieOf c)) e out sc acc ins))

/-- Run a vector instruction on the tile store of core `c`: read every input, write the outputs and the status word
(R201 to R211). -/
def Part.runVector (p : Part) (c : Nat) (trap : Bool) (e : QEntry) : EngOut :=
  let outs := vOutputs e
  let out := outs.getD 0 (scalarTile 0)
  match p.vCompute c e with
  | (p, .fail st) => .fault p st []
  | (_, .wait _) => .wait
  | (p, .ok res) =>
    let f := (Fmt.ofCode out.fmt).getD .fp32
    let bytes1 := res.1.map (fun r => packRow f (r.map (·.2)))
    let nf := firstNf (res.1.map (fun r => r.map (·.1)))
    match p.writeRows c out.base out.stride bytes1 with
    | (p, .fail st) => .fault p st []
    | (_, .wait _) => .wait
    | (p, .ok _) =>
      let o2 := outs.getD 1 out
      let bytes2 := res.2.map (fun r => packRow .fp32 r)
      match p.writeRows c o2.base o2.stride bytes2 with
      | (p, .fail st) => .fault p st []
      | (_, .wait _) => .wait
      | (p, .ok _) =>
        let word := leBytes 8 (vStatusWord nf)
        let all := bytes1.flatten ++ bytes2.flatten
        let wr := if vStat e.word then p.writeLocal c (vStatAddr e) word else (p, .ok ())
        match wr with
        | (p, .fail st) => .fault p st all
        | (_, .wait _) => .wait
        | (p, .ok _) => if trap && nf.isSome then .fault p .nonfinite all else .done p all

/-- The bytes of the first `n` elements of rows of codes, row by row; of two 4-bit elements in one byte neither is written
before the other. -/
def headRows (f : Fmt) (n : Nat) (rows : List (List Nat)) : List (List Byte) :=
  match n, rows with
  | 0, _ => []
  | _, [] => []
  | n, l :: r =>
    if l.length ≤ n then packRow f l :: headRows f (n - l.length) r
    else [packRow f (l.take (if f.width = 4 then n / 2 * 2 else n))]

/-- What a vector instruction leaves when it ends after `n` elements of its outputs were written, in row-major order, the
first output before the second (R212). -/
def Part.vPartial (p : Part) (c : Nat) (e : QEntry) (n : Nat) : Part :=
  let outs := vOutputs e
  let out := outs.getD 0 (scalarTile 0)
  let o2 := outs.getD 1 out
  match p.vCompute c e with
  | (p, .ok res) =>
    let p := (p.writeRows c out.base out.stride (headRows ((Fmt.ofCode out.fmt).getD .fp32) n (res.1.map (fun r => r.map (·.2))))).1
    (p.writeRows c o2.base o2.stride (headRows .fp32 (n - (res.1.map List.length).foldl (· + ·) 0) res.2)).1
  | _ => p

end Sys2Proof.Machine
end

