-- ==== Sys2Proof/Machine/Matrix.lean ====
section
/-! DEFINITION. The matrix engine (R102 to R143, R173 to R181): issue checks, group addition, the check row, banks and their
status words, loading and draining, and the current keeper with its ramp governor. -/

namespace Sys2Proof.Machine

/-! ### Group addition (R126, R173 to R176) -/

/-- Exponent of the leading bit of a nonzero finite value. -/
def FVal.lead (x : FVal) : Int :=
  match x with
  | .fin _ m e => (Nat.log2 m : Int) + e
  | _ => 0

def FVal.live (x : FVal) : Bool :=
  match x with
  | .fin _ m _ => m != 0
  | _ => false

def FVal.isFin (x : FVal) : Bool :=
  match x with
  | .fin _ _ _ => true
  | _ => false

/-- A term truncated toward zero to the quantum 2^q (R174). -/
def truncTo (q : Int) (x : FVal) : Int :=
  match x with
  | .fin s m e =>
    let v : Int := if q ≤ e then (m * 2 ^ (e - q).toNat : Nat) else (m / 2 ^ (q - e).toNat : Nat)
    if s then -v else v
  | _ => 0

/-- The group sum (R174, R175). -/
def groupSum (ts : List FVal) : FVal :=
  let pinf := ts.contains (.inf false)
  let ninf := ts.contains (.inf true)
  if ts.any FVal.isNan || (pinf && ninf) then qnan
  else if pinf then .inf false
  else if ninf then .inf true
  else
    match (ts.filter FVal.live).map FVal.lead with
    | [] => .fin (ts.all (fun t => match t with | .fin s _ _ => s | _ => false)) 0 0
    | e :: r =>
      let q := r.foldl max e - 26
      ofSigned ((ts.map (truncTo q)).foldl (· + ·) 0) q false

/-- One group addition: the scaled group sum added with the one rounding (R176). -/
def groupAdd (c : Nat) (ts : List FVal) (sc : FVal) : Nat := toF32 ((f32 c).add ((groupSum ts).mul sc))

/-- A significand cut to its top 8 bits (R126). -/
def cut8 (x : FVal) : FVal :=
  match x with
  | .fin s m e => let n := Nat.log2 m + 1; if n ≤ 8 then x else .fin s (m / 2 ^ (n - 8)) (e + ((n - 8 : Nat) : Int))
  | _ => x

/-- The products of one K element in FP32 input (R126). -/
def fp32Products (a b : FVal) : List FVal :=
  if a.isFin && b.isFin then
    let ah := cut8 a
    let am := cut8 (a.sub ah)
    let al := (a.sub ah).sub am
    let bh := cut8 b
    let bm := cut8 (b.sub bh)
    let bl := (b.sub bh).sub bm
    [ah.mul bh, ah.mul bm, am.mul bh, ah.mul bl, am.mul bm, al.mul bh]
  else [a.mul b]

/-- Magnitude of a value. -/
def FVal.abs (x : FVal) : FVal :=
  match x with
  | .nan _ => .nan false
  | .inf _ => .inf false
  | .fin _ m e => .fin false m e

/-- Terms of one K element in the float additive class (R122, R123, R173). -/
def floatTerms (op fmt : Nat) (a b : FVal) : List FVal :=
  if op = 0x20 then (if fmt = 0 then fp32Products a b else [a.mul b])
  else
    let d := f32 (toF32 (a.sub b))
    if op = 0x21 then [d.abs] else [d.mul d]

/-- The integer a code of an integer format stands for. -/
def FVal.toInt (x : FVal) : Int :=
  match x with
  | .fin s m e => scaled s m e 0
  | _ => 0

/-- The integer term of one K element (R122). -/
def intTerm (op : Nat) (a b : FVal) : Int :=
  match op with
  | 0x20 => a.toInt * b.toInt
  | 0x21 => ((a.toInt - b.toInt).natAbs : Nat)
  | 0x22 => (a.toInt - b.toInt) * (a.toInt - b.toInt)
  | 0x25 => if a.eq b then 1 else 0
  | _ => if !a.isNan && !b.isNan && b.lt a then 1 else 0

/-- Clamp to INT32, and whether it clamped (R125). -/
def clamp32 (v : Int) : Int × Bool :=
  if v < -2147483648 then (-2147483648, true) else if 2147483647 < v then (2147483647, true) else (v, false)

def codeOfInt (v : Int) : Nat := (v % (2 ^ 32 : Int)).toNat

/-- A list in pieces of `g`; `fuel` bounds their number. -/
def chunks {α : Type} (g fuel : Nat) (l : List α) : List (List α) :=
  match fuel with
  | 0 => []
  | f + 1 => if l.isEmpty then [] else l.take g :: chunks g f (l.drop g)

/-! ### Modes, formats and classes (R112, R127, R153, R230) -/

/-- Group size of GSIZE. -/
def gOf (w : Word) : Nat := 4 * 2 ^ gsizeOf w

/-- The group size a bound or a check counts: 24 for FP32 input (R126). -/
def gCount (fmt g : Nat) : Nat := if fmt = 0 then 24 else g

def isIntCode (fmt : Nat) : Bool := match Fmt.ofCode fmt with | some f => f.isInt | none => false

/-- MODE_CLASS of a mode and a format (R112). -/
def classOf (op fmt : Nat) : Nat :=
  match op with
  | 0x23 => 2
  | 0x24 => 3
  | 0x25 | 0x26 => 4
  | _ => if isIntCode fmt then 4 else 1

/-- The identity of a class (R112). -/
def identity (cls : Nat) : BitVec 32 :=
  match cls with
  | 2 => 0x7F800000#32
  | 3 => 0xFF800000#32
  | _ => 0#32

/-- Whether R153 and R127 admit the pairing in the mode, with GSIZE. -/
def modeOk (op fa fb gs : Nat) : Bool :=
  match Fmt.ofCode fa, Fmt.ofCode fb with
  | some a, some b =>
    let any := [0x20, 0x21, 0x22, 0x25, 0x26].contains op
    if a.isFp8 && b.isFp8 then any
    else if a != b then false
    else match a with
      | .int8 => any
      | .e2m1 | .fp16 => op == 0x20
      | .int4 => op == 0x20 || op == 0x25 || op == 0x26
      | .bf16 => [0x20, 0x21, 0x22, 0x23, 0x24].contains op
      | .fp32 => op == 0x20 && gs == 0
      | _ => false
  | _, _ => false

/-- KBLOCK scales are admitted in MTX.MAC with FP8 or E2M1 operands (R161). -/
def scaleOk (op fmt kind : Nat) : Bool :=
  kind == 0 || (kind == 2 && op == 0x20 &&
    (match Fmt.ofCode fmt with | some f => f.isFp8 || f == .e2m1 | none => false))

/-! ### The bank status word (R118) -/

def Bank.depth (b : Bank) : Nat := bits b.status.toNat 63 46
def Bank.cls (b : Bank) : Nat := bits b.status.toNat 45 43
def Bank.lapsed (b : Bank) : Bool := bit b.status.toNat 16
def Bank.saturated (b : Bank) : Bool := bit b.status.toNat 15

/-- A status word from its fields; DEPTH stops at 262,143 and sets BOUND_LAPSED past 131,072 (R178, R179). -/
def statusWord (depth cls : Nat) (lapsed sat : Bool) : Word :=
  let n := min depth 262143
  BitVec.ofNat 64 (n * 2 ^ 46 + cls * 2 ^ 43 + bnat (lapsed || decide (131072 < n)) * 2 ^ 16 + bnat sat * 2 ^ 15)

/-- Add to the depth and flags of a bank. -/
def Bank.tally (b : Bank) (n : Nat) (sat : Bool) : Bank :=
  { b with status := statusWord (b.depth + n) b.cls b.lapsed (b.saturated || sat) }

/-- Every element set to one value, with nothing listed. -/
def Bank.allSet (b : Bank) (v : BitVec 32) : Bank := { b with fill := v, cells := [] }

/-- Replace elements, given as rows of codes from element (0, 0). -/
def Bank.putRow (b : Bank) (k : Nat) (l : List Nat) : Bank :=
  match l with
  | [] => b
  | v :: r => (b.setElem k (BitVec.ofNat 32 v)).putRow (k + 1) r

def Bank.putRows (b : Bank) (i : Nat) (rows : List (List Nat)) : Bank :=
  match rows with
  | [] => b
  | l :: r => (b.putRow (128 * i) l).putRows (i + 1) r

/-! ### The check state (R128 to R130) -/

def ColCheck.zero : ColCheck := ⟨0, 0, 0, 0, 0, false⟩

/-- A finite FP32 code in units of 2^-149; none for infinity or NaN. -/
def units (code : Nat) : Option Int :=
  match f32 code with
  | .fin s m e => some (scaled s m e (-149))
  | _ => none

/-- The value of an element in the check's units: an integer, or an FP32 value. -/
def elemUnits (int : Bool) (v : BitVec 32) : Option Int := if int then some (signed 32 v.toNat) else units v.toNat

/-- Exact sums of a column over all 128 rows: of the values, and of their magnitudes. -/
def Bank.colSums (b : Bank) (int : Bool) (j : Nat) : Option (Int × Int) :=
  (List.range 128).foldl (fun s i =>
    match s, elemUnits int (b.elem (128 * i + j)) with
    | some (x, y), some v => some (x + v, y + (v.natAbs : Nat))
    | _, _ => none) (some (0, 0))

/-- The check state as ACC.LD and RELAY.RECV set it: C0 and A0 of the tile held (R128). -/
def Bank.recorded (b : Bank) : CheckSt :=
  let cols : Tab ColCheck := (List.range 128).filterMap (fun j =>
    let i := ((b.colSums true j).map (·.1)).getD 0
    let x := match b.colSums false j with
      | some (c, a) => ⟨c, a, i, 0, 0, false⟩
      | none => ⟨0, 0, i, 0, 0, true⟩
    if x = ColCheck.zero then none else some (j, x))
  ⟨cols, 0, 0, false⟩

/-- A sum with an FP32 value added under the group addition, in check units. -/
def vAdd (v : Int) (ts : List FVal) (sc : FVal) : Option Int :=
  units (toF32 ((ofSigned v (-149) false).add ((groupSum ts).mul sc)))

/-- The check row's sums of one column after an MTX in a float format: `groups` gives, per group, ã and b values and the
column scale. -/
def ColCheck.addFloat (x : ColCheck) (fmt : Nat) (groups : List (List (FVal × FVal) × FVal)) : ColCheck :=
  groups.foldl (fun x g =>
    let ts := g.1.flatMap (fun y => floatTerms 0x20 fmt y.1 y.2)
    match vAdd x.v ts g.2, vAdd x.t (ts.map FVal.abs) g.2.abs with
    | some v, some t => { x with v := v, t := t }
    | _, _ => { x with nf := true }) x

/-- Whether a column disagrees at drain (R129): `n` the depth added, `g` the largest group. A float column whose S, C0, V or T
is not finite shows no disagreement: DESIGN CHOICE (log entry 50). -/
def ColCheck.disagrees (x : ColCheck) (int : Bool) (n g : Nat) (s : Option (Int × Int)) : Bool :=
  match s with
  | none => false
  | some (s, _) =>
    let lhs : Int := ((s - x.c0 - x.v).natAbs : Nat)
    if int then decide (s - x.ci ≠ x.v)
    else !x.nf && decide ((100 * g + 404 * n + 800 : Nat) * (x.a0 + x.t) + (50 * 2 ^ 26 * 128 * n : Nat) < 50 * 2 ^ 26 * lhs)

/-! ### MTX issue (R231) -/

/-- Shape, alignment and K of R103, and scale addresses of R161. -/
def mtxRange (a b : BitVec 128) : Bool :=
  let sized := fun (t : BitVec 128) => decide (1 ≤ tdRows t ∧ tdRows t ≤ 128 ∧ tdBase t % 16 = 0 ∧ tdStride t % 16 = 0)
  let scale := fun (t : BitVec 128) => tdScaleKind t == 0 || tdScaleAddr t % 16 == 0
  sized a && sized b && decide (1 ≤ tdCols a) && tdCols a == tdCols b && scale a && scale b

/-- Whether engine `e` of core `c` is disabled or retired (R3, R244), or missing from the other core of its pair (R443). -/
def Part.engineGone (p : Part) (c e : Nat) : Bool :=
  !p.meUsable c e || (match p.twin c with | some f => !p.meUsable f e | none => false)

/-- The issue checks of an MTX in the order of R231. -/
def Part.mtxCheck (p : Part) (c : Nat) (e : QEntry) (b : Bank) : Option Status :=
  let w := e.word
  let op := opOf w
  let ta := e.tds.getD 0 0
  let tb := e.tds.getD 1 0
  let cls := classOf op (tdFormat ta)
  if p.engineGone c (engOf w) then some .retiredUnit
  else if !mtxRange ta tb then some .range
  else if !modeOk op (tdFormat ta) (tdFormat tb) (gsizeOf w) || !scaleOk op (tdFormat ta) (tdScaleKind ta) ||
      !scaleOk op (tdFormat tb) (tdScaleKind tb) then some .unsupported
  else if b.st != .empty && b.cls != 0 && b.cls != cls then some .conflict
  else none

/-- A bank after an MTX of class `cls` issued on it: from EMPTY it starts from the identity and only BOUND_LAPSED stays
(R179, log entry 50); an unbound class is bound (R112, R113). -/
def Bank.mtxIssued (b : Bank) (cls : Nat) : Bank :=
  if b.st = .empty then ⟨.filling, identity cls, [], statusWord 0 cls b.lapsed false, CheckSt.clear⟩
  else { b with st := .filling, status := statusWord b.depth (if b.cls = 0 then cls else b.cls) b.lapsed b.saturated }

/-! ### What an MTX adds -/

/-- One operand: element values of its rows, and its scales per K-block and row. -/
structure MtxIn where
  rows : List (List FVal)
  scales : List (List Nat)
  deriving DecidableEq, Repr

/-- The scale of row `i` in block `b`, 1 where absent (R162, R163). -/
def MtxIn.scale (x : MtxIn) (i b : Nat) : FVal :=
  match x.scales[b]? with
  | some l => f32 (l.getD i 0)
  | none => .fin false 1 0

/-- The KBLOCK scale vectors of an operand. -/
def Part.readBlocks (p : Part) (c sa rows n : Nat) : Part × Acc (List (List Nat)) :=
  match n with
  | 0 => (p, .ok [])
  | k + 1 =>
    match p.readLocal c sa (4 * rows) with
    | (p, .fail st) => (p, .fail st)
    | (p, .wait h) => (p, .wait h)
    | (p, .ok l) =>
      match p.readBlocks c (sa + 512) rows k with
      | (p, .ok r) => (p, .ok ((List.range rows).map (fun i => fieldAt l (4 * i) 4) :: r))
      | x => x

def Part.readMtx (p : Part) (c : Nat) (t : BitVec 128) : Part × Acc MtxIn :=
  let f := (Fmt.ofCode (tdFormat t)).getD .fp32
  match p.readRows c f (tdBase t) (tdStride t) (tdCols t) (tdRows t) with
  | (p, .fail st) => (p, .fail st)
  | (p, .wait h) => (p, .wait h)
  | (p, .ok rows) =>
    let vals := rows.map (fun r => r.map f.decode)
    if tdScaleKind t = 2 then
      match p.readBlocks c (tdScaleAddr t) (tdRows t) (ceilDiv (tdCols t) 128) with
      | (p, .ok s) => (p, .ok ⟨vals, s⟩)
      | (p, .fail st) => (p, .fail st)
      | (p, .wait h) => (p, .wait h)
    else (p, .ok ⟨vals, []⟩)

/-- Pairs of an A row and a B row in groups of `g`, each with its K-block. -/
def groupPairs (g : Nat) (a b : List FVal) : List (List (FVal × FVal) × Nat) :=
  let gs := chunks g (a.length + 1) (a.zip b)
  (gs.zip (List.range gs.length)).map (fun x => (x.1, x.2 * g / 128))

/-- The element an MTX leaves, and whether it saturated. -/
def mtxElem (op fmt g cls : Nat) (a b : MtxIn) (i j : Nat) (old : BitVec 32) : Nat × Bool :=
  let ra := a.rows.getD i []
  let rb := b.rows.getD j []
  if cls = 4 then
    let gs := chunks g (ra.length + 1) ((ra.zip rb).map (fun x => intTerm op x.1 x.2))
    let r := gs.foldl (fun (s : Int × Bool) t =>
      let v := clamp32 (s.1 + t.foldl (· + ·) 0)
      (v.1, s.2 || v.2)) (signed 32 old.toNat, false)
    (codeOfInt r.1, r.2)
  else if cls = 1 then
    ((groupPairs g ra rb).foldl (fun c x =>
      groupAdd c (x.1.flatMap (fun y => floatTerms op fmt y.1 y.2)) ((a.scale i x.2).mul (b.scale j x.2))) old.toNat, false)
  else
    ((ra.zip rb).foldl (fun c x => f32MinMax (cls == 3) false c (toF32 (x.1.add x.2))) old.toNat, false)

/-- The new rows of a bank, and whether an element saturated. -/
def mtxRows (op fmt g cls : Nat) (a b : MtxIn) (bk : Bank) : List (List Nat) × Bool :=
  let rows := (List.range a.rows.length).map (fun i =>
    (List.range b.rows.length).map (fun j => mtxElem op fmt g cls a b i j (bk.elem (128 * i + j))))
  (rows.map (fun r => r.map (·.1)), rows.any (fun r => r.any (·.2)))

/-- ã of K element `k`: the scaled column sum of A rounded once (R128). -/
def aTilde (a : MtxIn) (k : Nat) : FVal :=
  f32 (toF32 ((List.range a.rows.length).foldl
    (fun s i => s.add ((a.scale i (k / 128)).mul ((a.rows.getD i []).getD k (.fin false 0 0)))) (.fin false 0 0)))

/-- The check state after an MTX (R128, R130). -/
def mtxChecks (op fmt g cls : Nat) (a b : MtxIn) (groups : Nat) (ck : CheckSt) : CheckSt :=
  let base : CheckSt := { ck with depth := ck.depth + groups, gMax := max ck.gMax (gCount fmt g) }
  if op ≠ 0x20 then { base with skip := true }
  else
    let k := (a.rows.getD 0 []).length
    let col : Nat → ColCheck := fun j =>
      let x := Tab.get ColCheck.zero ck.cols j
      let rb := b.rows.getD j []
      if cls = 4 then
        let v := (List.range k).foldl (fun (s : Int) q =>
          s + (a.rows.foldl (fun (y : Int) r => y + (r.getD q (.fin false 0 0)).toInt) 0) * (rb.getD q (.fin false 0 0)).toInt) 0
        { x with v := x.v + v }
      else
        let at_ := (List.range k).map (aTilde a)
        x.addFloat fmt ((groupPairs g at_ rb).map (fun y => (y.1, b.scale j y.2)))
    { base with cols := (List.range b.rows.length).foldl (fun t j => Tab.set ColCheck.zero t j (col j)) ck.cols }

/-- Bank number of an engine instruction of core `c`. -/
def bankNo (c : Nat) (w : Word) : Nat := 4 * c + 2 * engOf w + bankOf w

/-- Run an MTX: its groups are added into the bank (R107, R122 to R126, R162, R163, R176, R178). -/
def Part.runMtx (p : Part) (c : Nat) (e : QEntry) : EngOut :=
  let w := e.word
  let op := opOf w
  let ta := e.tds.getD 0 0
  let tb := e.tds.getD 1 0
  let fmt := tdFormat ta
  match p.readMtx c ta with
  | (p, .fail st) => .fault p st []
  | (_, .wait _) => .wait
  | (p, .ok a) =>
    match p.readMtx c tb with
    | (p, .fail st) => .fault p st []
    | (_, .wait _) => .wait
    | (p, .ok b) =>
      let k := bankNo c w
      let bk := p.bank k
      let cls := classOf op fmt
      let g := gOf w
      let n := ceilDiv (tdCols ta) g
      let r := mtxRows op fmt g cls a b bk
      let bk' := ((bk.putRows 0 r.1).tally n r.2)
      .done (p.setBank k { bk' with check := mtxChecks op fmt g cls a b n bk.check }) []

/-! ### ACC.CLR and ACC.LD (R113, R232) -/

/-- Descriptor checks of ACC.LD and ACC.DRAIN (R232): rows and columns, the tile and its scale vector inside the data
region. -/
def accRange (t : BitVec 128) (scaleLen : Nat) : Bool :=
  let f := (Fmt.ofCode (tdFormat t)).getD .fp32
  decide (1 ≤ tdRows t ∧ tdRows t ≤ 128 ∧ 1 ≤ tdCols t ∧ tdCols t ≤ 128) &&
    inData (tdBase t) ((tdRows t - 1) * tdStride t + rowBytes f (tdCols t)) &&
    (tdScaleKind t != 1 || inData (tdScaleAddr t) (4 * scaleLen))

def Part.accLdCheck (p : Part) (c : Nat) (e : QEntry) : Option Status :=
  let t := e.tds.getD 0 0
  if p.engineGone c (engOf e.word) then some .retiredUnit
  else if !accRange t (tdRows t) then some .range
  else if 2 ≤ tdScaleKind t || !(Fmt.ofCode (tdFormat t) == some .fp32 || Fmt.ofCode (tdFormat t) == some .int32) then
    some .unsupported
  else none

/-- A bank after ACC.CLR, ACC.LD or a RELAY.RECV without merge issued on it: its class is left unbound (R112). -/
def Bank.fillIssued (b : Bank) : Bank := { b with st := .filling, status := 0, check := CheckSt.clear }

def Part.runAccClr (p : Part) (c : Nat) (e : QEntry) : EngOut :=
  let k := bankNo c e.word
  .done (p.setBank k ((p.bank k).allSet
    (match identOf e.word with | 1 => 0x7F800000#32 | 2 => 0xFF800000#32 | _ => 0#32))) []

def Part.runAccLd (p : Part) (c : Nat) (e : QEntry) : EngOut :=
  let t := e.tds.getD 0 0
  let k := bankNo c e.word
  match p.readRows c ((Fmt.ofCode (tdFormat t)).getD .fp32) (tdBase t) (tdStride t) (tdCols t) (tdRows t) with
  | (p, .fail st) => .fault p st []
  | (_, .wait _) => .wait
  | (p, .ok rows) =>
    let b := ((p.bank k).allSet 0).putRows 0 rows
    .done (p.setBank k { b with check := b.recorded }) []

/-! ### ACC.DRAIN (R119 to R121, R129 to R131, R164, R169) -/

/-- Issue checks of ACC.DRAIN in the order of R232. -/
def Part.drainCheck (p : Part) (c : Nat) (e : QEntry) : Option Status :=
  let w := e.word
  let o := e.tds.getD 0 0
  let cv := e.tds.getD 1 0
  let stat := (e.gs.getD 0 0).toNat
  if p.engineGone c (engOf w) then some .retiredUnit
  else if !accRange o (tdRows o) || stat % 8 != 0 || (csEn w && !inData (tdScaleAddr cv) (4 * tdCols o)) then some .range
  else if 2 ≤ tdScaleKind o || (csEn w && tdScaleKind cv != 1) || (Fmt.ofCode (tdFormat o)).isNone ||
      roundOf (acConv w) == 3 then some .unsupported
  else none

/-- One drained element: the tested value, and the output code (R164, R169). -/
def drainElem (int : Bool) (f : Fmt) (rd : Rnd) (sr : SrBits) (row col : Option Nat) (v : Nat) : Nat × Nat :=
  if int && f.isInt && row.isNone && col.isNone then (0, convert .int32 f ⟨rd.mode, rd.sat, sr.final⟩ v)
  else
    let v := if int then convert .int32 .fp32 rne v else v
    let scale := fun (r x s : Nat) => toFloat .fp32 ⟨rd.mode, rd.sat, r⟩ ((f32 x).mul (f32 s))
    let v1 := match row with | some s => scale sr.first v s | none => v
    let v2 := match col with
      | some t => scale (if row.isSome then sr.second else sr.first) v1 t
      | none => v1
    (v2, convert .fp32 f ⟨rd.mode, rd.sat, sr.final⟩ v2)

/-- The status word a drain writes (R118): the bank's own fields, the non-finite report, and the check's outcome. Of an EMPTY
bank it keeps what the last drain found of the check (R115). -/
def drainWord (b : Bank) (wasEmpty : Bool) (nf : Option (Nat × Nat × Nat)) (skip : Bool) (bad : Option Nat) : Word :=
  let base := (statusWord b.depth b.cls b.lapsed b.saturated).toNat + (if wasEmpty then bits b.status.toNat 41 34 * 2 ^ 34 else 0)
  let n := match nf with | some (i, j, k) => (i * 128 + j) * 2 ^ 20 + k * 2 ^ 18 + 2 ^ 17 | none => 0
  let m := match bad with | some j => j * 2 ^ 34 + 2 ^ 41 | none => 0
  BitVec.ofNat 64 (base + n + bnat skip * 2 ^ 42 + m)

/-- The lowest column that disagrees. -/
def Bank.mismatch (b : Bank) : Option Nat :=
  let int := b.cls == 4
  (List.range 128).find? (fun j =>
    (Tab.get ColCheck.zero b.check.cols j).disagrees int b.check.depth b.check.gMax (b.colSums int j))

/-- Stop an engine (R138): both banks become EMPTY, its queue is held, its draw ramps down through the governor. -/
def Part.stopEngine (p : Part) (c e : Nat) (st : Status) : Part :=
  let pe := 2 * p.phys c + e
  let x := p.engine pe
  let p := p.setEngine pe { x with stopped := true, fault := st.code, gap := true, window := false }
  let k := 4 * c + 2 * e
  let p := p.setBank k { p.bank k with st := .empty }
  p.setBank (k + 1) { p.bank (k + 1) with st := .empty }

/-- What drained elements are: rows of (tested value, output code). A FULL bank of unbound class is converted as FP32, as an
EMPTY one is: DESIGN CHOICE (log entry 76). -/
def drainRows (e : QEntry) (b : Bank) (f : Fmt) (rows cols : Nat) (rs cs : Option (List Nat)) : List (List (Nat × Nat)) :=
  let w := e.word
  let conv := acConv w
  let x := (e.gs.getD 1 0).toNat
  let y := (e.gs.getD 2 0).toNat
  (List.range rows).map (fun i => (List.range cols).map (fun j =>
    let sr := if roundOf conv = roundSR then
        srBits e.seed e.step (bits y 15 0) (bits y 31 16) (bits x 47 0 + i * bits x 63 48 + j) else ⟨0, 0, 0⟩
    drainElem (b.cls == 4) f ⟨roundOf conv, satOf conv, 0⟩ sr (rs.map (fun l => l.getD i 0)) (cs.map (fun l => l.getD j 0))
      (b.elem (128 * i + j)).toNat))

/-- A vector of FP32 values in the tile store. -/
def Part.readVector (p : Part) (c a n : Nat) (on : Bool) : Part × Acc (Option (List Nat)) :=
  if !on then (p, .ok none)
  else match p.readLocal c a (4 * n) with
    | (p, .ok l) => (p, .ok (some ((List.range n).map (fun i => fieldAt l (4 * i) 4))))
    | (p, .fail st) => (p, .fail st)
    | (p, .wait h) => (p, .wait h)

/-- Traps of a drain: BL_TRAP and NF_TRAP of its engine (R121). -/
def Part.drainTrap (p : Part) (c e : Nat) (nf lapsed : Bool) : Option Status :=
  if nf && p.get Fld.ME_CTRL.NF_TRAP (2 * c + e) == 1 then some .nonfinite
  else if lapsed && p.get Fld.ME_CTRL.BL_TRAP (2 * c + e) == 1 then some .boundLapsed
  else none

/-- Run a drain: convert and write the tile, compare the check row, write the status word, empty the bank (R119). -/
def Part.runDrain (p : Part) (c : Nat) (wasEmpty : Bool) (e : QEntry) : EngOut :=
  let w := e.word
  let o := e.tds.getD 0 0
  let cv := e.tds.getD 1 0
  let f := (Fmt.ofCode (tdFormat o)).getD .fp32
  let k := bankNo c w
  let b := p.bank k
  let empty := fun (q : Part) => q.setBank k { q.bank k with st := .empty }
  match p.readVector c (tdScaleAddr o) (tdRows o) (tdScaleKind o == 1) with
  | (p, .fail st) => .fault (empty p) st []
  | (_, .wait _) => .wait
  | (p, .ok rs) =>
    match p.readVector c (tdScaleAddr cv) (tdCols o) (csEn w) with
    | (p, .fail st) => .fault (empty p) st []
    | (_, .wait _) => .wait
    | (p, .ok cs) =>
      let rows := drainRows e b f (tdRows o) (tdCols o) rs cs
      let out := rows.map (fun r => packRow f (r.map (·.2)))
      let nf := firstNf (rows.map (fun r => r.map (·.1)))
      match p.writeRows c (tdBase o) (tdStride o) out with
      | (p, .fail st) => .fault (empty p) st []
      | (_, .wait _) => .wait
      | (p, .ok _) =>
        let skip := wasEmpty || p.get Fld.ME_CTRL.CHECK_EN (2 * c + engOf w) == 0 || !(b.cls == 1 || b.cls == 4) ||
          b.check.skip || nf.isSome || b.lapsed || b.saturated
        let bad := if skip then none else b.mismatch
        let word := drainWord b wasEmpty nf skip bad
        match p.writeLocal c (e.gs.getD 0 0).toNat (leBytes 8 word.toNat) with
        | (p, .fail st) => .fault (empty p) st out.flatten
        | (_, .wait _) => .wait
        | (p, .ok _) =>
          let p := p.setBank k { b with st := .empty, status := word }
          let p := p.trace (dieOf c) 1 1 (unitWord (dieOf c) c (engOf w)) (payload [(0, 8, word.toNat), (8, 8, tdBase o)])
          if bad.isSome then .fault (p.stopEngine c (engOf w) .checkMismatch) .checkMismatch out.flatten
          else match p.drainTrap c (engOf w) nf.isSome b.lapsed with
            | some st => .fault p st out.flatten
            | none => .done p out.flatten

/-! ### The current keeper and the ramp governor (R132 to R136) -/

/-- The physical engine that answers to engine `e` of core number `c`. -/
def Part.physEng (p : Part) (c e : Nat) : Nat := 2 * p.phys c + e

/-- The ledger at moment `t`: the steps granted in the 2,000 ticks before it, with sign. -/
def ledgerAt (l : List (Nat × Bool)) (t : Nat) : Int :=
  (l.filter (fun x => x.1 ≤ t && t < x.1 + 2000)).foldl (fun s x => if x.2 then s + 1 else s - 1) 0

/-- The ledger of a die now. -/
def Part.ledgerSum (p : Part) (d : Nat) : Int := ledgerAt (p.die d).ledger p.time.raw

/-- Whether a ledger value stays at or below the threshold (R136, R142). -/
def Part.ledgerFits (p : Part) (d : Nat) (v : Int) : Bool :=
  decide (v.natAbs * p.get Fld.RAMP_CTRL.I_STEP_MA d ≤ p.get Fld.RAMP_CTRL.THRESHOLD_A d * 1000)

/-- The moment from which the ledger of a die stays at or below the threshold, with the steps granted so far: it falls only as
a granted step leaves it; 0 where it never stood above. -/
def Part.ledgerEnd (p : Part) (d : Nat) : Nat :=
  let l := (p.die d).ledger
  l.foldl (fun m x => if p.ledgerFits d (ledgerAt l (x.1 + 1999)) then m else max m (x.1 + 2000)) 0

/-- Engines of a die with steps held, and whether one in a direction is held. -/
def Part.heldEngines (p : Part) (d : Nat) : List Nat :=
  (p.engines.filter (fun x => x.1 / 128 == d && !x.2.held.isEmpty)).map (·.1)

/-- Steps held on a die (R143). -/
def Part.heldSteps (p : Part) (d : Nat) : Nat :=
  ((p.engines.filter (fun x => x.1 / 128 == d)).map (fun x => x.2.held.length)).foldl (· + ·) 0

def Part.heldDir (p : Part) (d : Nat) (rise : Bool) : Bool := (p.heldEngines d).any (fun e => (p.engine e).held.contains rise)

/-- Assert LSA_N of a die, or keep it asserted: the 2,000 ns after its causes count from now on (R136, R569). -/
def Part.assertLsa (p : Part) (d : Nat) : Part :=
  let x := p.die d
  let p := if x.lsa then p else p.bump Fld.RAMP_STATUS.LSA_COUNT d 1
  p.setDie d { x with lsa := true, lsaAt := if x.lsa then x.lsaAt else p.time.raw, lsaEnd := max x.lsaEnd p.time.raw }

/-- Carry out a granted step: the level changes and the ledger counts it. Steps that can bear on the ledger or on LSA_N
no more leave the ledger. -/
def Part.grantStep (p : Part) (pe : Nat) (rise : Bool) : Part :=
  let x := p.engine pe
  let p := p.setEngine pe { x with level := if rise then min 8 (x.level + 1) else x.level - 1 }
  p.modDie (pe / 128) (fun y => { y with
    ledger := y.ledger.filter (fun z => p.time.raw < z.1 + 4000) ++ [(p.time.raw, rise)] })

/-- Ask the governor for a step: granted at once, or held with LSA_N asserted, as is every later step in the same direction
(R136). -/
def Part.askStep (p : Part) (pe : Nat) (rise : Bool) : Part :=
  let d := pe / 128
  let x := p.engine pe
  if p.ledgerFits d (p.ledgerSum d + (if rise then 1 else -1)) && !p.heldDir d rise then p.grantStep pe rise
  else (p.setEngine pe { x with held := x.held ++ [rise] }).assertLsa d

/-- Lane level an engine reaches once the rises, or the falls, held for it are granted. -/
def EngineSt.risen (x : EngineSt) : Nat := x.level + (x.held.filter (fun b => b)).length

def EngineSt.fallen (x : EngineSt) : Nat := x.level - (x.held.filter (fun b => !b)).length

/-- Work reaches an engine: dummies end, and a level below 8 rises (R132, R134). -/
def Part.workArrives (p : Part) (pe : Nat) : Part :=
  let x := p.engine pe
  let p := p.setEngine pe { x with gap := false, window := false }
  if x.risen < 8 ∧ (x.gap ∨ x.level = 0) then p.askStep pe true else p

/-- Work leaves an engine: a gap begins with its dummy window (R132). -/
def Part.workLeaves (p : Part) (pe : Nat) : Part :=
  let x := p.engine pe
  if x.stopped then p else p.setEngine pe { x with gap := true, window := true }

/-- Work reaches, or leaves, an engine of every core that runs an instruction of core `c` (R443). -/
def Part.worksOn (p : Part) (c e : Nat) : Part := (p.runners c).foldl (fun p x => p.workArrives (p.physEng x e)) p

def Part.worksOff (p : Part) (c e : Nat) : Part := (p.runners c).foldl (fun p x => p.workLeaves (p.physEng x e)) p

/-- Whether an engine of a core has an MTX or WARM in flight; the engine of a follower runs its leader's. -/
def Part.hasWork (p : Part) (c e : Nat) : Bool :=
  ((p.core (p.issuer c)).flying (if e = 0 then .me0 else .me1)).any (fun f =>
    opOf f.e.word == 0x77 || (0x20 ≤ opOf f.e.word && opOf f.e.word ≤ 0x26))

/-- Whether an engine may ramp down: KEEPER_HOLD is clear, or the engine is STOPPED (R133, R138). -/
def Part.mayFall (p : Part) (e : Nat) : Bool :=
  let x := p.engine (p.physEng (e / 2) (e % 2))
  x.gap && x.fallen != 0 && (x.stopped || p.get Fld.ME_CTRL.KEEPER_HOLD e == 0)

/-- The gap outlasts KEEPER_WINDOW: dummies at full lanes end and the level falls by one eighth (R133). -/
def execKeeperWindowExpiry (e : Fin 512) (s : State) : Host.Outcome State Fault Refusal :=
  s.runReady (fun p =>
    let pe := p.physEng (e / 2) (e % 2)
    let x := p.engine pe
    if x.gap && x.window && p.get Fld.ME_CTRL.KEEPER_HOLD e == 0 then
      let p := p.setEngine pe { x with window := false }
      if x.fallen = 0 then p else p.askStep pe false
    else p)

/-- 256 further cycles of a gap pass: the level falls by one eighth more (R133). -/
def execKeeperLaneFall (e : Fin 512) (s : State) : Host.Outcome State Fault Refusal :=
  s.runReady (fun p =>
    let pe := p.physEng (e / 2) (e % 2)
    if p.mayFall e && !(p.engine pe).window then p.askStep pe false else p)

/-- 256 cycles with work below full lanes pass: the level rises by one eighth (R134, R135). -/
def execKeeperLaneRise (e : Fin 512) (s : State) : Host.Outcome State Fault Refusal :=
  s.runReady (fun p =>
    let pe := p.physEng (e / 2) (e % 2)
    if p.hasWork (e / 2) (e % 2) && (p.engine pe).risen < 8 && !(p.engine pe).stopped then p.askStep pe true else p)

/-- Grant the step an engine has held longest. -/
def Part.grantHeld (p : Part) (pe : Nat) : Part :=
  let x := p.engine pe
  match x.held with
  | b :: r => (p.setEngine pe { x with held := r }).grantStep pe b
  | [] => p

/-- LSA_N has been asserted for 2,000 ns: held steps are granted, one per engine, and one more per engine every 256 cycles
(R136). -/
def execGovernorHoldRelease (d : Fin 4) (s : State) : Host.Outcome State Fault Refusal :=
  s.runReady (fun p =>
    let held := p.heldEngines d
    if held.isEmpty then p
    else
      let p := held.foldl (fun p e => p.grantHeld e) (p.advanceTo ((p.die d).lsaAt + 2000))
      p.modDie d (fun x => { x with lsaEnd := max x.lsaEnd p.time.raw }))

/-- LSA_N deasserts 2,000 ns after the last held step and the ledger condition have ended (R136), and after a stretch that a
released DROOP_N leaves (R566, R569). -/
def execLsaRelease (d : Fin 4) (s : State) : Host.Outcome State Fault Refusal :=
  s.runReady (fun p =>
    let x := p.die d
    if x.lsa && (!x.stretch || x.droop) && (p.heldEngines d).isEmpty then
      (p.advanceTo (max x.lsaEnd (p.ledgerEnd d) + 2000)).modDie d (fun x => { x with lsa := false })
    else p)

end Sys2Proof.Machine
end

