-- ==== Sys2Proof/Machine/Packet.lean ====
section
/-! DEFINITION. Packets of the Larwald fabric (R361 to R366), routes and epochs (R367, R368, R387), and forming a transfer
at its source (R376, R385). -/

namespace Sys2Proof.Machine

/-! ### Formats -/

/-- The packet header (R362). -/
structure Hdr where
  dstNode : Nat
  dstUnit : Nat
  srcNode : Nat
  srcUnit : Nat
  seq : Nat
  xfer : Nat
  addr : Nat
  len : Nat
  offset : Nat
  epoch : Nat
  cls : Nat
  type : Nat
  hop : Nat
  flags : Nat
  deriving DecidableEq, Repr

def Hdr.bytes (h : Hdr) : List Byte :=
  leBytes 2 h.dstNode ++ leBytes 2 h.dstUnit ++ leBytes 2 h.srcNode ++ leBytes 2 h.srcUnit ++ leBytes 4 h.seq ++
    leBytes 4 h.xfer ++ leBytes 6 h.addr ++ leBytes 2 (h.len % 1024) ++ leBytes 4 h.offset ++
    leBytes 1 (h.epoch % 2 * 128 + h.cls % 4 * 32 + h.type % 32) ++ leBytes 1 (h.hop % 128) ++ leBytes 1 h.flags ++ [0]

/-- The header at the start of a packet. -/
def hdrOf (l : List Byte) : Hdr :=
  let b := fieldAt l 0x1C 1
  ⟨fieldAt l 0 2, fieldAt l 2 2, fieldAt l 4 2, fieldAt l 6 2, fieldAt l 8 4, fieldAt l 0xC 4, fieldAt l 0x10 6,
    fieldAt l 0x16 2 % 1024, fieldAt l 0x18 4, b / 128, b / 32 % 4, b % 32, fieldAt l 0x1D 1 % 128, fieldAt l 0x1E 1⟩

/-- The CRC over the 32 header bytes of a packet as they stand, with bytes 0x1D and 0x1E taken as 0, and a payload (R365). -/
def headCrc (l payload : List Byte) : List Byte :=
  leBytes 8 (crc64 (bytesAt l 0 0x1D ++ [0, 0] ++ bytesAt l 0x1F 1 ++ payload)).toNat

/-- The CRC that the source of a packet computes. -/
def packetCrc (h : Hdr) (payload : List Byte) : List Byte := headCrc h.bytes payload

def packetOf (h : Hdr) (payload : List Byte) : List Byte :=
  let h := { h with len := payload.length }
  h.bytes ++ payload ++ packetCrc h payload

def pktPayload (l : List Byte) : List Byte := bytesAt l 32 (hdrOf l).len

/-- Whether a packet passes the check of R365. -/
def crcOk (l : List Byte) : Bool :=
  bytesAt l (32 + (hdrOf l).len) 8 == headCrc l (pktPayload l)

/-- A packet with HOP and FLAGS of a header; every other byte and the CRC are kept. -/
def withHdr (l : List Byte) (h : Hdr) : List Byte :=
  bytesAt l 0 0x1D ++ leBytes 1 (fieldAt l 0x1D 1 / 128 * 128 + h.hop % 128) ++ leBytes 1 h.flags ++ l.drop 0x1F

/-- Types and classes R363 admits: class 0 deflect, 1 circuit, 2 control. -/
def typeOk (h : Hdr) : Bool :=
  ((h.type == 1 || h.type == 2) && (h.cls == 0 || h.cls == 1)) || (3 ≤ h.type && h.type ≤ 9 && h.cls == 2)

/-- DST_UNIT and SRC_UNIT (R364). -/
def bankUnit (d : Nat) : Nat := d * 2 ^ 14
def coreUnit (c : Nat) : Nat := dieOf c * 2 ^ 14 + 2 ^ 12 + c
def engineUnit (e : Nat) : Nat := e / 128 * 2 ^ 14 + 2 * 2 ^ 12 + e
def wardenUnit (d : Nat) : Nat := d * 2 ^ 14 + 3 * 2 ^ 12
def unitDie (u : Nat) : Nat := bits u 15 14
def unitKind (u : Nat) : Nat := bits u 13 12

/-! ### Routes (R368) and banks (R387) -/

structure Route where
  valid : Bool
  productive : Nat
  first : Nat
  second : Nat
  deriving DecidableEq, Repr

/-- The route entry for a node in a bank of a die. -/
def Part.route (p : Part) (d b node : Nat) : Route :=
  let w := (p.rd .ROUTE ((2 * d + b) * 32768 + node / 2)).toNat / 2 ^ (32 * (node % 2)) % 2 ^ 32
  ⟨bit w 31, bits w 29 24, bits w 22 20, bits w 18 16⟩

/-- State of a routing bank: 0 OPEN, 1 CONFIRMED, 2 LIVE (R387, R401). -/
def Part.bankState (p : Part) (d b : Nat) : Nat :=
  if b = 0 then p.get Fld.RT_STATUS.BANK0_STATE d else p.get Fld.RT_STATUS.BANK1_STATE d

def Part.setBankState (p : Part) (d b v : Nat) : Part :=
  if b = 0 then p.put Fld.RT_STATUS.BANK0_STATE d v else p.put Fld.RT_STATUS.BANK1_STATE d v

def Part.bankPorts (p : Part) (d b : Nat) : Nat :=
  if b = 0 then p.get Fld.RT_CTRL.BANK0_PORTS d else p.get Fld.RT_CTRL.BANK1_PORTS d

def Part.srcEpoch (p : Part) : Nat := p.get Fld.EPOCH_CTRL.SRC_EPOCH 0

/-- PORT_STATUS.STATE of port `port` (0 to 23). -/
def Part.portState (p : Part) (port : Nat) : Nat := p.get Fld.PORT_STATUS.STATE port

def Part.node (p : Part) : Nat := p.get Fld.FAB_NODE.NODE 0

/-- Whether a die's own bank can send to a node now: powered, the live epoch's bank valid for it (R367, R387). -/
def Part.canSend (p : Part) (d node : Nat) : Bool :=
  p.node != 0xFFFF && p.domainOn (36 + d) && p.bankState d p.srcEpoch == 2 && (p.route d p.srcEpoch node).valid

/-- The die whose bank sends a transfer of die `d`: its own, else the lowest-numbered that can (R367). -/
def Part.sendDie (p : Part) (d node : Nat) : Option Nat :=
  if p.canSend d node then some d else (List.range 4).find? (fun x => p.canSend x node)

/-! ### Circuits at their source (R366, R385, R404) -/

/-- The enabled source record of a die to a node. -/
def Part.circuitTo (p : Part) (d node : Nat) : Option Nat :=
  (List.range 1024).find? (fun r =>
    let i := 1024 * d + r
    p.get Fld.CIRCUIT.ENABLE i == 1 && p.get Fld.CIRCUIT.ROLE i == 0 && p.get Fld.CIRCUIT.PEER_NODE i == node)

/-- The enabled source record of a die with a circuit number and peer. -/
def Part.sourceRecord (p : Part) (d id node : Nat) : Option Nat :=
  (List.range 1024).find? (fun r =>
    let i := 1024 * d + r
    p.get Fld.CIRCUIT.ENABLE i == 1 && p.get Fld.CIRCUIT.ROLE i == 0 && p.get Fld.CIRCUIT.PEER_NODE i == node &&
      p.get Fld.CIRCUIT.CIRCUIT_ID i == id)

/-- The header a tag expands to under a template (R366). -/
def expandTag (t : Hdr) (offset len last : Nat) : Hdr :=
  { t with seq := (t.seq + offset) % 2 ^ 32, addr := (t.addr + 512 * offset) % 2 ^ 48, offset := offset, len := len,
           flags := last % 2 }

/-- A circuit tag (R366). -/
def tagOf (id offset len last bind : Nat) : List Byte :=
  leBytes 8 (id * 2 ^ 48 + offset * 2 ^ 16 + len * 2 ^ 6 + last % 2 * 2 ^ 5 + bind)

/-- Append a packet to a circuit's stream, opening it with a BIND tag where the template does not give its header. -/
def CircOut.push (x : CircOut) (pkt : List Byte) : CircOut :=
  let h := hdrOf pkt
  let pl := pktPayload pkt
  let last := h.flags % 2
  let put := fun (x : CircOut) => { x with
    tags := x.tags ++ [x.buf.length]
    buf := x.buf ++ tagOf x.id h.offset h.len last 0 ++ pl ++ packetCrc h pl }
  if x.template ≠ [] ∧ expandTag (hdrOf x.template) h.offset h.len last = { h with flags := last } then put x
  else
    let t : Hdr := { h with seq := (h.seq + 2 ^ 32 - h.offset % 2 ^ 32) % 2 ^ 32,
                            addr := (h.addr + 2 ^ 48 - 512 * h.offset % 2 ^ 48) % 2 ^ 48, offset := 0, len := 0, flags := 0 }
    put { x with
      tags := x.tags ++ [x.buf.length]
      buf := x.buf ++ tagOf x.id 0 0 0 1 ++ t.bytes ++ packetCrc t []
      template := t.bytes }

/-! ### Forming a transfer -/

/-- A block of a transfer: address and payload. -/
structure Block where
  addr : Nat
  data : List Byte
  deriving DecidableEq, Repr

def Part.modFab (p : Part) (d : Nat) (f : FabSt → FabSt) : Part := p.modDie d (fun x => { x with fab := f x.fab })

/-- Hand a formed packet to the engine of die `d`, or to a circuit. -/
def Part.emit (p : Part) (d : Nat) (circuit : Option Nat) (pkt : List Byte) : Part :=
  match circuit with
  | none => p.modFab d (fun f => { f with inject := f.inject ++ [pkt] })
  | some r =>
    let id := p.get Fld.CIRCUIT.CIRCUIT_ID (1024 * d + r)
    p.modFab d (fun f =>
      let x := (f.circOut.find? (fun y => y.id == id)).getD ⟨id, [], [], [], []⟩
      { f with circOut := { x with queue := x.queue ++ [pkt] } :: f.circOut.filter (fun y => y.id != id) })

/-- Form the packets of a transfer, one block after another, each under the next SEQ of the stream (R376). -/
def Part.formBlocks (p : Part) (d : Nat) (h : Hdr) (circuit : Option Nat) (n : Nat) (bs : List Block) : Part :=
  match bs with
  | [] => p
  | b :: r =>
    let f := (p.die d).fab
    let seq := Tab.get 0 f.nextSeq h.dstNode
    let pkt := packetOf { h with seq := seq, addr := b.addr, offset := n, flags := bnat r.isEmpty } b.data
    let s : SentPkt := ⟨h.dstNode, h.xfer, seq, n, pkt, 0, false, circuit, false⟩
    let p := p.modFab d (fun f => { f with
      nextSeq := Tab.set 0 f.nextSeq h.dstNode ((seq + 1) % 2 ^ 32), sent := f.sent ++ [s] })
    (p.emit d circuit pkt).formBlocks d h circuit (n + 1) r

/-- Open a transfer at die `d`'s bank: its packets are formed with the epoch in force (R376, R385). Answers whether a bank
can send it (R367); SRC_UNIT carries the die of the bank that numbers the packets. -/
def Part.fabSend (p : Part) (d node dstUnit srcUnit type : Nat) (who : SendFor) (circuit : Option Nat)
    (bs : List Block) : Part × Bool :=
  match p.sendDie d node with
  | none => (p, false)
  | some s =>
    let circuit := if s = d then circuit else none
    let x := (p.die s).fab.nextXfer
    let cls := if 3 ≤ type then 2 else if circuit.isSome then 1 else 0
    let h : Hdr := ⟨node, dstUnit, p.node, s * 2 ^ 14 + srcUnit % 2 ^ 14, 0, x, 0, 0, 0, p.srcEpoch, cls, type, 0, 0⟩
    let p := p.modFab s (fun f => { f with
      nextXfer := (f.nextXfer + 1) % 2 ^ 32, sends := f.sends ++ [⟨node, dstUnit, x, who, bs.length, [], false⟩] })
    (p.formBlocks s h circuit 0 bs, true)

/-- Send a control packet of die `d` that is not itself acknowledged: ACK, NACK, RELEASE (R363); it leaves through the die's own
bank, or is handed to another that can send it (R367). -/
def Part.fabControl (p : Part) (d node dstUnit type xfer : Nat) (payload : List Byte) : Part :=
  match p.sendDie d node with
  | some s => p.emit s none (packetOf ⟨node, dstUnit, p.node, bankUnit d, 0, xfer, 0, 0, 0, p.srcEpoch, 2, type, 0, 1⟩ payload)
  | none => p

/-- The payload of a SIG packet (R363). -/
def sigPayload (core tok amount : Nat) : List Byte :=
  leBytes 8 (amount % 256 + tok % 64 * 2 ^ 8 + core % 256 * 2 ^ 16)

/-- Send a SIG to another node from core `c` (R73). -/
def Part.sendSig (p : Part) (c node core tok amount : Nat) (who : SendFor) : Part × Bool :=
  p.fabSend (dieOf c) node (coreUnit (core % 256)) (coreUnit c) 3 who none [⟨0, sigPayload core tok amount⟩]

end Sys2Proof.Machine
end

