-- ==== Sys2Proof/Machine/Relay.lean ====
section
/-! DEFINITION. Relay transfers (R182 to R187, R192 to R194, R233, R599): naming the partner, issue checks, the rendezvous,
the tile transfer with or without merge, refusal, and timeout. -/

namespace Sys2Proof.Machine

/-! ### The partner an instruction names (R183, R233) -/

/-- A partner: an engine of this part by global number, a chain position of another cluster of this part, or an engine or
position of another part. -/
inductive Partner where
  | engine (e : Nat)
  | position (cluster m : Nat)
  | remote (node cluster num : Nat) (pos : Bool)
  deriving DecidableEq, Repr

/-- g[G_PART] as captured at dispatch. -/
def partWord (e : QEntry) : Nat := (e.gs.getD 0 0).toNat

def Part.partner (p : Part) (c : Nat) (e : QEntry) : Partner :=
  let k := clusterOf c
  if pmodeOf e.word ≠ 2 then .engine (16 * k + e.partner)
  else
    let g := partWord e
    let k2 := 8 * bits g 17 16 + bits g 20 18
    if !p.isSelf (bits g 15 0) then .remote (bits g 15 0) k2 (bits g 24 21) (bit g 25)
    else if bit g 25 ∧ k2 ≠ k then .position k2 (bits g 24 21)
    else .engine (16 * k2 + e.partner)

/-- The engine a partner names now; none for a position at or above CHAIN_WIDTH, or another part. -/
def Part.partnerEngine (p : Part) (c : Nat) (e : QEntry) : Option Nat :=
  match p.partner c e with
  | .engine x => some x
  | .position k m => (p.chainAt k m).map (fun i => 16 * k + i)
  | .remote _ _ _ _ => none

/-- Global engine number of an instruction's own engine. -/
def ownEngine (c : Nat) (w : Word) : Nat := 2 * c + engOf w

def isSend (e : QEntry) : Bool := opOf e.word == 0x33
def isRecv (e : QEntry) : Bool := opOf e.word == 0x34
def isRelay (e : QEntry) : Bool := isSend e || isRecv e

/-- The RETIREMENT event for a chain position that does not exist (R194, R520). -/
def Part.shortEvent (p : Part) (k m : Nat) : Part :=
  p.event .retirement .retiredUnit (unitWord (k / 8) k 0xFF) (2 ^ 63 + p.chainWidth k * 2 ^ 16 + m)

/-- Relay issue checks in the order of R233. -/
def Part.relayCheck (p : Part) (c : Nat) (e : QEntry) (b : Bank) : Option Status :=
  let w := e.word
  let gone := fun (x : Nat) => p.engineGone (x / 2) (x % 2)
  if p.engineGone c (engOf w) then some .retiredUnit
  else if pmodeOf w = 2 ∧ partWord e / 2 ^ 26 ≠ 0 then some .range
  else if e.badPos then some .retiredUnit
  else if (match p.partner c e with | .engine x => gone x | _ => false) then some .retiredUnit
  else if isRecv e && xbOf w == 1 && b.st == .empty then some .conflict
  else none

/-! ### Relay instructions in flight -/

/-- A relay instruction in flight: its core, unit and record. -/
structure RelayRef where
  core : Nat
  unit : EUnit
  fly : Fly
  deriving DecidableEq, Repr

/-- Every relay instruction in flight of the cores listed. -/
def Part.relays (p : Part) : List RelayRef :=
  p.cores.flatMap (fun x =>
    ((x.2.flying .me0).filter (fun f => isRelay f.e)).map (fun f => ⟨x.1, .me0, f⟩) ++
    ((x.2.flying .me1).filter (fun f => isRelay f.e)).map (fun f => ⟨x.1, .me1, f⟩))

/-- Whether a SEND and a RECV of this part name each other (R183). -/
def Part.pairs (p : Part) (s r : RelayRef) : Bool :=
  isSend s.fly.e && isRecv r.fly.e &&
  p.partnerEngine s.core s.fly.e == some (ownEngine r.core r.fly.e.word) &&
  p.partnerEngine r.core r.fly.e == some (ownEngine s.core s.fly.e.word) &&
  xbOf s.fly.e.word == bankOf r.fly.e.word

/-- The other end of a relay instruction, among those in state `st`: the earliest dispatched. -/
def Part.mate (p : Part) (x : RelayRef) (st : FlySt) : Option RelayRef :=
  p.relays.find? (fun y => y.fly.st == st && (p.pairs x y || p.pairs y x))

/-- Change the state of an instruction in flight, found by its dispatch number. -/
def Part.setFlySt (p : Part) (c : Nat) (u : EUnit) (order : Nat) (st : FlySt) : Part :=
  p.modCore c (fun x => x.setFlying u ((x.flying u).map (fun f => if f.e.order = order then { f with st := st } else f)))

/-- Take an instruction out of flight. -/
def Part.dropFly (p : Part) (c : Nat) (u : EUnit) (order : Nat) : Part :=
  p.modCore c (fun x => x.setFlying u ((x.flying u).filter (fun f => f.e.order != order)))

/-- Whether another filling instruction is in flight on a bank of core `c` (R113). -/
def Part.fillsLeft (p : Part) (c : Nat) (w : Word) : Bool :=
  ((p.core c).flying (meOf w)).any (fun f => bankOf f.e.word == bankOf w && opOf f.e.word != 0x77 &&
    opOf f.e.word != 0x32 && opOf f.e.word != 0x33)

/-- The bank of an ended filling instruction is FULL once no other is in flight on it (R113). -/
def Part.settleBank (p : Part) (c : Nat) (w : Word) : Part :=
  let k := bankNo c w
  if (p.bank k).st = .filling ∧ !p.fillsLeft c w then p.setBank k { p.bank k with st := .full } else p

/-! ### Ending a relay instruction in a fault (R186, R187, R233) -/

/-- Put back the bank that a relay instruction of core `c` changed in core `x`; another fill in flight keeps it FILLING. -/
def Part.putBack (p : Part) (c x : Nat) (w : Word) (b : Option Bank) : Part :=
  match b with
  | some b => p.setBank (bankNo x w) (if p.fillsLeft c w then { b with st := .filling } else b)
  | none => p

/-- End a relay instruction with an execution fault: its bank, and a follower's, return to what they were before issue, the
engine is not stopped. -/
def Part.failRelay (p : Part) (x : RelayRef) (st : Status) : Part :=
  let w := x.fly.e.word
  let p := (p.dropFly x.core x.unit x.fly.e.order).putBack x.core x.core w x.fly.prior
  let p := match p.follower x.core with
    | some f => p.putBack x.core f w x.fly.twin
    | none => p
  p.fault x.core (some x.unit) .execution w x.fly.e.pc false
    { FaultRec.plain st (some x.unit) with relaySend := isSend x.fly.e }

/-! ### The tile (R182, R187) -/

/-- The header of a relay tile for another part: the sender's status word with DEPTH, class and flags, the destination
bank, whether the unit is named by chain position, and the chain position of the sender, 0xFF for none (R185; the spec does
not place its fields, log entry 18). -/
def relayHeader (b : Bank) (xb : Nat) (pos : Bool) (own : Option Nat) : List Byte :=
  leBytes 8 (statusWord b.depth b.cls b.lapsed b.saturated).toNat ++ leBytes 1 xb ++ leBytes 1 (bnat pos) ++
    leBytes 1 (own.getD 0xFF) ++ List.replicate 53 0

/-- MODE_CLASS of a merge, none where it is refused (R187). -/
def mergeClass (arriving own : Nat) : Option Nat :=
  if arriving = own then (if arriving = 0 then none else some arriving)
  else if arriving = 0 then some own
  else if own = 0 then some arriving
  else none

/-- One merged element (R187), and whether it saturated. -/
def mergeElem (cls : Nat) (r l : BitVec 32) : BitVec 32 × Bool :=
  if cls = 4 then
    let v := clamp32 (signed 32 r.toNat + signed 32 l.toNat)
    (BitVec.ofNat 32 (codeOfInt v.1), v.2)
  else if cls = 1 then (BitVec.ofNat 32 (f32Add r.toNat l.toNat), false)
  else (BitVec.ofNat 32 (f32MinMax (cls == 3) false r.toNat l.toNat), false)

/-- Keys of elements that may differ from a bank's fill in either bank. -/
def tileKeys (a b : Bank) : List Nat := if a.fill = b.fill then (a.cells.map (·.1) ++ b.cells.map (·.1)) else List.range 16384

/-- Whether some element is listed in neither of two banks of one fill. -/
def Bank.unlisted (a b : Bank) : Bool :=
  a.fill == b.fill && decide (a.cells.length + (b.cells.filter (fun x => (Tab.find? a.cells x.1).isNone)).length < 16384)

/-- The bank after a tile arrived without merge: elements, DEPTH, class and flags of the sender (R182). A class bound
behind it stays when the arriving class is unbound. -/
def Bank.received (b : Bank) (fill : BitVec 32) (cells : Tab (BitVec 32)) (status : Word) : Bank :=
  let a : Bank := { b with fill := fill, cells := cells, status := status }
  let cls := if a.cls = 0 then b.cls else a.cls
  let n : Bank := { a with status := statusWord a.depth cls a.lapsed a.saturated }
  { n with check := n.recorded }

/-- The bank after a merge (R187). -/
def Bank.merged (b : Bank) (fill : BitVec 32) (cells : Tab (BitVec 32)) (status : Word) (cls : Nat) : Bank :=
  let a : Bank := { b with fill := fill, cells := cells, status := status }
  let f := mergeElem cls fill b.fill
  let base : Bank := { b with fill := f.1, cells := [] }
  let r := (tileKeys a b).foldl (fun (s : Bank × Bool) k =>
    let v := mergeElem cls (a.elem k) (b.elem k)
    (s.1.setElem k v.1, s.2 || v.2)) (base, f.2 && a.unlisted b)
  let n : Bank := { r.1 with
    status := statusWord (a.depth + b.depth + 1) cls (a.lapsed || b.lapsed) (a.saturated || b.saturated || r.2) }
  { n with check := n.recorded }

/-- Deliver a tile to the bank of a RECV (R182, R187). -/
def Part.deliverTile (p : Part) (c : Nat) (w : Word) (fill : BitVec 32) (cells : Tab (BitVec 32)) (status : Word) : Part :=
  let k := bankNo c w
  let b := p.bank k
  let a : Bank := { b with status := status }
  if xbOf w = 0 then p.setBank k (b.received fill cells status)
  else p.setBank k (b.merged fill cells status ((mergeClass a.cls b.cls).getD 1))

/-! ### The rendezvous (R183) -/

/-- A waiting instruction that `x` names, bank by bank, and that names `x`'s cluster by a chain position which does not exist
now: that position, and the instruction. -/
def Part.lostMate (p : Part) (x : RelayRef) : Option (Nat × RelayRef) :=
  p.relays.findSome? (fun y =>
    let s := if isSend x.fly.e then x else y
    let r := if isSend x.fly.e then y else x
    match p.partner y.core y.fly.e with
    | .position k m =>
      if y.fly.st == .relayWait && isSend s.fly.e && isRecv r.fly.e && k == clusterOf x.core && (p.chainAt k m).isNone &&
          p.partnerEngine x.core x.fly.e == some (ownEngine y.core y.fly.e.word) && xbOf s.fly.e.word == bankOf r.fly.e.word
      then some (m, y) else none
    | _ => none)

/-- Try to pair a waiting relay instruction of this part: a position of another cluster that does not exist, named by it or
by the one it would pair with, ends the namer with RETIRED_UNIT (R194, R233); a merge whose classes do not agree is refused
(R187). -/
def Part.tryPair (p : Part) (x : RelayRef) : Part :=
  match p.partner x.core x.fly.e, p.partnerEngine x.core x.fly.e with
  | .position k m, none => (p.shortEvent k m).failRelay x .retiredUnit
  | _, _ =>
    match p.mate x .relayWait with
    | none => match p.lostMate x with
      | some (m, y) => (p.shortEvent (clusterOf x.core) m).failRelay y .retiredUnit
      | none => p
    | some y =>
      let s := if isSend x.fly.e then x else y
      let r := if isSend x.fly.e then y else x
      if xbOf r.fly.e.word = 1 ∧
          (mergeClass (p.bank (bankNo s.core s.fly.e.word)).cls (p.bank (bankNo r.core r.fly.e.word)).cls).isNone then
        (p.failRelay s .conflict).failRelay r .conflict
      else (p.setFlySt s.core s.unit s.fly.e.order .relayMove).setFlySt r.core r.unit r.fly.e.order .relayMove

/-- The blocks of a tile sent to another part: the header, then 128 blocks of 512 bytes (R185, R363). -/
def tileBlocks (b : Bank) (xb : Nat) (pos : Bool) (own : Option Nat) : List Block :=
  ⟨0, relayHeader b xb pos own⟩ :: (List.range 128).map (fun i => ⟨0, b.bytes (512 * i) 512⟩)

/-- The DST_UNIT of a remote partner: an engine of its cluster, by number or by chain position (R364, log entry 18). -/
def remoteUnit (cluster num : Nat) : Nat := engineUnit (16 * cluster + num)

/-- Start a relay to another part: a SEND hands its tile to the die's bank (R185); a RECV waits for packets. -/
def Part.startRemote (p : Part) (x : RelayRef) (node cluster num : Nat) (pos : Bool) : Part :=
  if isRecv x.fly.e then p
  else
    let d := dieOf x.core
    let b := p.bank (bankNo x.core x.fly.e.word)
    let r := p.fabSend d node (remoteUnit cluster num) (engineUnit (ownEngine x.core x.fly.e.word)) 2
      (.relay x.core (engOf x.fly.e.word) x.fly.e.order) (p.circuitTo d node)
      (tileBlocks b (xbOf x.fly.e.word) pos (p.positionOf (ownEngine x.core x.fly.e.word)))
    if r.2 then r.1 else p.failRelay x .range

/-- A relay instruction has just issued: it looks for its partner. -/
def Part.relayIssued (p : Part) (x : RelayRef) : Part :=
  match p.partner x.core x.fly.e with
  | .remote node k n pos => p.startRemote x node k n pos
  | _ => p.tryPair x

/-- Mark the end-to-end transfers of a requester ended, so that what is told of them later changes nothing. -/
def Part.endSends (p : Part) (who : SendFor) : Part :=
  let end_ := fun (t : SendXfer) => if t.who = who then { t with ended := true } else t
  let f := fun (x : Nat × DieSt) => (x.1, { x.2 with fab := { x.2.fab with sends := x.2.fab.sends.map end_ } })
  { p with dies := p.dies.map f }

/-- RELAY_WAIT_LIMIT expires for a waiting relay instruction (R186). -/
def Part.relayTimeout (p : Part) (x : RelayRef) : Part :=
  let p := p.bump Fld.RELAY_STATUS.TIMEOUT_COUNT (clusterOf x.core) 1
  (p.endSends (.relay x.core (engOf x.fly.e.word) x.fly.e.order)).failRelay x .timeout

/-- A relay instruction that waits has waited RELAY_WAIT_LIMIT x 1,024 cycles (R186): `i` counts those in flight in its
unit. A limit of 0 lets it wait without limit. -/
def execRelayWaitTimeout (c : Fin 256) (e : Fin 2) (i : Nat) (s : State) : Host.Outcome State Fault Refusal :=
  s.runReady (fun p =>
    let u : EUnit := if e = 0 then .me0 else .me1
    match ((p.core c).flying u)[i]? with
    | some f =>
      if isRelay f.e && (f.st == .relayWait || f.st == .relayAsk) && p.get Fld.RELAY_CTRL.RELAY_WAIT_LIMIT (clusterOf c) != 0 then
        p.relayTimeout ⟨c, u, f⟩
      else p
    | none => p)

end Sys2Proof.Machine
end

