-- ==== Sys2Proof/Machine/Ring.lean ====
section
/-! DEFINITION. The ring of a die's update unit: its header, what stops it, and the writes that wake the unit (R333 to R335).
-/

namespace Sys2Proof.Machine

/-! ### The ring (R333 to R335) -/

def Part.ringBase (p : Part) (d : Nat) : Nat := p.get Fld.UPD_RING.BASE d * 4096
def Part.ringSize (p : Part) (d : Nat) : Nat := 2 ^ p.get Fld.UPD_RING.SIZE_LOG2 d

/-- Stop the ring (R335). -/
def Part.stopRing (p : Part) (d : Nat) (st : Status) : Part :=
  ((p.put Fld.UPD_STATUS.RING_STOPPED d 1).put Fld.UPD_STATUS.RING_ERR_STATUS d st.code).event .fault st (unitWord d 0 0xFF)
    (p.ringBase d)

/-- The parts of a range that lie in one 64 KiB piece each. -/
def pieces64k (a n : Nat) : List (Nat × Nat) :=
  if n = 0 then []
  else (List.range ((a + n - 1) / 65536 + 1 - a / 65536)).map (fun i =>
    let lo := max a (65536 * (a / 65536 + i))
    (lo, min (a + n) (65536 * (a / 65536 + i) + 65536) - lo))

/-- What stops a ring whose pages are these: one that fails translation, or lies outside the die's HBM (R335). -/
def Part.ringPages (p : Part) (d : Nat) (ps : List (Nat × Nat)) : Option Status :=
  ps.findSome? (fun x => match (p.translate d .updRd x.1).2 with
    | .fail st => some st
    | .ok a => if whereIs a = .hbm d then none else some .protFault
    | .wait _ => none)

/-- Read PRODUCER and CONSUMER, or what stops the ring; a wait reads as none. -/
def Part.ringHeader (p : Part) (d : Nat) : Part × Option (Except Status (Nat × Nat)) :=
  let base := p.ringBase d
  match p.ringPages d (pieces64k base (0x100 + 256 * p.ringSize d)) with
  | some st => (p, some (.error st))
  | none =>
    match p.readDva d .updRd base 16 with
    | (q, .ok l) =>
      let pr := fieldAt l 0 4
      let co := fieldAt l 8 4
      if p.ringSize d < (pr + 2 ^ 32 - co) % 2 ^ 32 then (q, some (.error .range)) else (q, some (.ok (pr, co)))
    | (q, .fail st) => (q, some (.error st))
    | (q, .wait _) => (q, none)

def Part.ringServed (p : Part) (d : Nat) : Bool :=
  p.get Fld.UPD_RING.ENABLE d == 1 && p.get Fld.UPD_STATUS.RING_STOPPED d == 0

/-- The unit of die `d` looks at its ring (R334): an error stops it, else it takes its copy of CONSUMER (R356). -/
def Part.wakeRing (p : Part) (d : Nat) : Part :=
  if !p.ringServed d then p
  else match p.ringHeader d with
    | (q, some (.error st)) => q.stopRing d st
    | (q, some (.ok (_, co))) => q.put Fld.UPD_STATUS.CONSUMER d co
    | (_, none) => p

/-- A write of `n` bytes at a DVA wakes the units whose PRODUCER word it covers (R334). -/
def Part.wakeBy (p : Part) (dva n : Nat) : Part :=
  (List.range 4).foldl (fun p d => if meets dva n (p.ringBase d) 4 then p.wakeRing d else p) p

/-- A write through translation of die `d` that wakes the update units it concerns (R334). -/
def Part.writeWake (p : Part) (d : Nat) (rq : Req) (dva : Nat) (l : List Byte) : Part × Acc Unit :=
  match p.writeDva d rq dva l with
  | (p, .ok u) => (p.wakeBy dva l.length, .ok u)
  | x => x

end Sys2Proof.Machine
end

