-- ==== Sys2Proof/Machine/Tandem.lean ====
section
/-! DEFINITION. Tandem mode (R438 to R442): course digests, digest records, the match table and mismatches. -/

namespace Sys2Proof.Machine

def Part.tandemOn (p : Part) : Bool := p.get Fld.TANDEM_CTRL.ENABLE 0 == 1

/-- A digest record (R440). -/
def digestRecord (key : Word) (k events flags : Nat) (digest : Word) (raw : Nat) : List Byte :=
  leBytes 8 key.toNat ++ leBytes 4 k ++ leBytes 2 events ++ leBytes 1 flags ++ [0] ++ leBytes 8 digest.toNat ++ leBytes 8 raw

/-- Send 32 bytes to the warden of die 0 of the tandem peer (R440). -/
def Part.toPeer (p : Part) (l : List Byte) : Part :=
  (p.fabSend 0 (p.get Fld.TANDEM_CTRL.PEER_NODE 0) (wardenUnit 0) (wardenUnit 0) 1 .tandem none [⟨0, l⟩]).1

/-- A mismatch, found here or told by the peer (R442). -/
def Part.mismatch (p : Part) (st : Status) (key : Word) (k : Nat) (byNotice : Bool) : Part :=
  let p := if p.get Fld.TANDEM_STATUS.MISMATCH 0 = 1 then p
    else
      (((p.put Fld.TANDEM_STATUS.MISMATCH 0 1).put Fld.TANDEM_STATUS.MISMATCH_STATUS 0 st.code).put
        Fld.TANDEM_STATUS.MISMATCH_INTERVAL 0 k |>.put Fld.TANDEM_STATUS.PEER_REPORTED 0 (bnat byNotice)).put
        Fld.TANDEM_KEY.KEY 0 key.toNat
  let p := p.put Fld.TANDEM_STATUS.HALTED 0 1
  let p := if byNotice then p else p.toPeer (digestRecord key k 0 2 (BitVec.ofNat 64 st.code) p.time.raw)
  p.event .tandem st (unitWord 0xFF 0 0xFF) k

/-- Bring a record of one side to the match table (R441). -/
def Part.matchDigest (p : Part) (m : MatchRec) : Part :=
  match p.time.table.find? (fun x => x.own != m.own && x.key == m.key && x.interval == m.interval) with
  | some x =>
    let p := { p with time := { p.time with table := p.time.table.erase x } }
    if x.digest = m.digest ∧ x.events = m.events then p else p.mismatch .checkMismatch m.key m.interval false
  | none => { p with time := { p.time with table := p.time.table ++ [m] } }

/-- The match table has no room for a local record (R441). -/
def Part.tableFull (p : Part) : Bool := p.tandemOn && decide (4096 ≤ p.time.table.length)

/-- Close an interval: its record goes to the trace of die `d`, to the peer and to the match table (R440, R441). -/
def Part.closeInterval (p : Part) (d unit flags : Nat) (x : Interval) : Part :=
  let r := digestRecord x.key x.k x.count flags x.sum p.time.raw
  let p := (p.trace d 4 1 unit (bytesAt r 0 16)).trace d 4 2 unit (bytesAt r 16 16)
  (p.toPeer r).matchDigest ⟨true, x.key, x.k, x.count, x.sum⟩

/-- Close the intervals of a core that hold all their events, or every interval at TASK.END; none while its span is open
(R439, R459). -/
def Part.closeIntervals (p : Part) (c : Nat) (all : Bool) : Part :=
  let n := p.get Fld.TANDEM_CTRL.INTERVAL_EVENTS 0
  let x := p.core c
  if x.span.isSome then p
  else
    let done := x.intervals.filter (fun i => all || decide (n ≤ i.count))
    let p := p.setCore c { x with intervals := x.intervals.filter (fun i => !(all || decide (n ≤ i.count))) }
    done.foldl (fun p i => p.closeInterval (dieOf c) (unitWord (dieOf c) c 0xFF) 0 i) p

/-- Add one event to its interval (R439). -/
def addEvent (key : Word) (k : Nat) (h : Word) (l : List Interval) : List Interval :=
  match l.find? (fun i => i.k == k) with
  | some i => { i with count := i.count + 1, sum := i.sum + h } :: l.filter (fun j => j.k != k)
  | none => ⟨key, k, 1, h⟩ :: l

/-- An event-producing instruction of a task completes: its record, after the event index, is digested (R438, R439). -/
def Part.digest (p : Part) (c : Nat) (index : Nat) (rec_ : List Byte) : Part :=
  if !p.tandemOn then p
  else
    let n := max 1 (p.get Fld.TANDEM_CTRL.INTERVAL_EVENTS 0)
    let h := crc64 (leBytes 8 index ++ rec_)
    (p.modCore c (fun x => { x with intervals := addEvent x.key (index / n) h x.intervals })).closeIntervals c false

/-- An update pass completes: it is a stream of its own, one event in one interval (R438, R439). -/
def Part.digestPass (p : Part) (d ring : Nat) (rec_ : List Byte) : Part :=
  if !p.tandemOn then p
  else
    let key : Word := BitVec.ofNat 64 (d * 2 ^ 32 + ring)
    p.closeInterval d (unitWord d 0 0xFF) 1 ⟨key, 0, 1, crc64 (leBytes 8 ring ++ rec_)⟩

end Sys2Proof.Machine
end

