-- ==== Sys2Proof/Machine/Mover.lean ====
section
/-! DEFINITION. The tensor mover (R300 to R325): descriptors and their checks, walk order and blocks, conversion and
transposition, task posts, transfers to another part, atomic adds, and completion with its status record. -/

namespace Sys2Proof.Machine

/-! ### The descriptor (R303, R304) -/

structure MDesc where
  src : Nat
  dst : Nat
  dstNode : Nat
  size : List Nat
  inFmt : Nat
  outFmt : Nat
  swap : Bool
  conv : Nat
  remoteDie : Nat
  post : Bool
  stream : Nat
  sStride : List Nat
  dStride : List Nat
  completion : Nat
  statusPtr : Nat
  seed : Word
  step : Nat
  handle : Nat
  base : Nat
  deriving DecidableEq, Repr

def mdescOf (l : List Byte) : MDesc :=
  let b := fieldAt l 0x25 1
  let six := fun (o : Nat) => (List.range 4).map (fun i => fieldAt l (o + 6 * i) 6)
  ⟨fieldAt l 0 6, fieldAt l 8 6, fieldAt l 0x0E 2, (List.range 5).map (fun i => fieldAt l (0x10 + 4 * i) 4),
    fieldAt l 0x24 1 % 16, fieldAt l 0x24 1 / 16, bit b 7, bits b 6 4, bits b 3 2, bit b 1, fieldAt l 0x26 2,
    six 0x28, six 0x40, fieldAt l 0x58 8, fieldAt l 0x60 8, BitVec.ofNat 64 (fieldAt l 0x68 8), fieldAt l 0x70 4,
    fieldAt l 0x74 2, fieldAt l 0x78 6⟩

def MDesc.n (m : MDesc) (i : Nat) : Nat := m.size.getD i 1

/-- Destination dimensions (R304). -/
def MDesc.d (m : MDesc) (i : Nat) : Nat :=
  if m.swap ∧ i = 0 then m.n 1 else if m.swap ∧ i = 1 then m.n 0 else m.n i

/-- Strides of dimension i = 1 to 4. -/
def MDesc.ss (m : MDesc) (i : Nat) : Nat := m.sStride.getD (i - 1) 0
def MDesc.ds (m : MDesc) (i : Nat) : Nat := m.dStride.getD (i - 1) 0

def MDesc.fin (m : MDesc) : Fmt := (Fmt.ofCode m.inFmt).getD .fp32
def MDesc.fout (m : MDesc) : Fmt := (Fmt.ofCode m.outFmt).getD .fp32

def MDesc.bs (m : MDesc) : Nat := rowBytes m.fin (m.n 0)
def MDesc.bd (m : MDesc) : Nat := rowBytes m.fout (m.d 0)

def MDesc.srcReach (m : MDesc) : Nat := ([1, 2, 3, 4] : List Nat).foldl (fun s i => s + m.ss i * (m.n i - 1)) m.bs
def MDesc.dstReach (m : MDesc) : Nat := ([1, 2, 3, 4] : List Nat).foldl (fun s i => s + m.ds i * (m.d i - 1)) m.bd

def Part.toOther (p : Part) (m : MDesc) : Bool := !m.post && !p.isSelf m.dstNode

/-- Reserved bits and the amount of an enabled completion token (R305, DETAIL 1). -/
def mdescReserved (l : List Byte) (m : MDesc) : Bool :=
  fieldAt l 6 2 == 0 && !bit (fieldAt l 0x25 1) 0 && fieldAt l 0x76 2 == 0 && fieldAt l 0x7E 2 == 0 &&
    bits m.completion 62 30 == 0 && bits m.completion 15 8 == 0 && (!bit m.completion 63 || bits m.completion 7 0 != 0) &&
    (if bit m.statusPtr 63 then bits m.statusPtr 62 24 == 0 else bits m.statusPtr 62 48 == 0) &&
    (!m.post || decide (m.dst < 32))

/-- The destination overlaps itself (R318). -/
def selfOverlap (m : MDesc) : Bool :=
  let dims := (([1, 2, 3, 4] : List Nat).filter (fun i => 1 < m.d i)).map (fun i => (m.ds i, m.d i))
  let sorted := dims.mergeSort (fun a b => a.1 ≤ b.1)
  (sorted.foldl (fun (s : Nat × Bool) x => (s.1 + x.1 * (x.2 - 1), s.2 || x.1 < s.1)) (m.bd, false)).2

/-- The two accepted overlaps: an exactly in-place transposition, and a 1-D copy (R320, R321). -/
def inPlace (m : MDesc) : Bool :=
  m.swap && m.src == m.dst && m.n 0 == m.n 1 && ([1, 2, 3, 4] : List Nat).all (fun i => m.ss i == m.ds i) &&
    m.fin.width == m.fout.width

def oneD (m : MDesc) : Bool := !m.swap && ([1, 2, 3, 4] : List Nat).all (fun i => m.n i == 1)

def srcDstOverlap (m : MDesc) : Bool := meets m.src m.srcReach m.dst m.dstReach

/-- The form of a task post (R322). -/
def Part.postForm (p : Part) (m : MDesc) : Bool :=
  !m.swap && m.n 0 == 64 && ([1, 2, 3, 4] : List Nat).all (fun i => m.n i == 1) && m.inFmt == 6 && m.outFmt == 6 &&
    p.isSelf m.dstNode

/-- Alignment of a side whose elements are bytes or wider (R305, DETAIL 4). -/
def sideAligned (f : Option Fmt) (a : Nat) (strides : List Nat) : Bool :=
  match f with
  | none => true
  | some f => if f.width < 8 then true else a % (f.width / 8) == 0 && strides.all (fun s => s % (f.width / 8) == 0)

/-- The checks of R305 in the order of its table: status and DETAIL of the first that fails. -/
def Part.mdescCheck (p : Part) (l : List Byte) : Option (Status × Nat) :=
  let m := mdescOf l
  let fi := Fmt.ofCode m.inFmt
  let fo := Fmt.ofCode m.outFmt
  let prod := m.size.foldl (· * ·) 1
  if !mdescReserved l m then some (.range, 1)
  else if m.size.any (· == 0) || decide (2 ^ 48 ≤ prod) then some (.range, 2)
  else if (fi.isSome && decide (2 ^ 48 < m.src + m.srcReach)) ||
      (fo.isSome && decide (2 ^ 48 < m.dst + m.dstReach)) then some (.range, 3)
  else if !sideAligned fi m.src m.sStride || !sideAligned fo m.dst m.dStride then some (.range, 4)
  else if m.statusPtr % 32 != 0 || (bit m.statusPtr 63 && !inData (bits m.statusPtr 23 0) 32) then some (.range, 5)
  else if fi.isNone || fo.isNone || roundOf m.conv == 3 then some (.unsupported, 1)
  else if m.post then (if p.postForm m then none else some (.unsupported, 2))
  else if selfOverlap m then some (.overlap, 2)
  else if p.isSelf m.dstNode && srcDstOverlap m && !inPlace m && !oneD m then some (.overlap, 1)
  else none

/-! ### Blocks (R306 to R311) -/

/-- A block: source byte runs, destination byte runs. -/
structure MBlock where
  src : List (Nat × Nat)
  dst : List (Nat × Nat)
  /-- (i4, i3, i2), first i1 and i0, and how many of each the block holds -/
  at_ : Nat × Nat × Nat
  i1 : Nat
  i0 : Nat
  n1 : Nat
  n0 : Nat
  deriving DecidableEq, Repr

def MDesc.srcRow (m : MDesc) (o : Nat × Nat × Nat) (i1 : Nat) : Nat :=
  m.src + o.1 * m.ss 4 + o.2.1 * m.ss 3 + o.2.2 * m.ss 2 + i1 * m.ss 1

def MDesc.dstRow (m : MDesc) (o : Nat × Nat × Nat) (j1 : Nat) : Nat :=
  m.dst + o.1 * m.ds 4 + o.2.1 * m.ds 3 + o.2.2 * m.ds 2 + j1 * m.ds 1

/-- Bytes of elements `[i, i + n)` of a row: offset and length. -/
def elemBytes (f : Fmt) (i n : Nat) : Nat × Nat := (i * f.width / 8, ceilDiv ((i + n) * f.width) 8 - i * f.width / 8)

/-- Outer indices (i4, i3, i2) in walk order. -/
def MDesc.outer (m : MDesc) : List (Nat × Nat × Nat) :=
  (List.range (m.n 4)).flatMap (fun a => (List.range (m.n 3)).flatMap (fun b => (List.range (m.n 2)).map (fun c => (a, b, c))))

/-- Blocks of a transfer without SWAP: parts of destination rows within aligned 256-byte lines (R307). -/
def MDesc.rowBlocks (m : MDesc) (o : Nat × Nat × Nat) (i1 : Nat) : List MBlock :=
  let row := m.dstRow o i1
  (linesOf row m.bd).map (fun x =>
    let i0 := (x.1 - row) * 8 / m.fout.width
    let n0 := min (m.n 0) ((x.1 + x.2 - row) * 8 / m.fout.width) - i0
    let s := elemBytes m.fin i0 n0
    ⟨[(m.srcRow o i1 + s.1, s.2)], [x], o, i1, i0, 1, n0⟩)

/-- The tile side E (R310). -/
def tileSide (f : Fmt) : Nat := if f.width ≤ 8 then 64 else if f.width = 16 then 32 else 16

/-- One exchange tile (R311). -/
def MDesc.tileBlock (m : MDesc) (o : Nat × Nat × Nat) (t0 t1 : Nat) : MBlock :=
  let e := tileSide m.fout
  let n0 := min e (m.n 0 - t0 * e)
  let n1 := min e (m.n 1 - t1 * e)
  let s := elemBytes m.fin (t0 * e) n0
  let d := elemBytes m.fout (t1 * e) n1
  ⟨(List.range n1).map (fun i => (m.srcRow o (t1 * e + i) + s.1, s.2)),
    (List.range n0).map (fun i => (m.dstRow o (t0 * e + i) + d.1, d.2)), o, t1 * e, t0 * e, n1, n0⟩

/-- All blocks of a transfer, in number order. -/
def MDesc.blocks (m : MDesc) : List MBlock :=
  if m.swap then
    let e := tileSide m.fout
    m.outer.flatMap (fun o => (List.range (ceilDiv (m.n 0) e)).flatMap (fun t0 =>
      (List.range (ceilDiv (m.n 1) e)).map (fun t1 => m.tileBlock o t0 t1)))
  else m.outer.flatMap (fun o => (List.range (m.n 1)).flatMap (fun i1 => m.rowBlocks o i1))

/-- The output code of source element (o, i1, i0) (R309). -/
def MDesc.element (m : MDesc) (o : Nat × Nat × Nat) (i1 i0 : Nat) (code : Nat) : Nat :=
  if m.inFmt = m.outFmt then code
  else
    let lin := i0 + m.n 0 * (i1 + m.n 1 * (o.2.2 + m.n 2 * (o.2.1 + m.n 3 * o.1)))
    let r := if roundOf m.conv = roundSR then
        (srBits m.seed m.step m.handle m.stream ((m.base + lin) % 2 ^ 48)).final else 0
    convert m.fin m.fout ⟨roundOf m.conv, satOf m.conv, r⟩ code

/-- Output bytes of a block from the bytes of its source runs, one list per destination run. -/
def MDesc.fill (m : MDesc) (b : MBlock) (src : List (List Byte)) : List (List Byte) :=
  let odd := if m.fin.width = 4 then b.i0 % 2 else 0
  let elem := fun (i1 i0 : Nat) => m.element b.at_ (b.i1 + i1) (b.i0 + i0) (elemAt m.fin (src.getD i1 []) (i0 + odd))
  if m.swap then (List.range b.n0).map (fun i0 => packRow m.fout ((List.range b.n1).map (fun i1 => elem i1 i0)))
  else [packRow m.fout ((List.range b.n0).map (fun i0 => elem 0 i0))]

/-! ### Reading and checking blocks (R312 to R314) -/

/-- How a block fails: status, destination side, lowest faulting DVA. -/
structure BlockFail where
  st : Status
  side : Bool
  dva : Nat
  deriving DecidableEq, Repr

/-- Outcome of reading and checking blocks in order. -/
inductive Gather where
  | all (data : List (List (List Byte)))
  | stop (data : List (List (List Byte))) (f : BlockFail)
  | wait (h : Nat) (at_ : Stuck)
  deriving Repr

/-- Aligned words of runs. -/
def runWords (runs : List (Nat × Nat)) : List (Nat × Nat) :=
  runs.flatMap (fun r => (List.range ((r.1 + r.2 - 1) / 8 + 1 - r.1 / 8)).map (fun i =>
    let a := max r.1 (8 * (r.1 / 8 + i))
    (a, min (r.1 + r.2) (8 * (r.1 / 8 + i) + 8) - a)))

/-- The lowest DVA of runs at which a read of a requester fails or waits, by aligned words. -/
def Part.lowestBad (p : Part) (d : Nat) (r : Req) (runs : List (Nat × Nat)) : Nat :=
  (lowest (((runWords runs).filter (fun w => match (p.readDva d r w.1 w.2).2 with | .ok _ => false | _ => true)).map (·.1))).getD 0

/-- Read source runs. -/
def Part.readRuns (p : Part) (d : Nat) (runs : List (Nat × Nat)) : Part × Acc (List (List Byte)) :=
  match runs with
  | [] => (p, .ok [])
  | r :: rest =>
    match p.readDva d .moverRd r.1 r.2 with
    | (p, .fail st) => (p, .fail st)
    | (p, .wait h) => (p, .wait h)
    | (p, .ok l) =>
      match p.readRuns d rest with
      | (p, .ok m) => (p, .ok (l :: m))
      | x => x

/-- What an access to parts of lines would meet: translation and protection, the reserved range, host links, guarded ranges
and bank windows, found before any byte moves (R312). -/
def Part.probe (p : Part) (d : Nat) (r : Req) (parts : List (Nat × Nat)) : Part × Acc Unit :=
  match parts with
  | [] => (p, .ok ())
  | (a, n) :: rest =>
    match p.translate d r a with
    | (p, .fail st) => (p, .fail st)
    | (p, .wait h) => (p, .wait h)
    | (p, .ok pa) =>
      if p.heldBack d r pa n then (p, .wait 65537)
      else match whereIs pa with
        | .reserved _ => (p, .fail .range)
        | .host port _ => if p.linkUp port then p.probe d r rest else (p, .fail .timeout)
        | .tile c x => if r.isWrite && p.guardHit c x n then (p, .fail .protFault) else p.probe d r rest
        | .window k _ =>
          if (p.engine (p.engineOfBank k)).stopped then (p, .fail .uncorrectable)
          else if ((p.bank k).st).allows r.isWrite then p.probe d r rest else (p, .wait 65536)
        | .hbm _ => p.probe d r rest
        | .mmio | .hole => (p, .fail .xlateFault)

/-- The lowest DVA of runs at which a probe fails or waits, by aligned words. -/
def Part.lowestOff (p : Part) (d : Nat) (r : Req) (runs : List (Nat × Nat)) : Nat :=
  (lowest (((runWords runs).filter (fun w => (p.probe d r [w]).2 != .ok ())).map (·.1))).getD 0

/-- The runs of a block in parts of 256-byte lines. -/
def runLines (runs : List (Nat × Nat)) : List (Nat × Nat) := runs.flatMap (fun r => linesOf r.1 r.2)

/-- Read and check the blocks of a transfer in order from number `n`, up to the first that fails; `given` is where a wait that
was given up stopped it, with its status (R286, R312). -/
def Part.gather (p : Part) (d : Nat) (m : MDesc) (remote : Bool) (given : Option (Stuck × Status)) (n : Nat) (bs : List MBlock)
    (acc : List (List (List Byte))) : Part × Gather :=
  match bs with
  | [] => (p, .all acc.reverse)
  | b :: rest =>
    match given.filter (fun g => g.1.block == n) with
    | some g => (p, .stop acc.reverse ⟨g.2, g.1.side, g.1.dva⟩)
    | none =>
      match p.readRuns d b.src with
      | (p, .fail e) => (p, .stop acc.reverse ⟨e, false, p.lowestBad d .moverRd b.src⟩)
      | (p, .wait h) => (p, .wait h ⟨n, false, p.lowestBad d .moverRd b.src⟩)
      | (p, .ok src) =>
        let data := m.fill b src
        if remote then p.gather d m remote given (n + 1) rest (data :: acc)
        else
          match p.probe d .moverWr (runLines b.dst) with
          | (p, .fail e) => (p, .stop acc.reverse ⟨e, true, p.lowestOff d .moverWr b.dst⟩)
          | (p, .wait h) => (p, .wait h ⟨n, true, p.lowestOff d .moverWr b.dst⟩)
          | (p, .ok _) => p.gather d m remote given (n + 1) rest (data :: acc)

/-- Write the runs of one block. A partial word that cannot be read stops it (R252, R270). -/
def Part.writeRuns (p : Part) (d : Nat) (runs : List (Nat × Nat)) (data : List (List Byte)) : Part × Acc Unit :=
  match runs, data with
  | r :: rest, l :: ls =>
    match p.writeWake d .moverWr r.1 l with
    | (p, .ok _) => p.writeRuns d rest ls
    | x => x
  | _, _ => (p, .ok ())

/-- The lowest word of runs that a write cannot complete because its old value is uncorrectable (R252, R270). -/
def Part.lowestPartial (p : Part) (d : Nat) (runs : List (Nat × Nat)) : Nat :=
  (lowest (((runWords runs).filter (fun w => w.2 != 8 && (match (p.readParts d .moverWr false (linesOf w.1 w.2)).2 with
    | .ok _ => false | _ => true))).map (·.1))).getD 0

/-- Write gathered blocks in order; how many were written, and what stopped it. -/
def Part.writeBlocks (p : Part) (d : Nat) (bs : List MBlock) (data : List (List (List Byte))) (n : Nat) :
    Part × Nat × Option BlockFail :=
  match bs, data with
  | b :: rest, x :: xs =>
    match p.writeRuns d b.dst x with
    | (p, .ok _) => p.writeBlocks d rest xs (n + 1)
    | (p, .fail st) => (p, n, some ⟨st, true, p.lowestPartial d b.dst⟩)
    | (p, .wait _) => (p, n, some ⟨.busy, true, p.lowestPartial d b.dst⟩)
  | _, _ => (p, n, none)

/-- Bytes in the first `n` blocks. -/
def blockBytes (bs : List MBlock) (n : Nat) : Nat :=
  (bs.take n).foldl (fun s b => s + b.dst.foldl (fun t r => t + r.2) 0) 0

/-! ### The end of a transfer (R315, R316) -/

/-- A transfer that wrote nothing. -/
def MoveEnd.none (st : Status) (detail : Nat) : MoveEnd := ⟨st, detail, true, false, false, 0, 0, 0, 0, []⟩

def MoveEnd.flags (x : MoveEnd) : Nat := bnat x.prefix_ + 2 * bnat x.side + 4 * bnat x.posted

def MoveEnd.record (x : MoveEnd) : List Byte :=
  leBytes 2 x.st.code ++ leBytes 1 x.detail ++ leBytes 1 x.flags ++ leBytes 1 x.slot ++ [0, 0, 0] ++ leBytes 8 x.bytes ++
    leBytes 8 x.dva ++ leBytes 4 x.blocks ++ [0, 0, 0, 0]

/-- A delivery that failed: counted and reported (R315). -/
def Part.moveLost (p : Part) (d : Nat) (st : Status) (info : Nat) : Part :=
  (p.bump Fld.MOVER_ERRORS.STATUS_WRITE_FAIL d 1).event .delivery st (unitWord d 0 0xFF) info

/-- Write the status record, through translation or locally (R303, R315); the second answer is the handle, window or held range
that the write waits for. `given`: how a wait that was given up ended. -/
def Part.moveRecord (p : Part) (d : Nat) (core : Option Nat) (ptr : Nat) (given : Nat) (x : MoveEnd) : Part × Option Nat :=
  if x.st = .range ∧ x.detail = 5 then (p.moveLost d .range ptr, none)
  else if ptr = 0 then (p, none)
  else if given ≠ 0 then (p.moveLost d (Status.ofCode given) (ptr % 2 ^ 48), none)
  else
    let r := match bit ptr 63, core with
      | true, some c => p.writeLocal c (bits ptr 23 0) x.record
      | true, none => (p, .fail .range)
      | false, _ => p.writeWake d .moverWr (bits ptr 47 0) x.record
    match r with
    | (p, .ok _) => (p, none)
    | (p, .fail st) => (p.moveLost d st (ptr % 2 ^ 48), none)
    | (p, .wait h) => (p, some h)

/-- Fire a completion token: at once, or held by the open span it was dispatched in (R303, R459). -/
def Part.moveToken (p : Part) (d : Nat) (who : Option (Nat × QEntry)) (v : Nat) : Part :=
  if !bit v 63 then p
  else
    let c := bits v 29 22
    let t := bits v 21 16
    let n := bits v 7 0
    let now := fun (p : Part) => match p.sigLocal c t n with
      | (p, .ok) => p
      | (p, st) => p.moveLost d st t
    match who with
    | some (own, e) =>
      if e.inSpan ∧ ¬ (c = own ∧ t < 32) then p.holdSig own ⟨e.order, 0xFFFF, c, t, n⟩
      else
        let p := now p
        if e.inSpan then p.noteTok own t n else p
    | none => now p

/-- Count a refusal, an overlap or a stop (R329). -/
def Part.moveCount (p : Part) (d : Nat) (how : MoveStop) (st : Status) : Part :=
  if st = .ok then p
  else match how with
    | .refused => if st = .overlap then p.bump Fld.MOVER_ERRORS.OVERLAP_COUNT d 1
      else if st = .range ∨ st = .unsupported then p.bump Fld.MOVER_ERRORS.REFUSED_COUNT d 1 else p
    | .atBlock => p.bump Fld.MOVER_ERRORS.FAULT_COUNT d 1
    | .whole => p

/-- MOVE_DONE (R588). -/
def Part.moveTrace (p : Part) (d : Nat) (x : MoveEnd) : Part :=
  p.trace d 2 1 (unitWord d 0 0xFF) (payload [(0, 2, x.st.code), (2, 1, x.detail), (3, 1, x.flags), (4, 4, x.blocks),
    (8, 8, x.bytes)])

/-- Remove a transfer from the table. -/
def Part.dropXfer (p : Part) (d id : Nat) : Part :=
  p.modDie d (fun x => { x with active := x.active.filter (fun t => t.id != id) })

/-- Change a transfer in the table. -/
def Part.modXfer (p : Part) (d id : Nat) (f : Xfer → Xfer) : Part :=
  p.modDie d (fun x => { x with active := x.active.map (fun y => if y.id = id then f y else y) })

/-- A transfer waits on a handle, a window or a held range. -/
def Part.moveWaits (p : Part) (d id h : Nat) (s : Option Stuck) : Part :=
  p.modXfer d id (fun y => { y with waitHandle := some h, waitAt := p.time.raw, stuck := s })

/-- A transfer of a core completes: record, digest, signals, release of its entry (R315, R438). A record that must wait leaves
the transfer in the table with its result. -/
def Part.moveEnds (p : Part) (d : Nat) (t : Xfer) (c : Nat) (e : QEntry) (ptr token dst : Nat) (digested : Bool)
    (how : MoveStop) (x : MoveEnd) : Part :=
  let given := if t.result.isSome then t.status else 0
  match p.moveRecord d (some c) ptr given x with
  | (p, some h) => (p.modXfer d t.id (fun y => { y with result := some (how, x), status := 0 })).moveWaits d t.id h none
  | (p, none) =>
    let p := p.moveCount d how x.st
    let p := p.moveTrace d x
    let p := if digested then
        p.digest c e.event (leBytes 8 dst ++ x.written ++ leBytes 2 x.st.code ++ leBytes 4 x.blocks) else p
    let p := (p.dropXfer d t.id).dropFly c .mover e.order
    (p.signalAt c e.word e.order e.inSpan).moveToken d (some (c, e)) token

/-- Whether the completion of MOV.D is an event of tandem mode (R438). -/
def Part.moveDigested (p : Part) (d : Nat) (m : MDesc) : Bool :=
  !m.post && (!p.isSelf m.dstNode || p.dvaIsHbm d m.dst)

/-- MOV.D completes. -/
def Part.movdEnds (p : Part) (d : Nat) (t : Xfer) (c : Nat) (e : QEntry) (how : MoveStop) (x : MoveEnd) : Part :=
  let m := mdescOf t.desc
  p.moveEnds d t c e m.statusPtr m.completion m.dst (p.moveDigested d m) how x

/-! ### Running a transfer of this part (R306 to R321) -/

/-- Outcome of running a transfer: it waits, with the sums of the atomic adds made so far, or has come to its end. -/
inductive MoveOut where
  | wait (p : Part) (h : Nat) (at_ : Stuck) (added : Nat) (sums : List Byte)
  | done (p : Part) (x : MoveEnd)
  deriving Repr

/-- Where the wait of a transfer was given up, with its status. -/
def Xfer.given (t : Xfer) : Option (Stuck × Status) :=
  if t.status = 0 then none else t.stuck.map (fun s => (s, Status.ofCode t.status))

/-- Check all blocks of an in-place transposition before any is read (R314); the first that fails, or waits. -/
def Part.checkAll (p : Part) (d : Nat) (given : Option (Stuck × Status)) (n : Nat) (bs : List MBlock) : Part × Gather :=
  match bs with
  | [] => (p, .all [])
  | b :: rest =>
    match given.filter (fun g => g.1.block == n) with
    | some g => (p, .stop [] ⟨g.2, g.1.side, g.1.dva⟩)
    | none =>
      match p.probe d .moverRd (runLines b.src) with
      | (p, .fail e) => (p, .stop [] ⟨e, false, p.lowestOff d .moverRd b.src⟩)
      | (p, .wait h) => (p, .wait h ⟨n, false, p.lowestOff d .moverRd b.src⟩)
      | (p, .ok _) =>
        match p.probe d .moverWr (runLines b.dst) with
        | (p, .fail e) => (p, .stop [] ⟨e, true, p.lowestOff d .moverWr b.dst⟩)
        | (p, .wait h) => (p, .wait h ⟨n, true, p.lowestOff d .moverWr b.dst⟩)
        | (p, .ok _) => p.checkAll d given (n + 1) rest

/-- Pairs of tiles of an in-place transposition, as block numbers, in the order of their lower-numbered block: block `n` and the
block that holds its transpose; a diagonal tile pairs with itself (R320). -/
def tilePairs (m : MDesc) : List (Nat × Nat) :=
  let t := ceilDiv (m.n 0) (tileSide m.fout)
  (List.range m.blocks.length).filterMap (fun n =>
    let k := n / (t * t) * (t * t) + n % t * t + n / t % t
    if n ≤ k then some (n, k) else none)

/-- Run the pairs of an in-place transposition through the staging buffer: both tiles are read, then both are written; the blocks
written so far, and what stopped it (R314, R320). -/
def Part.runPairs (p : Part) (d : Nat) (m : MDesc) (ps : List (Nat × Nat)) (written : List (Nat × List Byte)) :
    Part × List (Nat × List Byte) × Option (Nat × BlockFail) :=
  match ps with
  | [] => (p, written, none)
  | (i, k) :: rest =>
    let blk := fun (n : Nat) => m.blocks.getD n ⟨[], [], (0, 0, 0), 0, 0, 0, 0⟩
    let two := if i = k then [i] else [i, k]
    match p.readRuns d (two.flatMap (fun n => (blk n).src)) with
    | (p, .ok l) =>
      let data := if i = k then [m.fill (blk i) l]
        else [m.fill (blk i) (l.take (blk i).src.length), m.fill (blk k) (l.drop (blk i).src.length)]
      match p.writeBlocks d (two.map blk) data 0 with
      | (p, _, none) => p.runPairs d m rest (written ++ (two.zip (data.map List.flatten)))
      | (p, n, some f) => (p, written ++ ((two.zip (data.map List.flatten)).take n), some (two.getD n i, f))
    | (p, .fail st) => (p, written, some (i, ⟨st, false, p.lowestBad d .moverRd (two.flatMap (fun n => (blk n).src))⟩))
    | (p, .wait _) => (p, written, some (i, ⟨.busy, false, p.lowestBad d .moverRd (two.flatMap (fun n => (blk n).src))⟩))

/-- The end of an in-place transposition after its pairs ran; PREFIX tells whether exactly the blocks before the stopping one were
written (R316). -/
def pairsEnd (m : MDesc) (written : List (Nat × List Byte)) (stop : Option (Nat × BlockFail)) : MoveEnd :=
  let bs := m.blocks
  let text := fun (n : Nat) => (((written.find? (fun x => x.1 == n)).map (·.2)).getD [])
  match stop with
  | none => ⟨.ok, 0, true, false, false, 0, blockBytes bs bs.length, 0, bs.length, (List.range bs.length).flatMap text⟩
  | some (b, f) => ⟨f.st, 0, written.all (fun x => x.1 < b), f.side, false, 0, blockBytes bs b, f.dva, b, (List.range b).flatMap text⟩

/-- An in-place transposition: its check as a whole, then its pairs (R314, R320). -/
def Part.runInPlace (p : Part) (d : Nat) (m : MDesc) (given : Option (Stuck × Status)) : MoveOut :=
  let bs := m.blocks
  match p.checkAll d given 0 bs with
  | (p, .wait h at_) => .wait p h at_ 0 []
  | (p, .stop _ f) => .done p ⟨f.st, 0, true, f.side, false, 0, 0, f.dva, 0, []⟩
  | (p, .all _) =>
    let r := p.runPairs d m (tilePairs m) []
    .done r.1 (pairsEnd m r.2.1 r.2.2)

/-- Run the blocks of a descriptor on die `d`. -/
def Part.runBlocks (p : Part) (d : Nat) (m : MDesc) (given : Option (Stuck × Status)) : MoveOut :=
  if inPlace m && srcDstOverlap m then p.runInPlace d m given
  else
    let bs := m.blocks
    let fin := fun (p : Part) (data : List (List (List Byte))) (stop : Option BlockFail) =>
      let r := p.writeBlocks d bs data 0
      let out := (data.take r.2.1).flatMap List.flatten
      match r.2.2.or stop with
      | none => MoveOut.done r.1 ⟨.ok, 0, true, false, false, 0, blockBytes bs bs.length, 0, bs.length, out⟩
      | some f => .done r.1 ⟨f.st, 0, true, f.side, false, 0, blockBytes bs r.2.1, f.dva, r.2.1, out⟩
    match p.gather d m false given 0 bs [] with
    | (p, .wait h at_) => .wait p h at_ 0 []
    | (p, .all data) => fin p data none
    | (p, .stop data f) => fin p data (some f)

/-! ### Transfers to another part (R323) -/

/-- The packets of a remote transfer: each block's destination runs, in order. -/
def packetBlocks (bs : List MBlock) (data : List (List (List Byte))) : List Block :=
  (bs.zip data).flatMap (fun x => (x.1.dst.zip x.2).map (fun y => ⟨y.1.1, y.2⟩))

/-- Form and send a transfer to another part; a source failure at block b sends the blocks before it. -/
def Part.sendBlocks (p : Part) (d : Nat) (t : Xfer) : Part :=
  let m := mdescOf t.desc
  let go := fun (p : Part) (data : List (List (List Byte))) (f : Option BlockFail) =>
    let st := match f with | some x => x.st.code | none => 0
    let stuck := f.map (fun x => (⟨data.length, false, x.dva⟩ : Stuck))
    let blocks := packetBlocks m.blocks data
    if blocks.isEmpty then p.modXfer d t.id (fun y => { y with sent := true, status := st, stuck := stuck, remote := some (0, 0, 0) })
    else
      let r := p.fabSend d m.dstNode (bankUnit m.remoteDie) (bankUnit d) 1 (.mover d t.id) (p.circuitTo d m.dstNode) blocks
      if r.2 then r.1.modXfer d t.id (fun y => { y with sent := true, status := st, stuck := stuck })
      else p.modXfer d t.id (fun y => { y with sent := true, unrouted := true, remote := some (0, 0, 0) })
  match p.gather d m true t.given 0 m.blocks [] with
  | (p, .wait h at_) => p.moveWaits d t.id h (some at_)
  | (p, .all data) => go p data none
  | (p, .stop data f) => go p data (some f)

/-- Blocks whose packets, in order, are all among the first `n` packets. -/
def blocksOfPackets (bs : List MBlock) (n : Nat) : Nat :=
  match bs with
  | [] => 0
  | b :: r => if b.dst.length ≤ n then 1 + blocksOfPackets r (n - b.dst.length) else 0

/-- The end of a remote transfer from its end-to-end outcome: status, acknowledged packets without a gap, and the packet that
ended it (R323). FAULT_DVA is the first byte of that packet: a NACK names no address beyond its SEQ (R379). -/
def remoteEnd (m : MDesc) (src : Option (Stuck × Status)) (r : Nat × Nat × Nat) : MoveEnd :=
  let bs := m.blocks
  let n := blocksOfPackets bs r.2.1
  if r.1 ≠ 0 then
    ⟨Status.ofCode r.1, 0, false, true, false, 0, blockBytes bs n, (((bs.flatMap (·.dst))[r.2.2]?).map (·.1)).getD 0, n, []⟩
  else match src with
    | some (s, st) => ⟨st, 0, true, false, false, 0, blockBytes bs n, s.dva, n, []⟩
    | none => ⟨.ok, 0, true, false, false, 0, blockBytes bs n, 0, n, []⟩

/-! ### Task posts (R322) -/

/-- Deliver the post of an admitted transfer: the 64 source bytes go to the core's staging buffer, and the post is made. A wait on
the source that was given up ends it (R312). -/
def Part.deliverPost (p : Part) (d : Nat) (t : Xfer) (c : Nat) : Part :=
  let m := mdescOf t.desc
  if t.status ≠ 0 then p.modXfer d t.id (fun y => { y with posted := some (t.status, 0) })
  else match p.readDva d .moverRd m.src 64 with
    | (p, .fail st) => p.modXfer d t.id (fun y => { y with
        status := st.code, stuck := some ⟨0, false, p.lowestBad d .moverRd [(m.src, 64)]⟩, posted := some (st.code, 0) })
    | (p, .wait h) => p.moveWaits d t.id h (some ⟨0, false, p.lowestBad d .moverRd [(m.src, 64)]⟩)
    | (p, .ok l) =>
      match p.stageWrite m.dst c 0 l with
      | (p, some (st, slot)) => p.modXfer d t.id (fun y => { y with posted := some (st.code, slot) })
      | (p, none) => p

/-- A POST packet arrives at the distributor of its cluster, for the transfer `id` of die `d`'s mover (R322, R363). -/
def execPostPacket (d : Fin 4) (id : Nat) (s : State) : Host.Outcome State Fault Refusal :=
  s.runReady (fun p =>
    match (p.die d).active.find? (fun t => t.id == id) with
    | some t =>
      match t.src with
      | .core c _ => if (mdescOf t.desc).post && t.desc.length == 128 && t.posted.isNone && !t.waitHandle.any (· < 65536) then p.deliverPost d t c else p
      | _ => p
    | none => p)

/-- The end of a post. A refusal writes nothing and reports POSTED (R316), with the address where its source could not be
read. -/
def postEnd (t : Xfer) (r : Nat × Nat) : MoveEnd :=
  let st := Status.ofCode r.1
  if t.status ≠ 0 then { MoveEnd.none st 0 with posted := true, dva := ((t.stuck.map (·.dva)).getD 0) }
  else if st = .ok then ⟨.ok, 0, true, false, true, r.2, 64, 0, 1, []⟩
  else { MoveEnd.none st 0 with posted := true }

/-! ### Atomic adds (R236, R324) -/

def isAtomic (e : QEntry) : Bool := opOf e.word == 0x61 || opOf e.word == 0x62

def atDst (e : QEntry) : Nat := (e.gs.getD 0 0).toNat
def atCtl (e : QEntry) : Nat := (e.gs.getD 1 0).toNat
def atTile (e : QEntry) : BitVec 128 := e.tds.getD 0 0

/-- Issue checks of MOV.FADD and MOV.IADD, in the order of R236 and R324. -/
def atomicIssue (e : QEntry) : Option Status :=
  let t := atTile e
  let want : Fmt := if opOf e.word = 0x61 then .fp32 else .int32
  if Fmt.ofCode (tdFormat t) ≠ some want then some .unsupported
  else if tdRows t = 0 ∨ tdCols t = 0 ∨ ¬ inData (tdBase t) ((tdRows t - 1) * tdStride t + 4 * tdCols t) then some .range
  else if bits (atCtl e) 62 56 ≠ 0 ∨ (bit (atCtl e) 63 ∧ bits (atCtl e) 55 32 % 32 ≠ 0) then some .range
  else none

/-- The destination checks at admission (R324). -/
def atomicAdmit (e : QEntry) : Option Nat :=
  let t := atTile e
  let stride := bits (atCtl e) 31 0
  if 2 ^ 48 < atDst e + (tdRows t - 1) * stride + 4 * tdCols t then some 3
  else if atDst e % 4 ≠ 0 ∨ stride % 4 ≠ 0 then some 4
  else none

/-- The blocks of an atomic add: row, destination run and first element (R307). -/
def atomicBlocks (e : QEntry) : List (Nat × Nat × Nat × Nat) :=
  let t := atTile e
  (List.range (tdRows t)).flatMap (fun i =>
    let row := atDst e + i * bits (atCtl e) 31 0
    (linesOf row (4 * tdCols t)).map (fun x => (i, x.1, x.2, (x.1 - row) / 4)))

/-- The sum of one element (R236). -/
def atomicSum (op dst src : Nat) : Nat := if op = 0x61 then f32Add dst src else (dst + src) % 2 ^ 32

/-- Add the blocks in order from number `n`; each is read and checked before it is written, and a block that must wait keeps the
sums of those before it (R236, R312, R324). -/
def Part.addBlocks (p : Part) (d c : Nat) (e : QEntry) (given : Option (Stuck × Status)) (bs : List (Nat × Nat × Nat × Nat)) (n : Nat)
    (out : List Byte) : MoveOut :=
  match bs with
  | [] => .done p ⟨.ok, 0, true, false, false, 0, out.length, 0, n, out⟩
  | (i, a, len, j) :: rest =>
    let t := atTile e
    let src := tdBase t + i * tdStride t + 4 * j
    let stop := fun (p : Part) (st : Status) (side : Bool) (dva : Nat) =>
      MoveOut.done p ⟨st, 0, true, side, false, 0, out.length, dva, n, out⟩
    match given.filter (fun g => g.1.block == n) with
    | some g => stop p g.2 g.1.side g.1.dva
    | none =>
      match p.readLocal c src len with
      | (p, .fail st) => stop p st false (((runWords [(src, len)]).find? (fun w => (p.readLocal c w.1 w.2).2 == .fail st)).map (·.1) |>.getD src)
      | (p, .wait h) => .wait p h ⟨n, false, src⟩ n out
      | (p, .ok l) =>
        match p.probe d .moverWr (linesOf a len) with
        | (p, .fail st) => stop p st true (p.lowestOff d .moverWr [(a, len)])
        | (p, .wait h) => .wait p h ⟨n, true, p.lowestOff d .moverWr [(a, len)]⟩ n out
        | (p, .ok _) =>
          match p.readParts d .moverWr false (linesOf a len) with
          | (p, .fail st) => stop p st true (((runWords [(a, len)]).find? (fun w =>
              (p.readParts d .moverWr false (linesOf w.1 w.2)).2 == .fail st)).map (·.1) |>.getD a)
          | (p, .wait h) => .wait p h ⟨n, true, a⟩ n out
          | (p, .ok old) =>
            let sum := (List.range (len / 4)).flatMap (fun k =>
              leBytes 4 (atomicSum (opOf e.word) (fieldAt old (4 * k) 4) (fieldAt l (4 * k) 4)))
            match p.writeWake d .moverWr a sum with
            | (p, .ok _) => p.addBlocks d c e given rest (n + 1) (out ++ sum)
            | (p, .fail st) => stop p st true (p.lowestPartial d [(a, len)])
            | (p, .wait h) => .wait p h ⟨n, true, a⟩ n out

/-- An atomic add completes. -/
def Part.atomicEnds (p : Part) (d : Nat) (t : Xfer) (c : Nat) (e : QEntry) (how : MoveStop) (x : MoveEnd) : Part :=
  let ptr := if bit (atCtl e) 63 then 2 ^ 63 + bits (atCtl e) 55 32 else 0
  p.moveEnds d t c e ptr 0 (atDst e) (p.dvaIsHbm d (atDst e)) how x

/-! ### Admission (R300 to R302, R305) -/

/-- Whether a core's instruction, or a transfer of the part itself, may take an entry now (R301). -/
def Part.mayAdmit (p : Part) (d : Nat) (sys : Bool) : Bool :=
  let free := 4096 - p.outstanding d
  if sys then decide (0 < free) else decide (p.get Fld.MOVER_CTRL.SYS_RESERVE d < free)

/-- Put an instruction that has left its queue into flight. -/
def Part.takeFlight (p : Part) (c : Nat) (u : EUnit) (f : Fly) : Part :=
  p.modCore c (fun x => (x.setQueue u ((x.queue u).drop 1)).setFlying u (x.flying u ++ [f]))

/-- An issue fault of the instruction at the head of a queue: it leaves the queue, taking the count it waited for (log entry 9). -/
def Part.issueFault (p : Part) (c : Nat) (u : EUnit) (e : QEntry) (st : Status) : Part :=
  ((p.takeWait c e.word).modCore c (fun x => x.setQueue u ((x.queue u).drop 1))).fault c (some u) .issue e.word e.pc false
    (FaultRec.plain st (some u))

/-- A transfer as it enters the table. -/
def Xfer.new (id : Nat) (src : XferSrc) (desc : List Byte) : Xfer :=
  ⟨id, src, desc, 0, none, 0, none, 0, [], none, false, false, none, none⟩

/-- Enter a transfer in the table. -/
def Part.addXfer (p : Part) (d : Nat) (src : XferSrc) (desc : List Byte) : Part × Xfer :=
  let t := Xfer.new (p.die d).nextId src desc
  ((p.modDie d (fun x => { x with nextId := x.nextId + 1, active := x.active ++ [t] })).notePeak d, t)

/-- Enter a transfer of a core. -/
def Part.enterXfer (p : Part) (d c : Nat) (e : QEntry) (desc : List Byte) : Part × Xfer :=
  ((p.takeWait c e.word).takeFlight c .mover ⟨e, none, none, .moverRun (p.die d).nextId⟩).addXfer d (.core c e) desc

/-- Drop a waiting request of a mover. -/
def Part.dropRequest (p : Part) (d : Nat) (r : XferSrc) : Part := p.modDie d (fun x => { x with waiting := x.waiting.erase r })

/-- Admit the MOV.D of core `c` (R302, R305, R459). -/
def Part.admitMovd (p : Part) (d c : Nat) (e : QEntry) : Part :=
  match p.readLocal c (e.gs.getD 0 0).toNat 128 with
  | (p, .fail st) => (p.dropRequest d (.core c e)).issueFault c .mover e st
  | (p, .wait _) => p
  | (p, .ok l) =>
    let r := (p.dropRequest d (.core c e)).enterXfer d c e l
    match r.1.mdescCheck l with
    | some (st, detail) => r.1.movdEnds d r.2 c e .refused (MoveEnd.none st detail)
    | none =>
      if (mdescOf l).post ∧ e.inSpan then r.1.movdEnds d r.2 c e .whole { MoveEnd.none .conflict 0 with posted := true }
      else if r.1.toOther (mdescOf l) then r.1.sendBlocks d r.2
      else r.1

/-- Admit an atomic add. -/
def Part.admitAtomic (p : Part) (d c : Nat) (e : QEntry) : Part :=
  let r := (p.dropRequest d (.core c e)).enterXfer d c e []
  match atomicAdmit e with
  | some detail => r.1.atomicEnds d r.2 c e .refused (MoveEnd.none .range detail)
  | none => r.1

/-- The RELAY.SEND of a request, while it waits for its entry. -/
def Part.asking (p : Part) (c eng order : Nat) : Option RelayRef :=
  let u : EUnit := if eng = 0 then .me0 else .me1
  (((p.core c).flying u).find? (fun f => f.e.order == order && f.st == .relayAsk)).map (fun f => ⟨c, u, f⟩)

/-- Whether a request is still made: its instruction stands at the head of its queue or in flight, its handle's copy has no entry. -/
def Part.asks (p : Part) (r : XferSrc) : Bool :=
  match r with
  | .core c e => ((p.core c).queue .mover).head? == some e
  | .relay c g o => (p.asking c g o).isSome
  | .copy h => !(p.handle h).entry && ((p.handle h).st == .offloading || (p.handle h).st == .prefetching)
  | .stream _ _ _ _ => true

/-- Whether a request may be granted now (R301, R67). -/
def Part.mayGrant (p : Part) (d : Nat) (r : XferSrc) : Bool :=
  match r with
  | .core c e => p.mayAdmit d false && p.waitOk c e.word
  | _ => p.mayAdmit d true

/-- Grant a request its entry. -/
def Part.grant (p : Part) (d : Nat) (r : XferSrc) : Part :=
  match r with
  | .core c e => if isAtomic e then p.admitAtomic d c e else p.admitMovd d c e
  | .stream _ _ _ cmd => ((p.dropRequest d r).addXfer d r cmd).1
  | .relay c g o =>
    match p.asking c g o with
    | some x =>
      let q := (p.dropRequest d r).setFlySt c x.unit o .relayWait
      (q.notePeak d).relayIssued { x with fly := { x.fly with st := .relayWait } }
    | none => p.dropRequest d r
  | .copy h => ((p.dropRequest d r).setHandle h { p.handle h with entry := true }).notePeak d

/-- The oldest waiting request of a mover that may be granted is admitted: a core's needs more free entries than SYS_RESERVE,
another any (R301). -/
def execMoverAdmit (d : Fin 4) (s : State) : Host.Outcome State Fault Refusal :=
  s.runReady (fun p =>
    let p := p.modDie d (fun x => { x with waiting := x.waiting.filter p.asks })
    match (p.die d).waiting.find? (p.mayGrant d) with
    | some r => p.grant d r
    | none => p)

/-! ### Completion of a core's transfer -/

/-- The outcome of running a transfer of a core. -/
def Part.runEnds (d : Nat) (t : Xfer) (c : Nat) (e : QEntry) (r : MoveOut) : Part :=
  match r with
  | .wait p h at_ n sums => (p.modXfer d t.id (fun y => { y with added := n, sums := sums })).moveWaits d t.id h (some at_)
  | .done p x => if isAtomic e then p.atomicEnds d t c e .atBlock x else p.movdEnds d t c e .atBlock x

/-- Try to bring a core's transfer to its end: write a status record that waited, run its blocks, or end a post or a remote
transfer whose outcome is known. -/
def Part.completeMove (p : Part) (d : Nat) (t : Xfer) (c : Nat) (e : QEntry) : Part :=
  match t.result with
  | some (how, x) => if isAtomic e then p.atomicEnds d t c e how x else p.movdEnds d t c e how x
  | none =>
    if isAtomic e then
      Part.runEnds d t c e (p.addBlocks d c e t.given ((atomicBlocks e).drop t.added) t.added t.sums)
    else
      let m := mdescOf t.desc
      if m.post then
        match t.posted with
        | some r => p.movdEnds d t c e (if t.status = 0 then .whole else .atBlock) (postEnd t r)
        | none => if t.status = 0 then p else p.movdEnds d t c e .atBlock (postEnd t (t.status, 0))
      else if p.toOther m then
        if !t.sent then p.sendBlocks d t
        else match t.remote with
          | some r =>
            if t.unrouted then p.movdEnds d t c e .whole (MoveEnd.none .range 0)
            else p.movdEnds d t c e .atBlock (remoteEnd m t.given r)
          | none => p
      else Part.runEnds d t c e (p.runBlocks d m t.given)

end Sys2Proof.Machine
end

