-- ==== Sys2Proof/Machine/Queue.lean ====
section
/-! DEFINITION. The engine queues of a core (R62 to R68, R113 to R116, R138, R212, R443, R444): issuing the head of a queue,
completing an instruction in flight, stopping an engine, and accesses that waited for a bank window. -/

namespace Sys2Proof.Machine

/-! ### Cores that run an instruction (R443) -/

/-- Change the bank an engine instruction names, in every core that runs it. -/
def Part.modBank (p : Part) (c : Nat) (w : Word) (f : Bank → Bank) : Part :=
  (p.runners c).foldl (fun q x => q.setBank (bankNo x w) (f (q.bank (bankNo x w)))) p

def unitEng : EUnit → Nat
  | .me1 => 1
  | _ => 0

def isMe : EUnit → Bool
  | .me0 | .me1 => true
  | _ => false

def isMtx (w : Word) : Bool := 0x20 ≤ opOf w && opOf w ≤ 0x26
def isVec (w : Word) : Bool := 0x40 ≤ opOf w && opOf w ≤ 0x5D

/-! ### Issue (R64, R67, R114) -/

/-- Whether a bank lets an instruction issue (R114). -/
def BankSt.allowsIssue (s : BankSt) (w : Word) : Bool :=
  match s with
  | .draining => false
  | .filling => isMtx w
  | .empty | .full => true

/-- The bank just after an instruction issued on it (R112, R113). -/
def Bank.issued (b : Bank) (e : QEntry) : Bank :=
  let w := e.word
  if isMtx w then b.mtxIssued (classOf (opOf w) (tdFormat (e.tds.getD 0 0)))
  else if opOf w = 0x32 ∨ opOf w = 0x33 then { b with st := .draining }
  else if opOf w = 0x34 ∧ xbOf w = 1 then { b with st := .filling }
  else b.fillIssued

/-- The issue checks of an engine instruction. -/
def Part.meCheck (p : Part) (c : Nat) (e : QEntry) : Option Status :=
  let w := e.word
  let b := p.bank (bankNo c w)
  if isMtx w then p.mtxCheck c e b
  else if opOf w = 0x30 then (if p.engineGone c (engOf w) then some .retiredUnit else none)
  else if opOf w = 0x31 then p.accLdCheck c e
  else if opOf w = 0x32 then p.drainCheck c e
  else p.relayCheck c e b

/-- Whether an instruction of the open span dispatched before `e` has not completed (R459). -/
def CoreSt.earlierOpen (x : CoreSt) (e : QEntry) : Bool :=
  ([.me0, .me1, .ve, .mover] : List EUnit).any (fun u =>
    (x.queue u).any (fun y => y.inSpan && y.order < e.order) ||
      (x.flying u).any (fun f => f.e.inSpan && f.e.order < e.order))

/-- An instruction with a faulty relay position reports the short cluster (R194). -/
def Part.reportShort (p : Part) (c : Nat) (e : QEntry) : Part :=
  if e.badPos then p.shortEvent (clusterOf c) e.partner else p

/-- Whether an instruction uses the bank port of its engine: neither the array nor WARM (R102). -/
def usesPort (w : Word) : Bool := !isMtx w && opOf w != 0x77

/-- The bank port of an engine is held by an instruction in flight, a relay that waits among them (R102, log entry 73). -/
def CoreSt.portBusy (x : CoreSt) (u : EUnit) : Bool := (x.flying u).any (fun f => usesPort f.e.word)

/-- Issue the head `e` of a matrix engine's queue. A RELAY.SEND beyond its cluster takes an entry of its die's mover, or asks for
one (R185, R301). -/
def Part.issueMe (p : Part) (c : Nat) (u : EUnit) (e : QEntry) : Part :=
  let w := e.word
  let take := fun (p : Part) (prior twin : Option Bank) => (p.takeWait c w).takeFlight c u ⟨e, prior, twin, .run⟩
  if !p.waitOk c w then p
  else if p.engineGone c (engOf w) then p.issueFault c u e .retiredUnit
  else if (p.runners c).any (fun x => (p.engine (p.physEng x (unitEng u))).stopped) then p
  else if opOf w = 0x77 then (take p none none).worksOn c (unitEng u)
  else if !((p.bank (bankNo c w)).st).allowsIssue w || (usesPort w && (p.core c).portBusy u) then p
  else if isSend e && e.inSpan && (p.core c).earlierOpen e then p
  else if opOf w = 0x32 && p.tableFull then p
  else
    match p.meCheck c e with
    | some st => (if isRelay e && st == .retiredUnit then p.reportShort c e else p).issueFault c u e st
    | none =>
      let b := some (p.bank (bankNo c w))
      let f := (p.follower c).map (fun x => p.bank (bankNo x w))
      let q := (take p b f).modBank c w (fun x => x.issued e)
      if isMtx w then q.worksOn c (unitEng u)
      else if isRelay e then
        if p.sendsOut c e then
          if p.entryFree (dieOf c) then
            ((q.setFlySt c u e.order .relayWait).notePeak (dieOf c)).relayIssued ⟨c, u, ⟨e, b, f, .relayWait⟩⟩
          else (q.setFlySt c u e.order .relayAsk).modDie (dieOf c) (fun x =>
            { x with waiting := x.waiting ++ [.relay c (unitEng u) e.order] })
        else (q.setFlySt c u e.order .relayWait).relayIssued ⟨c, u, ⟨e, b, f, .relayWait⟩⟩
      else q

/-- Issue the head of the vector engine's queue. -/
def Part.issueVe (p : Part) (c : Nat) (e : QEntry) : Part :=
  let w := e.word
  if !p.waitOk c w then p
  else if (p.runners c).any (fun x => p.coreRetired x) then p.issueFault c .ve e .retiredUnit
  else if (p.runners c).any (fun x => (p.ve (p.phys x)).stopped) || !((p.core c).flying .ve).isEmpty then p
  else
    match vCheck p (dieOf c) e with
    | some st => p.issueFault c .ve e st
    | none => (p.takeWait c w).takeFlight c .ve ⟨e, none, none, .run⟩

/-- Ask the die's mover for an entry for the head of a mover queue (R301). -/
def Part.requestEntry (p : Part) (c : Nat) (e : QEntry) : Part :=
  let d := dieOf c
  if (p.die d).waiting.contains (.core c e) then p
  else p.modDie d (fun x => { x with waiting := x.waiting ++ [.core c e] })

/-- Local byte runs of a tile's rows. -/
def tileRuns (t : BitVec 128) : List (Nat × Nat) :=
  let f := (Fmt.ofCode (tdFormat t)).getD .fp32
  (List.range (tdRows t)).map (fun i => (tdBase t + i * tdStride t, rowBytes f (tdCols t)))

def runsMeet (a b : List (Nat × Nat)) : Bool := a.any (fun x => b.any (fun y => meets x.1 x.2 y.1 y.2))

/-- The source bytes of a MOV.D descriptor that lie in the tile store of core `c`, as a local run. -/
def Part.ownSource (p : Part) (c : Nat) (m : MDesc) : Option (Nat × Nat) :=
  match (p.translate (dieOf c) .moverRd m.src).2 with
  | .ok pa => if whereIs pa == .tile c (pa - tileBase c) then some (pa - tileBase c, m.srcReach) else none
  | _ => none

/-- Local byte runs that a transfer of core `c` reads. -/
def Part.moveReads (p : Part) (c : Nat) (e : QEntry) : List (Nat × Nat) :=
  let a := (e.gs.getD 0 0).toNat
  if opOf e.word = 0x60 then (a, 128) :: (p.ownSource c (mdescOf (p.bytes (tileBase c + a) 128))).toList
  else tileRuns (e.tds.getD 0 0)

/-- Whether a pager instruction in flight has still to write a record that a transfer reads (R64). -/
def Part.recordAhead (p : Part) (c : Nat) (e : QEntry) : Bool :=
  ((p.core c).flying .mover).any (fun f => isPg f.e && runsMeet [(pgRes f.e, 16)] (p.moveReads c e))

/-- Issue the head of the mover queue: a pager instruction issues here; a transfer asks for a table entry and issues when
it is admitted (R302), once every record it reads is written (R64). -/
def Part.issueMover (p : Part) (c : Nat) (e : QEntry) : Part :=
  let w := e.word
  let a := (e.gs.getD 0 0).toNat
  if !p.waitOk c w then p
  else if isPg e then
    if p.pgHolds e then p
    else match pgCheck e with
      | some st => p.issueFault c .mover e st
      | none => ((p.takeWait c w).takeFlight c .mover ⟨e, none, none, .run⟩).pgStart c e
  else if p.tableFull || p.recordAhead c e then p
  else if opOf w = 0x60 then
    if a % 128 ≠ 0 ∨ ¬ inData a 128 then p.issueFault c .mover e .range
    else p.requestEntry c e
  else match atomicIssue e with
    | some st => p.issueFault c .mover e st
    | none => p.requestEntry c e

/-- Issue the head `e` of a queue. -/
def Part.issueHead (p : Part) (c : Nat) (u : EUnit) (e : QEntry) : Part :=
  match u with
  | .me0 | .me1 => p.issueMe c u e
  | .ve => p.issueVe c e
  | .mover => p.issueMover c e

/-- Queues whose heads are served before that of `u` (R70). -/
def servedBefore : EUnit → List EUnit
  | .me0 => []
  | .me1 => [.me0]
  | .ve => [.me0, .me1]
  | .mover => [.me0, .me1, .ve]

/-- Whether the head of queue `v` would issue now and take from counter `t` of its core. -/
def Part.headTakes (p : Part) (c t : Nat) (v : EUnit) : Bool :=
  match ((p.core c).queue v).head? with
  | some e => waitEn e.word && waitTok e.word == t && p.issueHead c v e != p
  | none => false

/-- The count that the sequencer's next instruction takes from counter `t`, when it waits on it and can be served now: WAIT its
count, another sequencer instruction that nothing else holds back 1. -/
def Part.seqTakes (p : Part) (c t : Nat) : Nat :=
  match p.canDispatch c, (p.fetch c).2 with
  | true, .ok w =>
    let n := if opOf w = 0x70 then countOf w else if opOf w ≤ 0x1C ∨ opOf w = 0x71 ∨ opOf w = 0x72 then 1 else 0
    if waitEn w && waitTok w == t && (p.haltsBefore c w).isNone && !illegal w && decide (n ≤ (p.core c).token t) then n else 0
  | _, _ => 0

/-- What the heads served before leave of counter `t` for the head of queue `u` (R70): the sequencer's first, then each head
takes 1 while the remainder suffices. -/
def Part.remainder (p : Part) (c t : Nat) (u : EUnit) : Nat :=
  (servedBefore u).foldl (fun n v => if p.headTakes c t v then n - 1 else n) ((p.core c).token t - p.seqTakes c t)

/-- The head instruction of a queue issues once its wait condition holds, with what heads served before it leave of its
counter (R70), and its unit allows it (R64). -/
def execQueueIssue (c : Fin 256) (u : EUnit) (s : State) : Host.Outcome State Fault Refusal :=
  s.runReady (fun p =>
    match ((p.core c).queue u).head? with
    | none => p
    | some e =>
      if (p.core c).deciding || (waitEn e.word && p.remainder c (waitTok e.word) u == 0) then p else p.issueHead c u e)

/-! ### Completion (R72, R244, R444) -/

/-- Local bytes an instruction reads, in reading order. -/
def sourceRuns (e : QEntry) : List (Nat × Nat) :=
  let w := e.word
  let t := fun (i : Nat) => e.tds.getD i 0
  if isMtx w then
    tileRuns (t 0) ++ (if tdScaleKind (t 0) = 2 then [(tdScaleAddr (t 0), 512 * ceilDiv (tdCols (t 0)) 128)] else []) ++
      tileRuns (t 1) ++ (if tdScaleKind (t 1) = 2 then [(tdScaleAddr (t 1), 512 * ceilDiv (tdCols (t 1)) 128)] else [])
  else if opOf w = 0x31 then tileRuns (t 0)
  else if opOf w = 0x32 then
    (if tdScaleKind (t 0) = 1 then [(tdScaleAddr (t 0), 4 * tdRows (t 0))] else []) ++
      (if csEn w then [(tdScaleAddr (t 1), 4 * tdCols (t 0))] else [])
  else if isVec w then
    (vInputs e).flatMap (fun x => match x.scalar with
      | some _ => []
      | none => (List.range x.rows).map (fun i =>
          (x.base + i * x.stride, rowBytes ((Fmt.ofCode x.fmt).getD .fp32) x.cols)))
  else []

/-- Elements of a bank with bits flipped. -/
def Bank.flipped (b : Bank) (l : List (Nat × BitVec 32)) : Bank :=
  l.foldl (fun b x => b.setElem (x.1 % 16384) (b.elem (x.1 % 16384) ^^^ x.2)) b

/-- Run an engine instruction on one core. -/
def Part.runOn (p : Part) (c : Nat) (f : Fly) (err : List (Nat × BitVec 32)) : EngOut :=
  let w := f.e.word
  if isMtx w then
    match p.runMtx c f.e with
    | .done q out => .done (q.setBank (bankNo c w) ((q.bank (bankNo c w)).flipped err)) out
    | x => x
  else if opOf w = 0x30 then p.runAccClr c f.e
  else if opOf w = 0x31 then p.runAccLd c f.e
  else if opOf w = 0x32 then p.runDrain c (match f.prior with | some b => b.st == .empty | none => false) f.e
  else p.runVector c (p.get Fld.VE_CTRL.NF_TRAP c == 1) f.e

/-- What a comparison compares: output bytes and, for a drain, the status word (R444, R467). -/
def Part.itemOf (p : Part) (c : Nat) (e : QEntry) (out : List Byte) : List Byte :=
  if opOf e.word = 0x32 then out ++ leBytes 8 (p.bank (bankNo c e.word)).status.toNat else out

/-- Whether an instruction's output is an item that comparisons count. -/
def isItem (e : QEntry) : Bool := opOf e.word == 0x32 || isVec e.word

/-- The ordinal of the next item of a unit in the open span. -/
def CoreSt.itemNo (x : CoreSt) (u : EUnit) : Nat :=
  match x.span with
  | some s => Tab.get 0 s.items (unitIdx u)
  | none => 0

def Part.countUnit (p : Part) (c : Nat) (u : EUnit) : Part :=
  p.modCore c (fun x => match x.span with
    | some s => { x with span := some { s with items := Tab.set 0 s.items (unitIdx u) (Tab.get 0 s.items (unitIdx u) + 1) } }
    | none => x)

def Part.countItem (p : Part) (c : Nat) (u : EUnit) (e : QEntry) : Part :=
  if !e.inSpan || !isItem e then p else p.countUnit c u

/-- Keep the replay's own version of the item a decision waits for (R467, R468). -/
def Part.captureItem (p : Part) (c : Nat) (u : EUnit) (item : List Byte) (bad : Bool) : Part :=
  p.modCore c (fun x => match x.decision with
    | some d =>
      if d.engine = unitIdx u ∧ d.drainNo = x.itemNo u ∧ d.got.isNone ∧ x.span.isSome then
        { x with decision := some { d with got := some item, gotBad := bad } }
      else x
    | none => x)

/-- Work of an engine ends: a gap begins when nothing is left (R132). -/
def Part.workEnded (p : Part) (c : Nat) (w : Word) : Part :=
  if (isMtx w || opOf w == 0x77) && !p.hasWork c (engOf w) then p.worksOff c (engOf w) else p

/-- The instructions left in flight on a stopped engine end in faults with its status (log entry 20). -/
def Part.endStopped (p : Part) (c : Nat) (u : EUnit) (st : Status) : Part :=
  let l := (p.core c).flying u
  let p := p.modCore c (fun x => x.setFlying u [])
  l.foldl (fun q f =>
    let q := match f.st with
      | .relayMove => match p.mate ⟨c, u, f⟩ .relayMove with
        | some y => q.setFlySt y.core y.unit y.fly.e.order .relayWait
        | none => q.endSends (.relay c (engOf f.e.word) f.e.order)
      | .relayWait => q.endSends (.relay c (engOf f.e.word) f.e.order)
      | _ => q
    q.fault c (some u) .execution f.e.word f.e.pc false
      { FaultRec.plain st (some u) with parity := st == .uncorrectable, relaySend := isSend f.e }) p

/-- An instruction ends in an execution fault: it leaves the unit and does not signal. -/
def Part.engFault (p : Part) (c : Nat) (u : EUnit) (f : Fly) (r : FaultRec) : Part :=
  let st := Status.ofCode r.status
  let n := (p.core c).itemNo u
  let p := p.captureItem c u r.output (st != .ok)
  let p := ((p.dropFly c u f.e.order).settleBank c f.e.word).workEnded c f.e.word
  let p := (p.countItem c u f.e).fault c (some u) .execution f.e.word f.e.pc false { r with drainNo := n }
  let gone := isMe u && (p.engine (p.physEng c (unitEng u))).stopped
  if gone then p.endStopped c u st else p

/-- An instruction completes: its unit moves on, its event is digested and its signal fires. -/
def Part.engDone (p : Part) (c : Nat) (u : EUnit) (f : Fly) (out : List Byte) : Part :=
  let e := f.e
  let item := p.itemOf c e out
  let p := if isItem e then (p.captureItem c u item false).countItem c u e else p
  let p := ((p.dropFly c u e.order).settleBank c e.word).workEnded c e.word
  let p := match p.follower c with
    | some x => if isMe u then
        let k := bankNo x e.word
        p.setBank k { p.bank k with st := (p.bank (bankNo c e.word)).st } else p
    | none => p
  let p := if opOf e.word = 0x32 then p.digest c e.event (leBytes 8 (tdBase (e.tds.getD 0 0)) ++ item) else p
  p.signalAt c e.word e.order e.inSpan

/-- An engine instruction reaches its end on its core and, in a pair, on the follower, whose version of every output is
compared (R444). -/
def Part.completeEng (p : Part) (c : Nat) (u : EUnit) (f : Fly) (err ferr : List (Nat × BitVec 32)) : Part :=
  let e := f.e
  let runs := sourceRuns e
  match p.runOn c f err with
  | .wait => p
  | .fault q st out =>
    let item := q.itemOf c e out
    let q := match q.follower c with
      | some x => match q.runOn x f ferr with
        | .done r _ => r
        | .fault r _ _ => r
        | .wait => q
      | none => q
    q.engFault c u f { p.faultIn c st (some u) runs with output := item }
  | .done q out =>
    match q.follower c with
    | none => q.engDone c u f out
    | some x =>
      match q.runOn x f ferr with
      | .wait => p
      | .fault r st _ => r.engFault c u f (p.faultIn x st (some u) runs)
      | .done r out2 =>
        let a := r.itemOf c e out
        let b := r.itemOf x e out2
        if isItem e && a != b then
          r.engFault c u f { FaultRec.plain .checkMismatch (some u) with pair := true, output := a, follower := b }
        else r.engDone c u f out

/-- A paired relay transfer ends: the tile, DEPTH, class and flags reach the receiving bank, the sending bank is EMPTY, and
both instructions complete (R72, R182, R187). -/
def Part.completeRelay (p : Part) (x : RelayRef) : Part :=
  match p.mate x .relayMove with
  | none => p
  | some y =>
    let s := if isSend x.fly.e then x else y
    let r := if isSend x.fly.e then y else x
    let give := fun (p : Part) (a b : Nat) =>
      let t := p.bank (bankNo a s.fly.e.word)
      p.deliverTile b r.fly.e.word t.fill t.cells (statusWord t.depth t.cls t.lapsed t.saturated)
    let p := match p.follower r.core with
      | some g => give p ((p.follower s.core).getD s.core) g
      | none => p
    let p := (give p s.core r.core).modBank s.core s.fly.e.word (fun b => { b with st := .empty })
    (p.engDone s.core s.unit s.fly []).engDone r.core r.unit r.fly []

/-- A parity error on the data that the relay ring carries ends the RELAY.RECV with UNCORRECTABLE (R184); its bank returns to
what it was before issue, and the SEND waits for the next RECV: DESIGN CHOICE (log entry 77). Beyond the cluster no ring carries
the tile, and it arrives. -/
def Part.ringError (p : Part) (x : RelayRef) : Part :=
  match p.mate x .relayMove with
  | none => p
  | some y =>
    if clusterOf x.core ≠ clusterOf y.core then p.completeRelay x
    else
      let s := if isSend x.fly.e then x else y
      let r := if isSend x.fly.e then y else x
      (p.setFlySt s.core s.unit s.fly.e.order .relayWait).failRelay r .uncorrectable

/-- A pager instruction writes its result record and completes (R237). -/
def Part.completePg (p : Part) (c : Nat) (f : Fly) (status h dva : Nat) : Part :=
  let e := f.e
  let rec_ := pgRecord status h dva
  match p.writeLocal c (pgRes e) rec_ with
  | (_, .wait _) => p
  | (p, .fail st) => (p.dropFly c .mover e.order).fault c (some .mover) .execution e.word e.pc false
      (p.faultIn c st (some .mover) [(pgRes e, 16)])
  | (p, .ok _) =>
    let p := match p.follower c with
      | some x => (p.writeLocal x (pgRes e) rec_).1
      | none => p
    (p.dropFly c .mover e.order).signalAt c e.word e.order e.inSpan

/-- Local byte runs an engine instruction writes: a drained tile and its status word. -/
def sinkRuns (e : QEntry) : List (Nat × Nat) :=
  if opOf e.word = 0x32 then tileRuns (e.tds.getD 0 0) ++ [((e.gs.getD 0 0).toNat, 8)] else []

/-- Whether instruction `e` of a unit must follow an earlier one in flight (R64, R114): both use one bank, or they touch the
same tile-store bytes and one of them writes. -/
def mustFollow (e f : QEntry) : Bool :=
  bankNo 0 f.word == bankNo 0 e.word || runsMeet (sinkRuns f) (sourceRuns e) ||
    runsMeet (sinkRuns e) (sourceRuns f ++ sinkRuns f)

/-- Whether an earlier instruction of the unit, a relay that waits or moves among them, has still to run, so that this one must
not. -/
def CoreSt.earlierRun (x : CoreSt) (u : EUnit) (i : Nat) (e : QEntry) : Bool :=
  ((x.flying u).take i).any (fun f => opOf f.e.word != 0x77 && mustFollow e f.e)

/-- Bring the i-th instruction in flight of a unit to its end, if it can end now. -/
def Part.complete (p : Part) (c : Nat) (u : EUnit) (i : Nat) (err ferr : List (Nat × BitVec 32)) : Part :=
  match ((p.core c).flying u)[i]? with
  | none => p
  | some f =>
    match f.st with
    | .run =>
      if u = .mover then p
      else if isMe u && (p.engine (p.physEng c (unitEng u))).stopped then p
      else if u = .ve ∧ (p.ve (p.phys c)).stopped then p
      else if opOf f.e.word = 0x77 then
        if (p.runners c).all (fun x => (p.engine (p.physEng x (unitEng u))).level == 8) then p.engDone c u f [] else p
      else if (p.core c).earlierRun u i f.e then p
      else p.completeEng c u f err ferr
    | .relayMove => if err.isEmpty then p.completeRelay ⟨c, u, f⟩ else p.ringError ⟨c, u, f⟩
    | .pgDone st h dva => p.completePg c f st h dva
    | .relayAsk | .relayWait | .moverRun _ | .pgWait | .pgRun _ => p

/-- A queued instruction reaches its completion moment (R72). -/
def execInstructionComplete (c : Fin 256) (u : EUnit) (i : Nat) (err ferr : List (Nat × BitVec 32)) (s : State) :
    Host.Outcome State Fault Refusal :=
  whenWf (Instr.wf (.instructionComplete c u i err ferr)) <|
  s.runReady (fun p => p.complete c u i err ferr)

/-! ### Mover transfers of a core -/

/-- What leaves core `x` through the mover for a transfer issued by core `c` (R444): the descriptor, and the source bytes that
lie in the own tile store. -/
def Part.moveItem (p : Part) (c x : Nat) (t : Xfer) (e : QEntry) : List Byte :=
  if opOf e.word = 0x60 then
    p.bytes (tileBase x + (e.gs.getD 0 0).toNat) 128 ++
      (match p.ownSource c (mdescOf t.desc) with
      | some r => p.bytes (tileBase x + r.1) r.2
      | none => [])
  else (tileRuns (e.tds.getD 0 0)).flatMap (fun r => p.bytes (tileBase x + r.1) r.2)

/-- A core's transfer reaches its end, or ends in the comparison's fault before anything leaves (R444). Within an open span it
counts as a compared item. -/
def Part.coreTransfer (p : Part) (d : Nat) (t : Xfer) (c : Nat) (e : QEntry) : Part :=
  let item := fun (x : Nat) => p.moveItem c x t e
  let differs := match p.follower c with
    | some f => t.remote.isNone && t.posted.isNone && t.result.isNone && item c != item f
    | none => false
  if differs then
    ((p.dropXfer d t.id).dropFly c .mover e.order).fault c (some .mover) .execution e.word e.pc false
      { FaultRec.plain .checkMismatch (some .mover) with
        pair := true, output := item c, follower := item ((p.follower c).getD c), drainNo := (p.core c).itemNo .mover }
  else
    let q := p.completeMove d t c e
    if !e.inSpan || ((q.core c).flying .mover).any (fun f => f.e.order == e.order) then q
    else (q.captureItem c .mover (item c) false).countUnit c .mover

/-! ### Engine stops (R138, R212) -/

/-- The draw of an engine whose clocking failed drops at once: level 0, without a step of the governor (R138). -/
def Part.dropDraw (p : Part) (pe : Nat) (f : EngineFault) : Part :=
  if f = .clocking then p.setEngine pe { p.engine pe with level := 0, held := [] } else p

/-- A parity error in the scalar or descriptor registers of core `c`'s sequencer: a running core takes it as an execution fault of
the instruction at its program counter, which a span replays on the same core (R264, R461). -/
def Part.registerParity (p : Part) (c : Nat) : Part :=
  match (p.core c).phase with
  | .running _ =>
    let w := match (p.fetch c).2 with | .ok w => w | _ => 0
    p.fault c none .execution w (p.core c).pc false { FaultRec.plain .uncorrectable none with inSpanData := true }
  | _ => p

/-- A fault in a matrix engine, by its global number under core numbers (R138). Its status is UNCORRECTABLE, which the spec
gives for parity only: DESIGN CHOICE for a self-test and for clocking (log entry 78). -/
def execEngineParityFault (e : Fin 512 × EngineFault) (s : State) : Host.Outcome State Fault Refusal :=
  s.runReady (fun p =>
    let c := e.1.val / 2
    let u : EUnit := if e.1.val % 2 = 0 then .me0 else .me1
    let pe := p.physEng c (e.1.val % 2)
    if e.2 = .registers then p.registerParity c
    else if (p.engine pe).stopped then p
    else ((p.stopEngine c (e.1.val % 2) .uncorrectable).dropDraw pe e.2).endStopped (p.issuer c) u .uncorrectable)

/-- What the vector instruction of core `c` in flight leaves in every core that runs it when it ends after `n` output
elements (R212). -/
def Part.vePartial (p : Part) (c n : Nat) : Part :=
  match (p.core c).flying .ve with
  | f :: _ => (p.runners c).foldl (fun q x => q.vPartial x f.e n) p
  | [] => p

/-- A parity error in the vector engine of core `c.1` ends its instruction, whose first `c.2` output elements stay written, and stops it
(R212). -/
def execVeParityFault (c : Fin 256 × Nat) (s : State) : Host.Outcome State Fault Refusal :=
  s.runReady (fun p =>
    if (p.ve (p.phys c.1)).stopped then p
    else ((p.vePartial (p.issuer c.1) c.2).setVe (p.phys c.1) ⟨true, Status.uncorrectable.code⟩).endStopped (p.issuer c.1) .ve
      .uncorrectable)

/-! ### Bank windows (R116) -/

/-- An access that waited for an accumulator window proceeds once the bank's state allows it. -/
def execBankWindowAccess (a : Accessor) (s : State) : Host.Outcome State Fault Refusal :=
  s.runReady (fun p =>
    match a with
    | .seq c => p.retryWindow c
    | .unit c u => p.complete c u 0 [] []
    | .xfer d id =>
      match (p.die d).active.find? (fun t => t.id == id && t.waitHandle == some 65536) with
      | some t =>
        match t.src with
        | .core c e =>
          let p := p.modDie d (fun x => { x with active := x.active.map (fun y =>
            if y.id = id then { y with waitHandle := none } else y) })
          p.coreTransfer d { t with waitHandle := none } c e
        | _ => p
      | none => p
    | .pass _ => p)

end Sys2Proof.Machine
end

