-- ==== Sys2Proof/Machine/Update.lean ====
section
/-! DEFINITION. The update unit of a die (R330 to R351): pass descriptors and programs, admission, rounds,
and completion. -/

namespace Sys2Proof.Machine

/-! ### Pass descriptors (R336) -/

def uNInstr (l : List Byte) : Nat := fieldAt l 0x06 1
def uProgram (l : List Byte) : Nat := fieldAt l 0 6
def uCount (l : List Byte) : Nat := fieldAt l 8 6
def uRowLen (l : List Byte) : Nat := fieldAt l 0x10 4
def uNIn (l : List Byte) : Nat := fieldAt l 0x14 1 % 16
def uNOut (l : List Byte) : Nat := fieldAt l 0x14 1 / 16
def uNfStop (l : List Byte) : Bool := bit (fieldAt l 0x16 1) 0
def uCompletion (l : List Byte) : Nat := fieldAt l 0x18 8
def uStatusPtr (l : List Byte) : Nat := fieldAt l 0x20 8
def uConst (l : List Byte) (i : Nat) : Nat := fieldAt l (0x40 + 4 * i) 4
def uInBase (l : List Byte) (i : Nat) : Nat := fieldAt l (0x80 + 8 * i) 6
def uInFmt (l : List Byte) (i : Nat) : Nat := fieldAt l (0x86 + 8 * i) 1 % 16
def uOutBase (l : List Byte) (i : Nat) : Nat := fieldAt l (0xC0 + 8 * i) 6
def uOutFmt (l : List Byte) (i : Nat) : Nat := fieldAt l (0xC6 + 8 * i) 1 % 16
def uSrpHandle (l : List Byte) (i : Nat) : Nat := fieldAt l (0xF0 + 4 * i) 2
def uSrpStream (l : List Byte) (i : Nat) : Nat := fieldAt l (0xF2 + 4 * i) 2

def fmtOf (code : Nat) : Fmt := (Fmt.ofCode code).getD .fp32

/-- Reserved bits and field ranges (R344, first row). -/
def uFieldsOk (l : List Byte) : Bool :=
  decide (fieldAt l 7 1 = 0 ∧ fieldAt l 0xE 2 = 0 ∧ fieldAt l 0x15 1 = 0 ∧ fieldAt l 0x17 1 = 0 ∧ fieldAt l 0x34 4 = 0 ∧
    fieldAt l 0x3E 2 = 0 ∧ fieldAt l 0x26 2 = 0 ∧ fieldAt l 0x16 1 < 2) &&
  decide (bits (uCompletion l) 62 30 = 0 ∧ bits (uCompletion l) 15 8 = 0) &&
  (List.range 8).all (fun i => fieldAt l (0x86 + 8 * i) 2 < 16) && (List.range 6).all (fun i => fieldAt l (0xC6 + 8 * i) 2 < 16) &&
  decide (1 ≤ uNInstr l ∧ uNInstr l ≤ 48 ∧ uNIn l ≤ 8 ∧ uNOut l ≤ 6) &&
  (!bit (uCompletion l) 63 || bits (uCompletion l) 7 0 != 0)

/-! ### Programs (R337 to R340) -/

/-- An instruction of an update program. -/
structure UInstr where
  op : Nat
  d : Nat
  a : Nat
  b : Nat
  c : Nat
  fl : Nat
  deriving DecidableEq, Repr

def uInstrOf (w : Nat) : UInstr := ⟨bits w 31 27, bits w 26 21, bits w 20 15, bits w 14 9, bits w 8 3, bits w 2 0⟩

def uInstrs (prog : List Byte) (n : Nat) : List UInstr := (List.range n).map (fun i => uInstrOf (fieldAt prog (4 * i) 4))

/-- Whether an operand name may be read in a phase (R338). -/
def uReadable (l : List Byte) (phaseB : Bool) (temps : List Nat) (n : Nat) : Bool :=
  if n < 8 then !phaseB && decide (n < uNIn l)
  else if n < 24 then true
  else if n < 56 then temps.contains n
  else if n < 59 then phaseB
  else n == 59 || n == 60

def isTemp (n : Nat) : Bool := 24 ≤ n && n < 56

/-- What the check of a program has seen. -/
structure UCheck where
  ok : Bool
  phaseB : Bool
  temps : List Nat
  outs : List Nat
  deriving DecidableEq, Repr

/-- Check one instruction (R338 to R340). -/
def UCheck.step (s : UCheck) (l : List Byte) (x : UInstr) : UCheck :=
  let rd := uReadable l s.phaseB s.temps
  let toTemp := fun (ok : Bool) => { s with ok := s.ok && ok && isTemp x.d, temps := x.d :: s.temps }
  match x.op with
  | 0x01 => toTemp (rd x.a && rd x.b && rd x.c && x.fl < 4)
  | 0x02 => toTemp (rd x.a && rd x.b && x.c == 0 && x.fl < 2)
  | 0x03 => toTemp (rd x.a && rd x.b && x.c == 0 && x.fl == 0)
  | 0x04 | 0x05 => toTemp (rd x.a && x.b == 0 && x.c == 0 && x.fl == 0)
  | 0x06 | 0x07 => toTemp (rd x.a && rd x.b && x.c == 0 && x.fl < 2)
  | 0x08 => toTemp (rd x.a && rd x.b && rd x.c && x.fl == 0)
  | 0x09 =>
    { s with
      ok := s.ok && !s.phaseB && rd x.a && decide (x.d < uNOut l) && !s.outs.contains x.d && decide (x.b < 16) &&
        (amaxMax x.b).isSome && uOutFmt l x.d == 0 && x.c == 0 && decide (x.fl < 2)
      phaseB := true, temps := [], outs := x.d :: s.outs }
  | 0x0A => toTemp (rd x.a && decide (x.b < 16) && (Fmt.ofCode x.b).isSome && x.c % 16 == 0 && roundOf x.fl != 3)
  | 0x0B =>
    { s with
      ok := s.ok && rd x.a && x.b == 0 && x.c % 16 == 0 && decide (x.d < uNOut l) && !s.outs.contains x.d && roundOf x.fl != 3
      outs := x.d :: s.outs }
  | _ => { s with ok := false }

/-- A program is valid (R340). -/
def uValid (l : List Byte) (is : List UInstr) : Bool :=
  let s := is.foldl (fun (s : UCheck) x => s.step l x) ⟨true, false, [], []⟩
  s.ok && (List.range (uNOut l)).all (fun o => s.outs.contains o)

/-- The AMAX of a program: its index. -/
def uAmax (is : List UInstr) : Option Nat := is.findIdx? (fun x => x.op == 0x09)

/-! ### Evaluation (R341 to R343) -/

/-- Values an element's instructions read: inputs, temporaries, HELD, RS and RR, as FP32 codes. -/
structure UEnv where
  ins : List Nat
  temps : Tab Nat
  held : Nat
  rs : Nat
  rr : Nat
  /-- outputs written: index, value tested, code -/
  outs : List (Nat × Nat × Nat)
  deriving DecidableEq, Repr

def UEnv.read (v : UEnv) (l : List Byte) (n : Nat) : Nat :=
  if n < 8 then v.ins.getD n 0
  else if n < 24 then uConst l (n - 8)
  else if n < 56 then Tab.get 0 v.temps n
  else if n = 56 then v.held
  else if n = 57 then v.rs
  else if n = 58 then v.rr
  else if n = 60 then 0x3F800000
  else 0

/-- Random bits of a conversion of element `n` (R343). -/
def uRandom (l : List Byte) (x : UInstr) (n : Nat) : Nat :=
  if roundOf x.fl = roundSR then
    (srBits (BitVec.ofNat 64 (fieldAt l 0x28 8)) (fieldAt l 0x30 4) (uSrpHandle l (x.c / 16)) (uSrpStream l (x.c / 16))
      ((fieldAt l 0x38 6 + n) % 2 ^ 48)).final
  else 0

/-- Run one instruction for element `n` (R339). -/
def UEnv.step (v : UEnv) (l : List Byte) (n : Nat) (x : UInstr) : UEnv :=
  let a := v.read l x.a
  let b := v.read l x.b
  let c := v.read l x.c
  let set := fun (r : Nat) => { v with temps := Tab.put v.temps x.d (canonNan r) }
  let flip := fun (on : Bool) (y : FVal) => if on then y.neg else y
  match x.op with
  | 0x01 => set (toF32 ((flip (bit x.fl 1) ((f32 a).mul (f32 b))).add (flip (bit x.fl 0) (f32 c))))
  | 0x02 => set (if bit x.fl 0 then toF32 ((f32 a).sub (f32 b)) else f32Add a b)
  | 0x03 => set (f32Mul a b)
  | 0x04 => set (toF32 (f32 a).sqrt)
  | 0x05 => set (toF32 ((FVal.fin false 1 0).div (f32 a)))
  | 0x06 => set (f32MinMax false (bit x.fl 0) a b)
  | 0x07 => set (f32MinMax true (bit x.fl 0) a b)
  | 0x08 => { v with temps := Tab.put v.temps x.d (canonNan (if cmpPred 1 c 0 then a else b)) }
  | 0x09 => { v with held := a }
  | 0x0A =>
    let f := fmtOf x.b
    set (convert f .fp32 rne (convert .fp32 f ⟨roundOf x.fl, satOf x.fl, uRandom l x n⟩ a))
  | 0x0B => { v with outs := v.outs ++
      [(x.d, a, convert .fp32 (fmtOf (uOutFmt l x.d)) ⟨roundOf x.fl, satOf x.fl, uRandom l x n⟩ a)] }
  | _ => v

def UEnv.run (v : UEnv) (l : List Byte) (n : Nat) (is : List UInstr) : UEnv :=
  is.foldl (fun (v : UEnv) x => v.step l n x) v

/-- What a round computes: per element its outputs, and the scale s of its row. -/
structure URound where
  elems : List UEnv
  scale : Option (Nat × Nat)
  deriving DecidableEq, Repr

/-- Evaluate the round of elements from `n0`; `ins` holds each element's widened inputs. -/
def uEval (l : List Byte) (is : List UInstr) (n0 : Nat) (ins : List (List Nat)) : URound :=
  let start := fun (x : List Nat) => (⟨x, [], 0, 0, 0, []⟩ : UEnv)
  let each := fun (is : List UInstr) (vs : List UEnv) =>
    (vs.zip (List.range vs.length)).map (fun y => y.1.run l (n0 + y.2) is)
  match uAmax is with
  | none => ⟨each is (ins.map start), none⟩
  | some k =>
    let x := is.getD k ⟨0, 0, 0, 0, 0, 0⟩
    let va := each (is.take (k + 1)) (ins.map start)
    let m := reduceRow (f32MinMax true false) (va.map (fun v => absCode .fp32 v.held))
    let sr := amaxScale ((amaxMax x.b).getD 1) (bit x.fl 0) m
    let vb := each (is.drop (k + 1)) (va.map (fun v => { v with temps := [], rs := sr.1, rr := sr.2 }))
    ⟨vb, some (x.d, sr.1)⟩

/-! ### Streams -/

/-- Streams of a pass: base, format code, bytes reached, output number or none for an input. -/
structure UStream where
  base : Nat
  fmt : Nat
  len : Nat
  out : Option Nat
  deriving DecidableEq, Repr

def uStreams (l : List Byte) (is : List UInstr) : List UStream :=
  let n := uCount l
  let amaxOut := (uAmax is).map (fun k => (is.getD k ⟨0, 0, 0, 0, 0, 0⟩).d)
  (List.range (uNIn l)).map (fun i => ⟨uInBase l i, uInFmt l i, rowBytes (fmtOf (uInFmt l i)) n, none⟩) ++
  (List.range (uNOut l)).map (fun i =>
    ⟨uOutBase l i, uOutFmt l i,
      if amaxOut = some i then 4 * (n / max 1 (uRowLen l)) else rowBytes (fmtOf (uOutFmt l i)) n, some i⟩)

/-- Overlaps that R345 does not admit. -/
def uOverlap (ss : List UStream) : Bool :=
  let ins := ss.filter (fun s => s.out.isNone)
  let outs := ss.filter (fun s => s.out.isSome)
  outs.any (fun o =>
    let hit := ins.filter (fun i => meets o.base o.len i.base i.len)
    outs.any (fun q => q.out != o.out && meets o.base o.len q.base q.len) ||
    !(hit.isEmpty || (hit.length == 1 && hit.all (fun i => i.base == o.base && i.fmt == o.fmt && i.len == o.len))))

/-- The pages of streams: their physical ranges, or the failure of the lowest DVA; or a wait, at a DVA. -/
inductive Pages where
  | got (ranges : List (Nat × Nat)) (bad : Option (Status × Nat))
  | wait (h : Nat) (dva : Nat)
  deriving Repr

/-- Check and translate the pieces of a stream. -/
def Part.streamPages (p : Part) (d : Nat) (r : Req) (ps : List (Nat × Nat)) (acc : List (Nat × Nat)) : Part × Pages :=
  match ps with
  | [] => (p, .got acc none)
  | (a, n) :: rest =>
    match p.translate d r a with
    | (p, .fail st) => (p, .got acc (some (st, a)))
    | (p, .wait h) => (p, .wait h a)
    | (p, .ok pa) => if whereIs pa = .hbm d then p.streamPages d r rest (acc ++ [(pa, n)]) else (p, .got acc (some (.protFault, a)))

/-- All streams of a pass; a failure is that of the lowest DVA (R344). -/
def Part.allPages (p : Part) (d : Nat) (ss : List UStream) (acc : List (Nat × Nat)) (bad : Option (Status × Nat)) :
    Part × Pages :=
  match ss with
  | [] => (p, .got acc bad)
  | s :: rest =>
    match p.streamPages d (if s.out.isSome then .updWr else .updRd) (pieces64k s.base s.len) acc with
    | (p, .got acc none) => p.allPages d rest acc bad
    | (p, .got acc (some f)) => p.allPages d rest acc (match bad with | some g => if g.2 ≤ f.2 then some g else some f | none => some f)
    | x => x

/-! ### Completion (R350, R351) -/

def Pass.record (x : Pass) : List Byte :=
  leBytes 2 x.status ++ leBytes 1 x.detail ++ leBytes 1 (bnat x.nonfinite) ++ leBytes 1 x.nfOut ++ leBytes 1 x.nfKind ++ [0, 0] ++
    leBytes 8 x.done ++ leBytes 8 x.firstNf ++ leBytes 8 x.faultDva

/-- Change the pass of a die. -/
def Part.modPass (p : Part) (d : Nat) (f : Pass → Pass) : Part := p.modDie d (fun y => { y with pass := y.pass.map f })

/-- A pass waits on a handle or a held range. -/
def Part.passWaits (p : Part) (d : Nat) (x : Pass) (h : Nat) : Part :=
  p.modDie d (fun y => { y with pass := some { x with wait := some h, waitAt := p.time.raw, given := 0 } })

/-- The last part of a completion: CONSUMER advances in the ring and in UPD_STATUS, and the next entry may start (R350). A write
that fails leaves the ring's word: DESIGN CHOICE (log entry 81). -/
def Part.passConsumes (p : Part) (d : Nat) (x : Pass) : Part :=
  let next := (x.index + 1) % 2 ^ 32
  match (if x.given = 0 then p.writeDva d .updWr (p.ringBase d + 8) (leBytes 4 next) else (p, .ok ())) with
  | (p, .wait h) => p.passWaits d { x with stage := 2 } h
  | (p, _) =>
    let p := p.modDie d (fun y => { y with pass := none, holds := y.holds.filter (fun h => !h.2.2) })
    (p.put Fld.UPD_STATUS.CONSUMER d next).wakeRing d

/-- After the status record: the token, what is counted and traced, then CONSUMER (R350). -/
def Part.passFires (p : Part) (d : Nat) (x : Pass) : Part :=
  let st := Status.ofCode x.status
  let p := p.moveToken d none (uCompletion x.desc)
  let p := p.trace d 2 2 (unitWord d 0 0xFF) (payload [(0, 2, x.status), (4, 4, x.index), (8, 8, x.done)])
  let p := p.digestPass d x.index (leBytes 8 x.done ++ leBytes 2 x.status ++ x.written.flatten)
  let p := if st = .ok then p.bump Fld.UPD_COUNTS.PASSES_DONE d 1 else p.bump Fld.UPD_COUNTS.PASSES_FAILED d 1
  p.passConsumes d { x with given := 0 }

/-- A pass completes: its status record, its token, CONSUMER (R350). A write that must wait leaves the pass, whose ranges stay
held, at that stage. -/
def Part.passEnds (p : Part) (d : Nat) (x : Pass) : Part :=
  if x.stage = 2 then p.passConsumes d x
  else
    let ptr := uStatusPtr x.desc
    if ptr = 0 then p.passFires d x
    else if ptr % 32 ≠ 0 ∨ 2 ^ 48 ≤ ptr then (p.moveLost d .range (ptr % 2 ^ 48)).passFires d x
    else if x.stage = 1 ∧ x.given ≠ 0 then (p.moveLost d (Status.ofCode x.given) ptr).passFires d x
    else match p.writeWake d .updRec ptr x.record with
      | (p, .ok _) => p.passFires d x
      | (p, .fail st) => (p.moveLost d st ptr).passFires d x
      | (p, .wait h) => p.passWaits d { x with stage := 1 } h

/-! ### Admission (R344 to R346) -/

/-- The checks of R344 before the program is read. -/
def uEarly (l : List Byte) (amax : Bool) : Option (Status × Nat) :=
  let n := uCount l
  let r := uRowLen l
  let aligned := fun (code base : Nat) => match Fmt.ofCode code with
    | some f => decide (f.width < 8) || base % (f.width / 8) == 0
    | none => true
  if !uFieldsOk l then some (.range, 1)
  else if n = 0 ∨ (if amax then r % 64 ≠ 0 ∨ r < 64 ∨ 49152 < r ∨ n % r ≠ 0 else r ≠ 0) then some (.range, 2)
  else if !((List.range (uNIn l)).all (fun i => aligned (uInFmt l i) (uInBase l i)) &&
      (List.range (uNOut l)).all (fun i => aligned (uOutFmt l i) (uOutBase l i))) then some (.range, 3)
  else if uProgram l % 64 ≠ 0 ∨ uStatusPtr l % 32 ≠ 0 then some (.range, 4)
  else if (List.range (uNIn l)).any (fun i => (Fmt.ofCode (uInFmt l i)).isNone) ||
      (List.range (uNOut l)).any (fun i => (Fmt.ofCode (uOutFmt l i)).isNone) then some (.unsupported, 1)
  else none

def Pass.new (desc : List Byte) (index : Nat) : Pass := ⟨desc, [], index, false, 0, 0, 0, 0, false, 0, 0, 0, [], none, 0, 0, 0⟩

/-- Read the entry `index` of the ring and admit its pass, or complete it at once (R344); `given` is the status with which its wait
ended, and `dva` where it waited. The program is read before the checks that depend on it; one that cannot be read fails the
last check. -/
def Part.passStart (p : Part) (d index given dva : Nat) : Part :=
  let entry := p.ringBase d + 0x100 + 256 * (index % p.ringSize d)
  let waits := fun (p : Part) (h : Nat) (desc : List Byte) (a : Nat) => p.passWaits d { Pass.new desc index with faultDva := a } h
  let ends := fun (p : Part) (l : List Byte) (st : Status) (detail a : Nat) =>
    p.passEnds d { Pass.new l index with status := st.code, detail := detail, faultDva := a }
  match p.readDva d .updRd entry 256 with
  | (p, .fail _) => ends p [] .uncorrectable 0 (p.lowestBad d .updRd [(entry, 256)])
  | (p, .wait h) => if given = 0 then waits p h [] entry else ends p [] (Status.ofCode given) 0 entry
  | (p, .ok l) =>
    if given ≠ 0 then ends p l (Status.ofCode given) 0 dva
    else
      let n := uNInstr l
      match (if uFieldsOk l then p.readDva d .updRd (uProgram l) (4 * n) else (p, .ok [])) with
      | (p, .wait h) => waits p h l (p.lowestBad d .updRd [(uProgram l, 4 * n)])
      | (p, r) =>
        let prog := match r with | .ok b => b | _ => []
        let is := uInstrs prog n
        let unread := match r with | .fail _ => true | _ => false
        match uEarly l ((unread && uRowLen l != 0) || (uAmax is).isSome) with
        | some (st, detail) => ends p l st detail 0
        | none =>
          let ss := uStreams l is
          if !unread && !uValid l is then ends p l .unsupported 2 0
          else if uOverlap ss then ends p l .overlap 1 0
          else match p.allPages d ss [] none with
            | (p, .wait h a) => waits p h l a
            | (p, .got _ (some (st, a))) => ends p l st 0 a
            | (p, .got rs none) =>
              if unread then ends p l .uncorrectable 0 (p.lowestBad d .updRd [(uProgram l, 4 * n)])
              else
                let x : Pass := { Pass.new l index with
                  prog := prog, admitted := true, written := List.replicate (uNOut l) [] }
                let p := rs.foldl (fun (p : Part) r => (linesOf r.1 r.2).foldl (fun (p : Part) y => p.dropLine (y.1 / 256)) p) p
                let hs := rs.map (fun (r : Nat × Nat) => (r.1, r.2, true))
                p.modDie d (fun y => { y with pass := some x, holds := y.holds ++ hs })

/-- The unit takes the next ring entry (R334, R344); a pass that waited for a handle tries again, or ends with the status
its wait ended with, also after the ring has stopped (R335). -/
def execUpdatePassStart (d : Fin 4) (s : State) : Host.Outcome State Fault Refusal :=
  s.runReady (fun p =>
    if p.get Fld.TANDEM_STATUS.HALTED 0 == 1 then p
    else match (p.die d).pass with
      | some x => if x.admitted || x.stage != 0 || x.wait.any (· < 65536) then p else p.passStart d x.index x.given x.faultDva
      | none =>
        if !p.ringServed d then p
        else match p.ringHeader d with
          | (q, some (.error st)) => q.stopRing d st
          | (q, some (.ok (pr, co))) => if pr = co then p else q.passStart d co 0 0
          | (q, none) => q)

/-! ### Rounds (R347 to R349) -/

/-- Read the elements of one round of every input: rows of codes per input. -/
def Part.readRound (p : Part) (d : Nat) (l : List Byte) (n0 len : Nat) (is : List Nat) : Part × Acc (List (List Nat)) × Nat :=
  match is with
  | [] => (p, .ok [], 0)
  | i :: rest =>
    let f := fmtOf (uInFmt l i)
    let a := uInBase l i + n0 * f.width / 8
    match p.readDva d .updRd a (rowBytes f len) with
    | (p, .fail st) => (p, .fail st, p.lowestBad d .updRd [(a, rowBytes f len)])
    | (p, .wait h) => (p, .wait h, p.lowestBad d .updRd [(a, rowBytes f len)])
    | (p, .ok b) =>
      let row := (List.range len).map (fun j => convert f .fp32 rne (elemAt f b j))
      match p.readRound d l n0 len rest with
      | (p, .ok m, z) => (p, .ok (row :: m), z)
      | x => x

/-- The first non-finite value of a round: element, output, kind (R349). -/
def uFirstNf (r : URound) (n0 : Nat) : Option (Nat × Nat × Nat) :=
  let each := (r.elems.zip (List.range r.elems.length)).flatMap (fun y =>
    y.1.outs.map (fun o => (n0 + y.2, o.1, nfKind o.2.1)))
  let sc := match r.scale with | some (o, s) => [(n0, o, nfKind s)] | none => []
  ((sc ++ each).filter (fun x => x.2.2 != 0)).foldl (fun (b : Option (Nat × Nat × Nat)) x =>
    match b with
    | none => some x
    | some y => if x.1 < y.1 ∨ (x.1 = y.1 ∧ x.2.1 < y.2.1) then some x else b) none

/-- The bytes of a round's outputs: output, address, bytes. -/
def uOutputs (l : List Byte) (r : URound) (n0 : Nat) : List (Nat × Nat × List Byte) :=
  (List.range (uNOut l)).map (fun o =>
    match r.scale with
    | some (k, s) => if k = o then (o, uOutBase l o + 4 * (n0 / max 1 (uRowLen l)), leBytes 4 s)
        else (o, uOutBase l o + n0 * (fmtOf (uOutFmt l o)).width / 8, packRow (fmtOf (uOutFmt l o))
          (r.elems.map (fun v => ((v.outs.find? (fun y => y.1 == o)).map (fun y => y.2.2)).getD 0)))
    | none => (o, uOutBase l o + n0 * (fmtOf (uOutFmt l o)).width / 8, packRow (fmtOf (uOutFmt l o))
        (r.elems.map (fun v => ((v.outs.find? (fun y => y.1 == o)).map (fun y => y.2.2)).getD 0))))

/-- The words at the ends of an output that a write covers in part. -/
def partWords (a n : Nat) : List (Nat × Nat) := (runWords [(a, n)]).filter (fun w => w.2 != 8)

/-- Check one round's outputs and read the words they cover in part, before anything is written (R347, R348): the failure with its
address, or a wait. -/
def Part.readyRound (p : Part) (d : Nat) (ws : List (Nat × Nat × List Byte)) : Part × Acc (Option (Status × Nat)) :=
  match ws with
  | [] => (p, .ok none)
  | (_, a, b) :: rest =>
    match p.probe d .updWr (linesOf a b.length) with
    | (p, .fail st) => (p, .ok (some (st, p.lowestOff d .updWr [(a, b.length)])))
    | (p, .wait h) => (p, .wait h)
    | (p, .ok _) =>
      match p.readParts d .updWr false (partWords a b.length) with
      | (p, .fail st) => (p, .ok (some (st, p.lowestPartial d [(a, b.length)])))
      | (p, .wait h) => (p, .wait h)
      | (p, .ok _) => p.readyRound d rest

/-- Write one round's outputs. -/
def Part.writeRound (p : Part) (d : Nat) (ws : List (Nat × Nat × List Byte)) : Part :=
  ws.foldl (fun (p : Part) x => (p.writeWake d .updWr x.2.1 x.2.2).1) p

/-- Elements of the round that begins at `n0`. -/
def roundLen (l : List Byte) (amax : Bool) (n0 : Nat) : Nat := min (uCount l - n0) (if amax then uRowLen l else 192)

/-- Read, compute and write the next round of an admitted pass; a round that fails, or must wait, writes nothing. -/
def Part.round (p : Part) (d : Nat) (x : Pass) : Part :=
  let l := x.desc
  let is := uInstrs x.prog (uNInstr l)
  let n0 := x.done
  let len := roundLen l (uAmax is).isSome n0
  let set := fun (p : Part) (y : Pass) => p.modDie d (fun z => { z with pass := some y })
  if x.given ≠ 0 then set p { x with status := x.given, given := 0 }
  else match p.readRound d l n0 len (List.range (uNIn l)) with
  | (p, .fail st, a) => set p { x with status := st.code, faultDva := a }
  | (p, .wait h, a) => p.passWaits d { x with faultDva := a } h
  | (p, .ok rows, _) =>
    let ins := (List.range len).map (fun j => rows.map (fun r => r.getD j 0))
    let r := uEval l is n0 ins
    let y : Pass := match uFirstNf r n0 with
      | some (e, o, k) => if x.nonfinite then x else { x with nonfinite := true, firstNf := e, nfOut := o, nfKind := k }
      | none => x
    if uNfStop l && (uFirstNf r n0).isSome then set p { y with status := Status.nonfinite.code }
    else
      let ws := uOutputs l r n0
      match p.readyRound d ws with
      | (p, .ok (some (st, a))) => set p { y with status := st.code, faultDva := a }
      | (p, .fail st) => set p { y with status := st.code }
      | (p, .wait h) => p.passWaits d x h
      | (p, .ok none) => set (p.writeRound d ws) { y with
          done := n0 + len, faultDva := 0, written := (y.written.zip ws).map (fun z => z.1 ++ z.2.2.2) }

/-- Engines of the stacks that run a chunk of the round under way (R331, R356): chunk c runs where the line at IN[0] base + 256c
lies; a pass without IN[0] deals its chunks out in turn: DESIGN CHOICE (log entry 81). -/
def Part.enginesBusy (p : Part) (d : Nat) : Nat :=
  match (p.die d).pass with
  | some x =>
    if !x.admitted || x.wait.isSome || x.status != 0 || x.stage != 0 || x.done == uCount x.desc then 0
    else
      let len := roundLen x.desc (uAmax (uInstrs x.prog (uNInstr x.desc))).isSome x.done
      let stack := fun (c : Nat) =>
        if uNIn x.desc = 0 then c % 3
        else match (p.translate d .updRd (uInBase x.desc 0 + 256 * c)).2 with
          | .ok pa => hbmLine pa % 3
          | _ => c % 3
      let ks := (List.range (ceilDiv (x.done + len) 64 - x.done / 64)).map (fun i => stack (x.done / 64 + i))
      bnat (ks.contains 0) + 2 * bnat (ks.contains 1) + 4 * bnat (ks.contains 2)
  | none => 0

/-- The next round of a running pass, or a parity error that stops it (R347, R348). -/
def execUpdateRoundWrite (d : Fin 4) (parity : Bool) (s : State) : Host.Outcome State Fault Refusal :=
  s.runReady (fun p =>
    match (p.die d).pass with
    | some x =>
      if !x.admitted || x.wait.any (· < 65536) || x.status != 0 || x.stage != 0 || x.done == uCount x.desc then p
      else if parity then p.modDie d (fun z => { z with pass := some { x with status := Status.uncorrectable.code, faultDva := 0 } })
      else p.round d { x with wait := none }
    | none => p)

/-- A pass whose last round is written, or that stopped, completes; a write of its completion that waited is made (R350). -/
def execUpdatePassComplete (d : Fin 4) (s : State) : Host.Outcome State Fault Refusal :=
  s.runReady (fun p =>
    match (p.die d).pass with
    | some x =>
      if !x.wait.any (· < 65536) && (x.stage != 0 || (x.admitted && (x.status != 0 || x.done == uCount x.desc))) then
        p.passEnds d { x with wait := none }
      else p
    | none => p)

end Sys2Proof.Machine
end

