-- ==== Sys2Proof/Machine/Partner.lean ====
section
/-! DEFINITION. Partner copies, pairing and remount (R474 to R481). -/

namespace Sys2Proof.Machine

/-! ### The securing table and the slot header (R474, R475) -/

/-- Ranges of a table: DVA and length. -/
def tableRanges (l : List Byte) (n : Nat) : List (Nat × Nat) :=
  (List.range n).map (fun i => (bits (fieldAt l (16 * i) 8) 47 0, fieldAt l (16 * i + 8) 8))

def rangesTotal (rs : List (Nat × Nat)) : Nat := rs.foldl (fun s r => s + r.2) 0

/-- The sum of the CRC-64 of each 256-byte block. -/
def blockDigest (l : List Byte) : Word :=
  (chunks 256 (l.length / 256 + 1) l).foldl (fun (s : Word) b => s + crc64 b) 0

/-- A slot header. -/
def slotHeader (state forced slot die ranges serial node step bytes : Nat) (digest : Word) (raw : Nat) (table : List Byte) :
    List Byte :=
  [0x47, 0x4C, 0x44, 0x50] ++ leBytes 1 state ++ leBytes 1 (forced + 2 * slot) ++ leBytes 1 die ++ leBytes 1 ranges ++
    leBytes 8 serial ++ leBytes 2 node ++ [0, 0] ++ leBytes 4 step ++ leBytes 8 bytes ++ leBytes 8 digest.toNat ++
    leBytes 8 raw ++ List.replicate 208 0 ++ bytesAt table 0 1024 ++ List.replicate 2816 0

/-- A header with STATE, BYTES, DIGEST and the meridian count filled in. -/
def completeHeader (h : List Byte) (bytes : Nat) (digest : Word) (raw : Nat) : List Byte :=
  h.take 4 ++ [2] ++ (h.drop 5).take 0x13 ++ leBytes 8 bytes ++ leBytes 8 digest.toNat ++ leBytes 8 raw ++ h.drop 0x30

/-- The 512-byte blocks of a byte string for consecutive addresses. -/
def blocks512 (addr : Nat) (l : List Byte) : List Block :=
  let cs := chunks 512 (l.length / 512 + 1) l
  (cs.zip (List.range cs.length)).map (fun x => ⟨(addr + 512 * x.2) % 2 ^ 48, x.1⟩)

/-- Read ranges of die `d` in order. -/
def Part.readRanges (p : Part) (d : Nat) (rs : List (Nat × Nat)) : Part × Acc (List Byte) :=
  match rs with
  | [] => (p, .ok [])
  | r :: rest =>
    match p.readDva d .updRd r.1 r.2 with
    | (p, .ok l) =>
      match p.readRanges d rest with
      | (p, .ok m) => (p, .ok (l ++ m))
      | x => x
    | x => x

/-- The securing table of a die. -/
def Part.readTable' (p : Part) (d : Nat) : Part × Acc (List Byte) :=
  p.readDva d .updRd (p.get Fld.SECURE_TABLE.ADDR d * 64) (16 * p.get Fld.SECURE_TABLE.RANGES d)

/-! ### Copies (R476, R477) -/

def Part.copying (p : Part) : Bool := p.dies.any (fun x => x.2.copy.isSome)

/-- PARTNER_STATUS.STATE after a copy began or ended: COPYING, PAIRED or UNPAIRED (R486). -/
def Part.settlePartner (p : Part) : Part :=
  p.put Fld.PARTNER_STATUS.STATE 0 (if p.copying then 3 else if p.get Fld.PARTNER_CTRL.ENABLE 0 = 1 then 2 else 0)

/-- Partner DVA of a slot of die `d`. -/
def Part.slotAddr (p : Part) (d slot : Nat) : Nat :=
  p.get Fld.SECURE_DEST.ADDR d * 4096 + slot * p.get Fld.SECURE_SLOT.SLOT_4K d * 4096

/-- Send bytes of a copy to the partner over its circuit. -/
def Part.sendCopy (p : Part) (d : Nat) (bs : List Block) : Part × Bool :=
  let peer := p.get Fld.PARTNER_CTRL.PEER_NODE 0
  p.fabSend d peer (bankUnit (p.get Fld.SECURE_SLOT.REMOTE_DIE d)) (bankUnit d) 1 (.partner d)
    (p.sourceRecord d (p.get Fld.SECURE_DEST.CIRCUIT_ID d) peer) bs

/-- Physical ranges of the pieces of DVA ranges that translate. -/
def Part.rangePages (p : Part) (d : Nat) (rs : List (Nat × Nat)) : List (Nat × Nat) :=
  rs.flatMap (fun r => (pieces64k r.1 r.2).filterMap (fun x =>
    match (p.translate d .updRd x.1).2 with
    | .ok pa => some (pa, x.2)
    | _ => none))

/-- Start the copy of die `d` for a STEP (R476 steps 1 to 4). -/
def Part.startCopy (p : Part) (d step : Nat) : Part :=
  let slot := if p.get Fld.PARTNER_CTRL.DUAL 0 = 1 then 1 - (p.die d).lastSlot else 0
  let n := p.get Fld.SECURE_TABLE.RANGES d
  let p := ((p.put Fld.SECURE_STATUS.STATE d 1).put Fld.SECURE_STATUS.STEP d step).put Fld.SECURE_STATUS.SLOT d slot
  let set := fun (p : Part) (c : Copy) => p.modDie d (fun x => { x with copy := some c })
  match p.readTable' d with
  | (p, .ok t) =>
    let h := slotHeader 1 (p.get Fld.PARTNER_STATUS.FORCED 0) slot d n (p.get Fld.PKG_SERIAL.SERIAL 0) p.node step 0 0 0 t
    let c : Copy := ⟨slot, step, h, 0, 0, 0, none⟩
    let rs := tableRanges t n
    let s1 := p.sendCopy d (blocks512 (p.slotAddr d slot) h)
    if !s1.2 then set s1.1 { c with failed := some Status.range.code }
    else
      let hs := (s1.1.rangePages d rs).map (fun (r : Nat × Nat) => (r.1, r.2, false))
      let p := s1.1.modDie d (fun x => { x with holds := x.holds ++ hs })
      match p.readRanges d rs with
      | (p, .ok data) =>
        let s2 := p.sendCopy d (blocks512 (p.slotAddr d slot + 4096) data)
        set s2.1 { c with
          digest := blockDigest data, bytes := data.length, left := if data.isEmpty then 1 else 2
          failed := if s2.2 then none else some Status.range.code }
      | (p, .fail st) => set p { c with left := 1, failed := some st.code }
      | (p, .wait _) => set p { c with left := 1, failed := some Status.busy.code }
  | (p, .fail st) => set p ⟨slot, step, [], 0, 0, 0, some st.code⟩
  | (p, .wait _) => set p ⟨slot, step, [], 0, 0, 0, some Status.busy.code⟩

def Part.startCopies (p : Part) (step : Nat) : Part :=
  ((List.range 4).foldl (fun p d => p.startCopy d step) p).settlePartner

/-- A rise of STEP in cluster `k` (R476): a trigger starts a copy, or is held; a held trigger becomes due at the first
boundary after every copy has ended. -/
def Part.stepBoundary (p : Part) (k : Nat) : Part :=
  if p.get Fld.PARTNER_CTRL.STEP_CLUSTER 0 ≠ k ∨ p.get Fld.PARTNER_CTRL.ENABLE 0 = 0 then p
  else
    let step := (p.cluster k).step
    let due := step % max 1 (p.get Fld.PARTNER_CTRL.SECURE_EVERY 0) = 0
    match p.copyHeld with
    | some _ => if p.copying then p else { p with copyHeld := some (some step) }
    | none => if due then (if p.copying then { p with copyHeld := some none } else p.startCopies step) else p

/-- A held trigger starts its copy at a step boundary, once every running copy has ended (R476). -/
def execPartnerCopyStart (s : State) : Host.Outcome State Fault Refusal :=
  s.runReady (fun p =>
    match p.copyHeld with
    | some (some step) =>
      if p.copying || p.get Fld.PARTNER_CTRL.ENABLE 0 == 0 then p else { p with copyHeld := none }.startCopies step
    | _ => p)

/-- End a die's copy: its ranges are released. -/
def Part.endCopy (p : Part) (d : Nat) : Part :=
  p.modDie d (fun x => { x with copy := none, holds := x.holds.filter (fun h => h.2.2) })

/-- LAST_STEP, once all four dies have completed a copy of a STEP. -/
def Part.lastStep (p : Part) (step slot : Nat) : Part :=
  if (List.range 4).all (fun d => p.get Fld.SECURE_STATUS.STATE d == 0 && p.get Fld.SECURE_STATUS.STEP d == step &&
      p.get Fld.SECURE_STATUS.STATUS d == 0 && (p.die d).copy.isNone) then
    (p.put Fld.PARTNER_STATUS.LAST_STEP 0 step).put Fld.PARTNER_STATUS.LAST_SLOT 0 slot
  else p

/-- A copy that cannot go on: FAILED with its status, an event, PEER_LOST after TIMEOUT (R477). -/
def Part.failCopy (p : Part) (d : Nat) (st : Status) (step : Nat) : Part :=
  let p := (p.put Fld.SECURE_STATUS.STATE d 2).put Fld.SECURE_STATUS.STATUS d st.code
  let p := if st = .timeout then p.put Fld.PARTNER_STATUS.PEER_LOST 0 1 else p
  p.event .partner st (unitWord d 0 0xFF) step

/-- The header is rewritten COMPLETE once every transfer of the copy has been acknowledged (R476 step 5). -/
def execPartnerCopyComplete (d : Fin 4) (s : State) : Host.Outcome State Fault Refusal :=
  s.runReady (fun p =>
    match (p.die d).copy with
    | some c =>
      if c.left ≠ 0 ∨ c.failed.isSome then p
      else
        let h := completeHeader c.header c.bytes c.digest p.time.raw
        let r := (p.endCopy d).sendCopy d (blocks512 (p.slotAddr d c.slot) h)
        if !r.2 then ((p.endCopy d).failCopy d .range c.step).settlePartner
        else
          let p := (r.1.put Fld.SECURE_STATUS.STATE d 0).put Fld.SECURE_STATUS.STATUS d 0
          ((p.modDie d (fun x => { x with lastSlot := c.slot })).lastStep c.step c.slot).settlePartner
    | none => p)

/-- A copy stopped by TIMEOUT, UNCORRECTABLE or a FINAL NACK is marked FAILED (R477). -/
def execPartnerCopyFail (d : Fin 4) (s : State) : Host.Outcome State Fault Refusal :=
  s.runReady (fun p =>
    match (p.die d).copy with
    | some c =>
      match c.failed with
      | some n => (((p.endSends (.partner d)).endCopy d).failCopy d (Status.ofCode n) c.step).settlePartner
      | none => p
    | none => p)

/-- The end of one transfer of a copy; that of a COMPLETE header, whose copy has ended, still fails the slot. -/
def Part.partnerTold (p : Part) (d : Nat) (st : Status) : Part :=
  match (p.die d).copy with
  | some c => p.modDie d (fun x => { x with copy := some (if st = .ok then { c with left := c.left - 1 } else
      { c with failed := some (c.failed.getD st.code) }) })
  | none => if st = .ok then p else p.failCopy d st (p.get Fld.SECURE_STATUS.STEP d)

/-! ### Pairing (R479) -/

/-- The RANGE conditions of pairing. -/
def Part.pairRange (p : Part) : Bool :=
  let peer := p.get Fld.PARTNER_CTRL.PEER_NODE 0
  peer == 0xFFFF || peer == p.node || (List.range 4).any (fun d =>
    let n := p.get Fld.SECURE_TABLE.RANGES d
    n == 0 || (p.sourceRecord d (p.get Fld.SECURE_DEST.CIRCUIT_ID d) peer).isNone ||
      (match (p.readTable' d).2 with
       | .ok t => decide (p.get Fld.SECURE_SLOT.SLOT_4K d < 1 + ceilDiv (rangesTotal (tableRanges t n)) 4096)
       | _ => true))

/-- ENABLE is written 1 (R479): pairing starts, and ENABLE reads 1 only after OK. Written 0: no new copy. -/
def Part.partnerEnable (p : Part) (old new : Nat) : Part :=
  if new = 0 then
    { p with copyHeld := none }.settlePartner
  else if old = 1 then p
  else
    let p := p.put Fld.PARTNER_CTRL.ENABLE 0 0
    if p.pairRange then (p.put Fld.PARTNER_STATUS.PAIR_STATUS 0 Status.range.code).put Fld.PARTNER_STATUS.STATE 0 0
    else p.put Fld.PARTNER_STATUS.STATE 0 1

/-- The answer of the peer's warden: FEED_IDs are compared (R479). -/
def execPeerPairingAnswer (feed : Fin 16) (s : State) : Host.Outcome State Fault Refusal :=
  s.runReady (fun p =>
    if p.get Fld.PARTNER_STATUS.STATE 0 ≠ 1 then p
    else
      let own := p.get Fld.PARTNER_STATUS.FEED_ID 0
      let same := feed.val == own || feed.val == 15 || own == 15
      let p := p.put Fld.PARTNER_STATUS.PEER_FEED 0 feed
      if same && p.get Fld.PARTNER_CTRL.FORCE 0 == 0 then
        (p.put Fld.PARTNER_STATUS.PAIR_STATUS 0 Status.sameFeed.code).put Fld.PARTNER_STATUS.STATE 0 0
      else
        let p := (p.put Fld.PARTNER_STATUS.PAIR_STATUS 0 0).put Fld.PARTNER_STATUS.FORCED 0 (bnat same)
        let p := ((p.put Fld.PARTNER_CTRL.ENABLE 0 1).put Fld.PARTNER_STATUS.PEER_LOST 0 0).settlePartner
        if same then p.event .partner .ok (unitWord 0xFF 0 0xFF) 0 else p)

/-- The peer's warden does not answer within 100 ms (R479). -/
def execPartnerPeerTimeout (s : State) : Host.Outcome State Fault Refusal :=
  s.runReady (fun p =>
    if p.get Fld.PARTNER_STATUS.STATE 0 = 1 then
      (p.put Fld.PARTNER_STATUS.PAIR_STATUS 0 Status.timeout.code).put Fld.PARTNER_STATUS.STATE 0 0
    else p)

/-! ### Remount (R481) -/

/-- The checks of GO after BUSY, and the blocks to stream. -/
def Part.remountCheck (p : Part) (d : Nat) : Part × Except Status (List Block) :=
  let a := p.get Fld.REMOUNT_SRC.ADDR d * 4096
  match p.readDva d .updRd a 4096 with
  | (p, .ok h) =>
    let n := fieldAt h 7 1
    let rs := tableRanges (bytesAt h 0x100 1024) n
    if h.take 4 ≠ [0x47, 0x4C, 0x44, 0x50] ∨ fieldAt h 4 1 ≠ 2 ∨ fieldAt h 0x18 8 ≠ rangesTotal rs then (p, .error .conflict)
    else if (p.sourceRecord d (p.get Fld.REMOUNT_CTRL.CIRCUIT_ID d) (p.get Fld.REMOUNT_CTRL.TARGET_NODE d)).isNone then
      (p, .error .range)
    else
      match p.readDva d .updRd (a + 4096) (rangesTotal rs) with
      | (p, .ok data) =>
        if (blockDigest data).toNat ≠ fieldAt h 0x20 8 then (p, .error .checkMismatch)
        else
          (p, .ok ((rs.foldl (fun (s : List Block × List Byte) r =>
            (s.1 ++ blocks512 r.1 (s.2.take r.2), s.2.drop r.2)) ([], data)).1))
      | (p, _) => (p, .error .uncorrectable)
  | (p, _) => (p, .error .uncorrectable)

/-- GO on die `d` (R481). -/
def Part.remountGo (p : Part) (d : Nat) : Part :=
  let done := fun (p : Part) (st : Status) => p.put Fld.REMOUNT_STATUS.STATUS d st.code
  if p.get Fld.REMOUNT_STATUS.BUSY d = 1 then done p .busy
  else match p.remountCheck d with
    | (p, .error st) => done p st
    | (p, .ok bs) =>
      let node := p.get Fld.REMOUNT_CTRL.TARGET_NODE d
      let r := p.fabSend d node (bankUnit (p.get Fld.REMOUNT_CTRL.TARGET_DIE d)) (bankUnit d) 1 (.remount d)
        (p.sourceRecord d (p.get Fld.REMOUNT_CTRL.CIRCUIT_ID d) node) bs
      if !r.2 then done p .range
      else
        let p := (r.1.put Fld.REMOUNT_STATUS.BLOCKS_DONE d 0).put Fld.REMOUNT_STATUS.BUSY d 1
        p.modDie d (fun x => { x with remount := some (if bs.isEmpty then some 0 else none) })

def Part.remountTold (p : Part) (d : Nat) (st : Status) : Part :=
  p.modDie d (fun x => { x with remount := some (some st.code) })

/-- A remount stream ends (R481). -/
def execRemountComplete (d : Fin 4) (s : State) : Host.Outcome State Fault Refusal :=
  s.runReady (fun p =>
    match (p.die d).remount with
    | some (some n) =>
      ((p.put Fld.REMOUNT_STATUS.STATUS d n).put Fld.REMOUNT_STATUS.BUSY d 0).modDie d (fun x => { x with remount := none })
    | _ => p)

end Sys2Proof.Machine
end

