-- ==== Sys2Proof/Machine/Sync.lean ====
section
/-! DEFINITION. Signals to any core (R73 to R77, R239), replay spans (R241, R454 to R459), the end of a task (R88), pulling and
starting tasks (R85 to R87), releasing slots (R84) and pokes of counters (R101). -/

namespace Sys2Proof.Machine

/-! ### SIG -/

/-- Fields of g[G_OP] (R239). -/
def sigNode (v : Word) : Nat := bits v.toNat 15 0
def sigCore (v : Word) : Nat := bits v.toNat 31 16
def sigTokOf (v : Word) : Nat := bits v.toNat 39 32
def sigAmount (v : Word) : Nat := bits v.toNat 47 40

/-- Whether every field of g[G_OP] is in range and its reserved bits are 0. -/
def sigFieldsOk (v : Word) : Bool :=
  decide (bits v.toNat 63 48 = 0 ∧ sigTokOf v ≤ 63 ∧ sigCore v ≤ 255 ∧ 1 ≤ sigAmount v)

/-- SIG takes its wait, then is applied here, sent to another node, or held by the open span (R73, R76, R239, R459). -/
def Part.sigOp (p : Part) (c : Nat) : Part :=
  p.dispatch c (· == 0x71) (fun p w =>
    match p.spanCheck c w 1 with
    | some st => .refuse st false
    | none =>
      if !p.waitOk c w then .stall
      else
        let pc := (p.core c).pc
        let v := (p.core c).gr (fA w)
        let r := (p.takeWait c w).nextOrder c
        let open_ := p.spanOpen c
        let p := r.1.countHeld c (heldBy w)
        if !sigFieldsOk v then .fail p .range
        else if open_ then
          let p := (p.countHeld c 1).holdSig c ⟨r.2, sigNode v, sigCore v, sigTokOf v, sigAmount v⟩
          .done (p.signalAt c w r.2 true) (pc + 8)
        else if p.isSelf (sigNode v) then
          match p.sigLocal (sigCore v) (sigTokOf v) (sigAmount v) with
          | (p, .ok) => .done (p.signalAt c w r.2 false) (pc + 8)
          | (p, st) => .fail p st
        else
          match (p.endSends (.sig c)).sendSig c (sigNode v) (sigCore v) (sigTokOf v) (sigAmount v) (.sig c) with
          | (p, true) => .held (p.modCore c (fun x => { x with hold := .sig w }))
          | (p, false) => .fail p .range)

def execSig (c : Fin 256) (s : State) : Host.Outcome State Fault Refusal := s.runReady (fun p => p.sigOp c)

/-- The acknowledgement of a SIG to another node, or its failure, reaches the sequencer (R76, R77). -/
def Part.sigTold (p : Part) (c : Nat) (st : Status) : Part :=
  match (p.core c).hold with
  | .sig w =>
    let pc := (p.core c).pc
    let p := p.modCore c (fun x => { x with hold := .none })
    if st = .ok then (p.signalAt c w ((p.core c).order - 1) (p.spanOpen c)).dispatched c (pc + 8)
    else p.fault c none .execution w pc false (FaultRec.plain st none)
  | _ => p

/-! ### SPAN.BEGIN -/

/-- Every earlier instruction of the task has completed in every queue (R226, class B). -/
def CoreSt.quiet (x : CoreSt) : Bool :=
  ([.me0, .me1, .ve, .mover] : List EUnit).all (fun u => (x.queue u).isEmpty && (x.flying u).isEmpty)

/-- RANGE entries in use, as (kind, LOCAL, address, length). -/
def spanRanges (l : List Byte) : List (Nat × Bool × Nat × Nat) := (List.range (spanCount l)).map (fun i => spanRange l i)

def isCopy (r : Nat × Bool × Nat × Nat) : Bool := r.1 == 2
def copyTotal (l : List Byte) : Nat := ((spanRanges l).filter isCopy).foldl (fun s r => s + r.2.2.2) 0

/-- Reserved bits of a span record are 0 (R455). -/
def spanReservedOk (l : List Byte) : Bool :=
  decide (bits (fieldAt l 0 8) 62 24 = 0 ∧ bits (fieldAt l 8 8) 63 48 = 0 ∧ fieldAt l 0x11 15 = 0) &&
  (List.range (min 6 (spanCount l))).all (fun i => bits (fieldAt l (0x20 + 16 * i) 8) 60 48 == 0)

/-- The RANGE row of R456 for a record at an address. -/
def spanRecordOk (l : List Byte) : Bool :=
  let save := fieldAt l 0 8
  spanReservedOk l && decide (spanCount l ≤ 6 ∧ bits (fieldAt l 8 8) 47 0 % 256 = 0 ∧ copyTotal l ≤ 2 ^ 26) &&
  (spanRanges l).all (fun r => r.1 == 0 ||
    (r.1 != 3 && r.2.2.1 % 256 == 0 && r.2.2.2 % 256 == 0 && r.2.2.2 != 0 && (r.1 == 2 || r.2.1))) &&
  (!bit save 63 || (bits save 23 0 % 64 == 0 && inData (bits save 23 0) 0x4_0020))

/-- Which banks of a core are FULL, in the order of the save area. -/
def Part.fullBanks (p : Part) (c : Nat) : List Bool := (List.range 4).map (fun b => (p.bank (4 * c + b)).st == .full)

/-- The status word of a bank as saved, its bit 0 telling that the bank was FULL (R118, R455). -/
def savedStatus (b : Bank) : Nat :=
  let w := (statusWord b.depth b.cls b.lapsed b.saturated).toNat
  if b.st == .full then w / 2 * 2 + 1 else 0

/-- Copy every FULL bank with its status word into the bank save area (R454, R455). -/
def Part.saveBanks (p : Part) (c a : Nat) : Part :=
  (List.range 4).foldl (fun p i =>
    let b := p.bank (4 * c + i)
    let p := if b.st == .full then (p.writeHome (tileBase c + a + i * 0x1_0000) (b.bytes 0 0x1_0000) false).1 else p
    (p.writeHome (tileBase c + a + 0x4_0000 + 8 * i) (leBytes 8 (savedStatus b)) false).1) p

/-- Read one COPY range of core `c`. -/
def Part.readCopy (p : Part) (c : Nat) (r : Nat × Bool × Nat × Nat) : Part × Acc (List Byte) :=
  if r.2.1 then p.readLocal c r.2.2.1 r.2.2.2 else p.readDva (dieOf c) .moverRd r.2.2.1 r.2.2.2

/-- Copy the COPY ranges back to back into the shadow area. -/
def Part.saveCopies (p : Part) (c a : Nat) (rs : List (Nat × Bool × Nat × Nat)) : Part × Acc Unit :=
  match rs with
  | [] => (p, .ok ())
  | r :: rest =>
    match p.readCopy c r with
    | (p, .fail st) => (p, .fail st)
    | (p, .wait h) => (p, .wait h)
    | (p, .ok l) =>
      match p.writeWake (dieOf c) .moverWr a l with
      | (p, .ok _) => p.saveCopies c (a + r.2.2.2) rest
      | x => x

/-- The start state of a span (R241). -/
def CoreSt.openSpan (x : CoreSt) (pc : Nat) (rec_ : List Byte) (full : List Bool) : SpanSt :=
  ⟨pc, x.g, x.td, x.seed, x.step, x.deny, rec_, full, 0, [], [], 0, false, false, x.event, x.intervals, []⟩

/-- What opening a span comes to once every earlier instruction has completed and its wait is taken (R454 to R456). -/
def Part.spanOpenAt (p : Part) (c : Nat) (w : Word) : Disp :=
  let x := p.core c
  let pc := x.pc
  let a := (x.gr (fA w)).toNat
  if a % 64 ≠ 0 ∨ !inData a 128 then .refuse .range false
  else match p.readLocal c a 128 with
    | (_, .fail st) => .refuse st false
    | (_, .wait _) => .stall
    | (p, .ok l) =>
      if !spanRecordOk l then .refuse .range false
      else
        let full := p.fullBanks c
        let save := fieldAt l 0 8
        if full.any id && !bit save 63 then .refuse .conflict false
        else
          let q := if bit save 63 then p.saveBanks c (bits save 23 0) else p
          match q.saveCopies c (bits (fieldAt l 8 8) 47 0) ((spanRanges l).filter isCopy) with
          | (_, .fail st) => .refuse st false
          | (q, .wait h) => .held (q.waitOn c h)
          | (q, .ok _) =>
            let r := (q.takeWait c w).nextOrder c
            let q := r.1.signalAt c w r.2 false
            .done (q.modCore c (fun x => { x with span := some (x.openSpan pc l full) })) (pc + 8)

/-- SPAN.BEGIN: held back by a tandem halt (R442); CONFLICT while a span is open, but on a replay it opens nothing and
copies nothing (R241, R462). -/
def Part.spanBeginOp (p : Part) (c : Nat) : Part :=
  p.dispatch c (· == 0x74) (fun p w =>
    let x := p.core c
    match x.span with
    | some s =>
      if !s.replaying then .refuse .conflict false
      else if p.get Fld.TANDEM_STATUS.HALTED 0 = 1 then .stall
      else .done (p.modCore c (fun x => { x with span := some { s with replaying := false } })) (x.pc + 8)
    | none =>
      if p.get Fld.TANDEM_STATUS.HALTED 0 = 1 || !x.quiet || !p.waitOk c w then .stall else p.spanOpenAt c w)

def execSpanBegin (c : Fin 256) (s : State) : Host.Outcome State Fault Refusal := s.runReady (fun p => p.spanBeginOp c)

/-! ### SPAN.COMMIT -/

/-- Insert a held signal by dispatch order. -/
def insertHeld (h : HeldSig) : List HeldSig → List HeldSig
  | [] => [h]
  | x :: r => if h.order < x.order then h :: x :: r else x :: insertHeld h r

def sortHeld (l : List HeldSig) : List HeldSig := l.foldr insertHeld []

/-- A held signal that fails after the commit is an event with the status of R76 (R459). -/
def Part.heldFailed (p : Part) (c : Nat) (st : Status) (tok : Nat) : Part :=
  p.event .delivery st (unitWord (dieOf c) c 0xFF) tok

/-- Deliver one held signal. -/
def Part.deliverHeld (p : Part) (c : Nat) (h : HeldSig) : Part :=
  if p.isSelf h.node then
    match p.sigLocal h.core h.tok h.amount with
    | (p, .ok) => p
    | (p, st) => p.heldFailed c st h.tok
  else
    match p.sendSig c h.node h.core h.tok h.amount (.heldSig c h.tok) with
    | (p, true) => p
    | (p, false) => p.heldFailed c .range h.tok

/-- The span ends: its inputs are released, its held signals delivered in dispatch order, its intervals may close. -/
def Part.commitSpan (p : Part) (c : Nat) (s : SpanSt) : Part :=
  let p := p.modCore c (fun x => { x with span := none, decision := none })
  ((sortHeld s.held).foldl (fun p h => p.deliverHeld c h) p).closeIntervals c false

/-- SPAN.COMMIT: CONFLICT with no span open; else after every instruction of the span has completed (R241). -/
def Part.spanCommitOp (p : Part) (c : Nat) : Part :=
  p.dispatch c (· == 0x75) (fun p w =>
    let x := p.core c
    match x.span with
    | none => .refuse .conflict false
    | some s =>
      if p.get Fld.TANDEM_STATUS.HALTED 0 = 1 || !x.quiet || !p.waitOk c w then .stall
      else
        let r := (p.takeWait c w).nextOrder c
        .done ((r.1.commitSpan c s).signalAt c w r.2 false) (x.pc + 8))

def execSpanCommit (c : Fin 256) (s : State) : Host.Outcome State Fault Refusal := s.runReady (fun p => p.spanCommitOp c)

/-! ### Helpers for a replay on another core (R465) -/

/-- Usable units of core `c`, as they would be if none had stopped: engines 0 and 1, and the vector engine. -/
def Part.unitsOf (p : Part) (c : Nat) : List Bool := [p.meUsable c 0, p.meUsable c 1, !p.coreRetired c]

/-- Units of core `c` that can work now. -/
def Part.unitsNow (p : Part) (c : Nat) : List Bool :=
  [p.meUsable c 0 && !(p.engine (p.physEng c 0)).stopped, p.meUsable c 1 && !(p.engine (p.physEng c 1)).stopped,
    !p.coreRetired c && !(p.ve (p.phys c)).stopped]

/-- Whether core `h` could serve as the helper of core `c` once idle: held for nothing, in no enabled pair entry, with every
unit that was usable on `c`. -/
def Part.couldHelp (p : Part) (c h : Nat) : Bool :=
  h != c && clusterOf h == clusterOf c && !p.held h && (p.core h).helperFor.isNone && (p.pairOf h).isNone &&
    ((p.unitsOf c).zip (p.unitsNow h)).all (fun x => !x.1 || x.2)

/-- Cores of a cluster in rising order. -/
def coresOf (k : Nat) : List Nat := (List.range 8).map (fun i => 8 * k + i)

/-- Give a searching core the helper it waits for: the lowest-numbered that is idle, else the first that turns idle. -/
def Part.findHelper (p : Part) (c : Nat) : Part :=
  match (coresOf (clusterOf c)).find? (fun h => p.couldHelp c h && (p.core h).phase == .idle) with
  | some h => (p.modCore h (fun x => { x with helperFor := some c })).modCore c (fun x => { x with seek := false })
  | none => p

/-- A core turned idle: searches of its cluster are served, lowest core first (R465). -/
def Part.serveSeekers (p : Part) (k : Nat) : Part :=
  (coresOf k).foldl (fun p c => if (p.core c).seek then p.findHelper c else p) p

/-! ### TASK.END -/

/-- A step of a cluster may have begun: the partner copies see it (R353, R476). -/
def Part.afterGait (p : Part) (k : Nat) (rose : Bool) : Part := if rose then p.stepBoundary k else p

/-- A core's staged CORE_MASK bit applies at its task boundary (R94, R506). -/
def Part.applyMask (p : Part) (c : Nat) : Part :=
  let k := clusterOf c
  let x := p.cluster k
  let m := x.maskActive
  let want := bit (p.get Fld.DIST_CTRL.CORE_MASK k) (c % 8)
  if bit m (c % 8) = want then p else p.setCluster k { x with maskActive := m ^^^ 2 ^ (c % 8) }

/-- The task of core `c` in slot `s` ends; `st` is the outcome of its COMPLETION SIG (R88, R353, R439, R588). -/
def Part.finishTask (p : Part) (c s : Nat) (w : Word) (st : Status) : Part :=
  let k := clusterOf c
  let t := p.slot k s
  let pc := (p.core c).pc
  let p := p.closeIntervals c true
  let p := (p.count (dieOf c) 3 1).trace (dieOf c) 0 2 (unitWord (dieOf c) c 0xFF) (payload [(0, 2, s), (4, 4, t.seq)])
  let g := p.gaitEnded k (descClass t.desc)
  let p := g.1
  let p := if st = .ok then p.freeSlotAt k s
    else (p.setSlot k s { t with st := .faulted, status := st.code, core := c % 8 }).event .fault st
      (unitWord (dieOf c) c 0xFF) (s + pc * 2 ^ 16)
  let p := p.modCore c (fun x => { x with phase := .idle, hold := .none })
  let p := p.signalAt c w ((p.core c).order - 1) false
  (((p.applyMask c).serveSeekers k).afterGait k g.2).dispatched c (pc + 8)

/-- TASK.END: CONFLICT while a span is open; stalls under a tandem halt and until every instruction has completed; then the
COMPLETION SIG decides how the slot ends (R88, R241, R442). -/
def Part.taskEndOp (p : Part) (c : Nat) : Part :=
  p.dispatch c (· == 0x76) (fun p w =>
    let x := p.core c
    if x.span.isSome then .refuse .conflict false
    else if p.get Fld.TANDEM_STATUS.HALTED 0 = 1 || !x.quiet || !p.waitOk c w then .stall
    else match x.phase with
      | .running s =>
        let p := ((p.takeWait c w).nextOrder c).1
        let v := descCompletion (p.slot (clusterOf c) s).desc
        let st := if bit v 63 then p.sigLocal (bits v 29 22) (bits v 21 16) (bits v 7 0) else (p, .ok)
        .held (st.1.finishTask c s w st.2)
      | _ => .stall)

def execTaskEnd (c : Fin 256) (s : State) : Host.Outcome State Fault Refusal := s.runReady (fun p => p.taskEndOp c)

/-! ### Watches, pulling and starting (R85 to R87) -/

/-- A watch whose counter has reached its threshold reports: its precondition is met, it is freed, and a slot with every
precondition met turns READY. -/
def Part.reportWatch (p : Part) (c : Nat) (w : Watch) : Part :=
  let p := p.modCore c (fun x => { x with watches := x.watches.erase w })
  let t := p.slot w.cluster w.slot
  let met := t.met ||| 2 ^ w.idx
  let all := decide (met = 2 ^ descPre t.desc - 1)
  p.setSlot w.cluster w.slot { t with met := met, st := if t.st = .waiting ∧ all then .ready else t.st }

/-- The i-th watch of a core reports to its distributor, if its counter has reached the threshold. -/
def execWatchReport (c : Fin 256) (i : Nat) (s : State) : Host.Outcome State Fault Refusal :=
  s.runReady (fun p =>
    match (p.core c).watches[i]? with
    | some w => if w.hit then p.reportWatch c w else p
    | none => p)

/-- Whether a core would pull a task now, were one admitted. -/
def Part.pulls (p : Part) (c : Nat) : Bool := p.mayPull c && (p.core c).quiet && (p.core c).helperFor.isNone

/-- Whether a lower-numbered core of the cluster, which chooses first, takes slot `s` (R86). -/
def Part.lowerTakes (p : Part) (c s : Nat) : Bool :=
  (List.range (c % 8)).any (fun i =>
    let x := 8 * clusterOf c + i
    p.pulls x && p.pullSlot x == some s)

/-- An idle core pulls the admitted READY slot with the lowest POST_SEQ; lower-numbered cores choose first (R86, R353). -/
def Part.pull (p : Part) (c : Nat) : Part :=
  let k := clusterOf c
  if !p.pulls c then p
  else match p.pullSlot c with
    | none => p
    | some s =>
      if p.lowerTakes c s then p else
      let t := p.slot k s
      let p := p.setSlot k s { t with st := .running, core := c % 8 }
      let g := p.gaitPulled k (descClass t.desc)
      (g.1.modCore c (fun x => { x with phase := .pulled s })).afterGait k g.2

def execTaskPull (c : Fin 256) (s : State) : Host.Outcome State Fault Refusal := s.runReady (fun p => p.pull c)

/-- A pulled task starts: the core's registers take their start values and fetch begins at ENTRY (R66, R87). -/
def Part.startTask (p : Part) (c : Nat) : Part :=
  match (p.core c).phase with
  | .pulled s =>
    let k := clusterOf c
    let t := p.slot k s
    let p := p.modCore c (fun x => x.start k s t)
    p.trace (dieOf c) 0 1 (unitWord (dieOf c) c 0xFF)
      (payload [(0, 2, s), (2, 2, descMb t.desc), (4, 4, t.seq), (8, 8, descEntry t.desc)])
  | _ => p

def execTaskStart (c : Fin 256) (s : State) : Host.Outcome State Fault Refusal := s.runReady (fun p => p.startTask c)

/-! ### Releasing a FAULTED slot (R84, R245, R463) -/

/-- The host's release of slot `s` of cluster `k`: a FAULTED slot turns FREE, the span held for it ends and its core pulls
again. A slot that is not FAULTED answers CONFLICT (log entry 21). -/
def Part.releaseSlot (p : Part) (k s : Nat) : Part × Status :=
  if (p.slot k s).st ≠ .faulted then (p, .conflict)
  else
    let p := p.freeSlotAt k s
    let p := (coresOf k).foldl (fun p c =>
      if (p.core c).phase = .faulted s then
        (p.modCore c (fun x => { x with
          phase := .idle, span := none, fault := none, seek := false, decision := none,
          intervals := [] })).applyMask c
      else p) p
    (p.serveSeekers k, .ok)

end Sys2Proof.Machine
end

