-- ==== Sys2Proof/Machine/EndToEnd.lean ====
section
/-! DEFINITION. End-to-end delivery over the fabric (R376 to R382): what the end of a transfer tells its requester,
acknowledgements, resends and releases at the source, and the packets a receiving engine applies (R323, R363, R377 to R379). -/

namespace Sys2Proof.Machine

/-! ### What a finished transfer tells its requester (R76, R186, R187, R323) -/

/-- Blocks acknowledged from block 0 on without a gap. -/
def SendXfer.prefixLen (x : SendXfer) : Nat := ((List.range x.blocks).takeWhile (fun i => x.acked.contains i)).length

/-- The end of a remote RELAY.SEND: its bank is EMPTY and it completes, or it ends in a fault with its bank restored. -/
def Part.relayTold (p : Part) (c e order : Nat) (st : Status) : Part :=
  let u : EUnit := if e = 0 then .me0 else .me1
  match ((p.core c).flying u).find? (fun f => f.e.order == order && isSend f.e) with
  | none => p
  | some f =>
    if st = .ok then (p.modBank c f.e.word (fun b => { b with st := .empty })).engDone c u f []
    else
      let p := if st = .timeout then p.bump Fld.RELAY_STATUS.TIMEOUT_COUNT (clusterOf c) 1 else p
      p.failRelay ⟨c, u, f⟩ st

/-- Tell the requester of a transfer how it ended, and at which block. -/
def Part.told (p : Part) (x : SendXfer) (st : Status) (block : Nat) : Part :=
  if x.ended then p
  else match x.who with
    | .sig c => p.sigTold c st
    | .mover d id => p.modDie d (fun y => { y with active := y.active.map (fun t =>
        if t.id = id then { t with remote := some (st.code, x.prefixLen, block) } else t) })
    | .relay c e o => p.relayTold c e o st
    | .partner d => p.partnerTold d st
    | .remount d => p.remountTold d st
    | .heldSig c t => if st = .ok then p else p.heldFailed c st t
    | .tandem => p

/-! ### The source: acknowledgements, resends, release (R378 to R381) -/

def sameXfer (a b : SendXfer) : Bool := a.node == b.node && a.xfer == b.xfer

/-- Replace a transfer's record at its source. -/
def Part.setSend (p : Part) (d : Nat) (x : SendXfer) : Part :=
  p.modFab d (fun f => { f with sends := f.sends.map (fun y => if sameXfer y x then x else y) })

/-- Whether a packet waiting in the engine belongs to a transfer. -/
def ofXfer (x : SendXfer) (l : List Byte) : Bool :=
  let h := hdrOf l
  1 ≤ h.type && h.type ≤ 3 && h.dstNode == x.node && h.xfer == x.xfer

/-- End a transfer without its acknowledgements: its packets are given up and its requester is told (R379, R380). -/
def Part.failSend (p : Part) (d : Nat) (x : SendXfer) (st : Status) (block : Nat) : Part :=
  let p := p.modFab d (fun f => { f with
    sends := f.sends.filter (fun y => !sameXfer y x)
    sent := f.sent.filter (fun s => !(s.node == x.node && s.xfer == x.xfer))
    inject := f.inject.filter (fun l => !ofXfer x l)
    circOut := f.circOut.map (fun c => { c with queue := c.queue.filter (fun l => !ofXfer x l) }) })
  p.told x st block

/-- The acknowledgement of one SEQ: the transfer is complete at its last (R381). A tile that the receiver takes has found its
RECV: the pair of a remote SEND has formed (R183, R186). -/
def Part.ackSeq (p : Part) (d node seq : Nat) : Part :=
  let f := (p.die d).fab
  match f.sent.find? (fun s => s.node == node && s.seq == seq) with
  | none => p
  | some s =>
    let p := p.modFab d (fun f => { f with sent := f.sent.filter (fun y => !(y.node == node && y.seq == seq)) })
    match f.sends.find? (fun x => x.node == node && x.xfer == s.xfer) with
    | none => p
    | some x =>
      let y := { x with acked := s.block :: x.acked }
      let p := match x.who with
        | .remount e => p.put Fld.REMOUNT_STATUS.BLOCKS_DONE e
            (p.get Fld.REMOUNT_STATUS.BLOCKS_DONE e + (hdrOf s.pkt).len / 256)
        | .relay c e o => p.setFlySt c (if e = 0 then .me0 else .me1) o .relayMove
        | _ => p
      if y.acked.length = y.blocks then (p.setSend d { y with ended := true }).told y .ok 0 else p.setSend d y

/-- Send a packet again with RESEND set, its header formed afresh with the epoch in force (R380). -/
def Part.resend (p : Part) (d : Nat) (s : SentPkt) : Part :=
  let h := hdrOf s.pkt
  let circuit := match s.circuit with
    | some r => if p.get Fld.CIRCUIT.ENABLE (1024 * d + r) = 1 ∧ p.get Fld.CIRCUIT.ROLE (1024 * d + r) = 0 then some r else none
    | none => none
  let cls := if 3 ≤ h.type then 2 else if circuit.isSome then 1 else 0
  let h := { h with epoch := p.srcEpoch, cls := cls, hop := 0 }
  let pkt := withHdr (packetOf h (pktPayload s.pkt)) { h with flags := h.flags ||| 2 }
  let t := { s with pkt := packetOf h (pktPayload s.pkt), circuit := circuit, later := false,
                    resends := if s.later then s.resends else s.resends + 1 }
  let p := p.modFab d (fun f => { f with
    sent := f.sent.map (fun y => if y.node = s.node ∧ y.seq = s.seq then t else y) })
  (p.emit d circuit pkt).count d 7 1

/-! ### Transfers inside the part (R375) -/

/-- The limit of resends inside the part. -/
def inPartLimit : Nat := 8

/-- Packets of a transfer of the mover that stays inside the part and waits for nothing. -/
def Part.movePackets (p : Part) (t : Xfer) : Nat :=
  match t.src with
  | .core _ e =>
    let m := mdescOf t.desc
    if t.result.isSome || t.waitHandle.isSome then 0
    else if isAtomic e then (atomicBlocks e).length - t.added
    else if m.post then bnat t.posted.isNone
    else if p.toOther m then 0
    else m.blocks.length
  | _ => 0

/-- Relay tiles that move beyond their cluster inside the part. -/
def Part.tilesMoving (p : Part) (d : Nat) : List RelayRef :=
  p.relays.filter (fun x => isSend x.fly.e && x.fly.st == .relayMove && dieOf x.core == d && p.sendsOut x.core x.fly.e &&
    (p.partnerEngine x.core x.fly.e).isSome)

/-- The transfers of a die that stay inside the part, by key, with the number of their packets (R185, R307, R322). -/
def Part.inPart (p : Part) (d : Nat) : List ((Nat × Nat × Nat) × Nat) :=
  (p.die d).active.map (fun t => ((0, t.id, 0), p.movePackets t)) ++
    (p.tilesMoving d).map (fun x => ((1 + engOf x.fly.e.word, x.core, x.fly.e.order), 129))

/-- The i-th packet of transfers in order: its transfer and its block. -/
def packetAt : List ((Nat × Nat × Nat) × Nat) → Nat → Option ((Nat × Nat × Nat) × Nat)
  | [], _ => none
  | (k, n) :: r, i => if i < n then some (k, i) else packetAt r (i - n)

/-- A transfer of the mover stops at block `b`, of an atomic add counted from the blocks not added yet, because its resends are exhausted: the blocks before it are written (R314). -/
def Part.stopMove (p : Part) (d : Nat) (t : Xfer) (c : Nat) (e : QEntry) (b : Nat) : Part :=
  let m := mdescOf t.desc
  let b := if isAtomic e then t.added + b else b
  let at_ := fun (l : List (Nat × Nat)) => some ((⟨b, true, (lowest (l.map (·.1))).getD 0⟩ : Stuck), Status.timeout)
  let dst := (m.blocks.getD b ⟨[], [], (0, 0, 0), 0, 0, 0, 0⟩).dst
  if isAtomic e then
    Part.runEnds d t c e (p.addBlocks d c e (at_ (((atomicBlocks e)[b]?).toList.map (fun x => (x.2.1, x.2.2.1))))
      ((atomicBlocks e).drop t.added) t.added t.sums)
  else if m.post then p.movdEnds d t c e .atBlock (postEnd { t with status := Status.timeout.code } (Status.timeout.code, 0))
  else if inPlace m && srcDstOverlap m then
    match p.checkAll d none 0 m.blocks with
    | (p, .all _) =>
      let low := ((tilePairs m).find? (fun x => x.1 == b || x.2 == b)).map (·.1) |>.getD b
      let r := p.runPairs d m ((tilePairs m).filter (fun x => x.1 < low)) []
      r.1.movdEnds d t c e .atBlock (pairsEnd m r.2.1 (r.2.2.or
        (some (low, ⟨.timeout, true, (lowest (((m.blocks.getD low ⟨[], [], (0, 0, 0), 0, 0, 0, 0⟩).dst).map (·.1))).getD 0⟩))))
    | (p, _) => p
  else Part.runEnds d t c e (p.runBlocks d m (at_ dst))

/-- A transfer inside the part ends because a packet of it, block `b`, was resent 8 times without an acknowledgement: a mover's with
TIMEOUT (R314), a relay's SEND with TIMEOUT while its RECV waits again (R186). -/
def Part.giveUp (p : Part) (d : Nat) (k : Nat × Nat × Nat) (b : Nat) : Part :=
  if k.1 = 0 then
    match (p.die d).active.find? (fun t => t.id == k.2.1) with
    | some t => match t.src with
      | .core c e => p.stopMove d t c e b
      | _ => p
    | none => p
  else
    match (p.tilesMoving d).find? (fun x => 1 + engOf x.fly.e.word == k.1 && x.core == k.2.1 && x.fly.e.order == k.2.2) with
    | some x =>
      let p := match p.mate x .relayMove with
        | some y => p.setFlySt y.core y.unit y.fly.e.order .relayWait
        | none => p
      p.relayTimeout x
    | none => p

/-- 4 us pass without an acknowledgement of packet `i` of the transfers of die `d` inside the part (R375). -/
def Part.inPartTimeout (p : Part) (d i : Nat) : Part :=
  match packetAt (p.inPart d) i with
  | none => p
  | some (k, b) =>
    let live := (p.die d).resent.filter (fun x => (p.inPart d).any (fun y => y.1 == x.1))
    let n := ((live.find? (fun x => x.1 == k && x.2.1 == b)).map (·.2.2)).getD 0
    let rest := live.filter (fun x => !(x.1 == k && x.2.1 == b))
    if n < inPartLimit then (p.modDie d (fun x => { x with resent := (k, b, n + 1) :: rest })).count d 7 1
    else (p.modDie d (fun x => { x with resent := rest.filter (fun x => x.1 != k) })).giveUp d k b

/-- The i-th packet awaiting acknowledgement at a bank was not acknowledged within RESEND_TIMEOUT of its last sending: it is
sent again, or after RESEND_LIMIT resends its transfer ends with TIMEOUT (R380). Behind the packets to other parts come those of
transfers inside the part, whose timeout and limit are fixed (R375). -/
def execResendTimeout (d : Fin 4) (i : Nat) (s : State) : Host.Outcome State Fault Refusal :=
  s.runReady (fun p =>
    match (p.die d).fab.sent[i]? with
    | none => p.inPartTimeout d (i - (p.die d).fab.sent.length)
    | some t =>
      if !t.out then p
      else if t.later || t.resends < p.get Fld.E2E_CTRL.RESEND_LIMIT d then p.resend d t
      else match (p.die d).fab.sends.find? (fun x => x.node == t.node && x.xfer == t.xfer) with
        | some x => p.failSend d x .timeout t.block
        | none => p)

/-- One packet lifetime after its last sending, a transfer acknowledged whole sends RELEASE (R381). -/
def execReleaseWaitExpiry (d : Fin 4) (i : Nat) (s : State) : Host.Outcome State Fault Refusal :=
  s.runReady (fun p =>
    match (p.die d).fab.sends[i]? with
    | none => p
    | some x =>
      if x.acked.length ≠ x.blocks then p
      else
        let p := p.modFab d (fun f => { f with sends := f.sends.filter (fun y => !sameXfer y x) })
        p.fabControl d x.node (bankUnit (unitDie x.unit)) 7 x.xfer [])

/-! ### Packets that reached a die's engine, in order of arrival -/

/-- The first packet at the engine of die `d`, if `is` holds of it. -/
def Part.rxHead (p : Part) (d : Nat) (is : List Byte → Bool) : Option (List Byte) :=
  match (p.die d).fab.rx with
  | l :: _ => if is l then some l else none
  | [] => none

def Part.dropRx (p : Part) (d : Nat) : Part := p.modFab d (fun f => { f with rx := f.rx.drop 1 })

def isType (n : Nat) (l : List Byte) : Bool := (hdrOf l).type == n

/-- An ACK (R378). -/
def Part.ackPacket (p : Part) (d : Nat) (l : List Byte) : Part :=
  let pl := pktPayload l
  let base := fieldAt pl 0 4
  let map_ := fieldAt pl 8 56
  ((List.range 448).filter (fun i => bit map_ i)).foldl
    (fun p i => p.ackSeq d (hdrOf l).srcNode ((base + i) % 2 ^ 32)) (p.dropRx d)

def execAck (d : Fin 4) (s : State) : Host.Outcome State Fault Refusal :=
  s.runReady (fun p => match p.rxHead d (isType 5) with | some l => p.ackPacket d l | none => p)

/-- A NACK: resend at once, end with its STATUS, or spare the next resend (R379). -/
def Part.nackPacket (p : Part) (d : Nat) (l : List Byte) : Part :=
  let v := fieldAt (pktPayload l) 0 8
  let node := (hdrOf l).srcNode
  let p := p.dropRx d
  let f := (p.die d).fab
  match f.sent.find? (fun s => s.node == node && s.seq == bits v 31 0) with
  | none => p
  | some s =>
    match bits v 55 48 with
    | 0 => p.resend d s
    | 1 =>
      match f.sends.find? (fun x => x.node == node && x.xfer == s.xfer) with
      | some x => p.failSend d x (Status.ofCode (bits v 47 32)) s.block
      | none => p
    | 2 => p.modFab d (fun f => { f with
        sent := f.sent.map (fun y => if y.node = s.node ∧ y.seq = s.seq then { y with later := true } else y) })
    | _ => p

def execNack (d : Fin 4) (s : State) : Host.Outcome State Fault Refusal :=
  s.runReady (fun p => match p.rxHead d (isType 6) with | some l => p.nackPacket d l | none => p)

/-! ### Streams of SEQ values received (R376, R378, R379) -/

/-- The stream after a packet arrived: those it skipped are missing. A jump wider than a window restarts it. -/
def Flow.saw (x : Flow) (seq : Nat) : Flow :=
  let gap := (seq + 2 ^ 32 - x.next) % 2 ^ 32
  if gap < 4096 then
    { x with next := (seq + 1) % 2 ^ 32, missing := x.missing ++ (List.range gap).map (fun i => (x.next + i) % 2 ^ 32) }
  else if 2 ^ 31 ≤ gap then { x with missing := x.missing.erase seq }
  else { x with next := (seq + 1) % 2 ^ 32, missing := [] }

def Part.flowOf (p : Part) (node bank : Nat) : Option Flow := p.flows.find? (fun x => x.node == node && x.bank == bank)

def Part.setFlow (p : Part) (x : Flow) : Part :=
  match p.flowOf x.node x.bank with
  | some _ => { p with flows := p.flows.map (fun y => if y.node = x.node ∧ y.bank = x.bank then x else y) }
  | none => { p with flows := p.flows ++ [x] }

/-- Send a control packet of die `d` to the bank of another part that numbers a stream. -/
def Part.answer (p : Part) (d node bank type xfer : Nat) (payload : List Byte) : Part × Bool :=
  (p.fabControl d node (bankUnit bank) type xfer payload, (p.sendDie d node).isSome)

/-- The first of unacknowledged SEQ values, modulo 2^32. -/
def firstSeq (l : List Nat) : Nat :=
  l.foldl (fun b s => if 2 ^ 31 ≤ (s + 2 ^ 32 - b) % 2 ^ 32 then s else b) (l.headD 0)

/-- Acknowledge what a stream has received (R378). -/
def Part.sendAck (p : Part) (x : Flow) : Part :=
  let base := firstSeq x.unacked
  let in_ := fun (s : Nat) => decide ((s + 2 ^ 32 - base) % 2 ^ 32 < 448)
  let map_ := (x.unacked.filter in_).foldl (fun m s => m ||| 2 ^ ((s + 2 ^ 32 - base) % 2 ^ 32)) 0
  match p.answer x.die x.node x.bank 5 0 (leBytes 4 base ++ leBytes 4 0 ++ leBytes 56 map_) with
  | (p, true) => p.setFlow { x with unacked := x.unacked.filter (fun s => !in_ s) }
  | (p, false) => p

/-- Note a packet of a stream that reached die `d`; one that is to be acknowledged joins the unacknowledged, and 64 of those are acknowledged at
once. -/
def Part.noteSeq (p : Part) (d : Nat) (h : Hdr) (ack : Bool) : Part :=
  let new : Flow := ⟨h.srcNode, unitDie h.srcUnit, d, h.seq, [], []⟩
  let x := ({ (p.flowOf h.srcNode (unitDie h.srcUnit)).getD new with die := d } : Flow).saw h.seq
  let x := { x with unacked := if ack ∧ ¬ x.unacked.contains h.seq then x.unacked ++ [h.seq] else x.unacked }
  let p := p.setFlow x
  if 64 ≤ x.unacked.length then p.sendAck x else p

/-- ACK_DELAY after the first unacknowledged packet of the i-th stream (R378). -/
def execAckDelayExpiry (i : Nat) (s : State) : Host.Outcome State Fault Refusal :=
  s.runReady (fun p => match p.flows[i]? with
    | some x => if x.unacked.isEmpty then p else p.sendAck x
    | none => p)

/-- A NACK of a SEQ (R379). -/
def Part.sendNack (p : Part) (d node bank xfer seq kind : Nat) (st : Status) : Part :=
  (p.answer d node bank 6 xfer (leBytes 8 (kind * 2 ^ 48 + st.code * 2 ^ 32 + seq))).1

/-- The j-th missing SEQ of the i-th stream is still missing GAP_WAIT later (R379). -/
def execGapWaitExpiry (i j : Nat) (s : State) : Host.Outcome State Fault Refusal :=
  s.runReady (fun p => match p.flows[i]? with
    | some x => match x.missing[j]? with
      | some q => (p.setFlow { x with missing := x.missing.erase q }).sendNack x.die x.node x.bank 0 q 0 .ok
      | none => p
    | none => p)

/-! ### Applying a packet (R377) -/

/-- What applying a packet comes to. -/
inductive RxOut where
  | done (p : Part)
  | refuse (p : Part) (st : Status)
  | later (p : Part)
  | wait (p : Part)

def ofHdr (h : Hdr) (r : RecvRec) : Bool := r.node == h.srcNode && r.bank == unitDie h.srcUnit && r.xfer == h.xfer

/-- Replace, or add, a receiver's record. -/
def Part.putRecv (p : Part) (d : Nat) (r : RecvRec) : Part :=
  let same := fun (y : RecvRec) => y.node == r.node && y.bank == r.bank && y.xfer == r.xfer
  p.modFab d (fun f => { f with
    recvs := if f.recvs.any same then f.recvs.map (fun y => if same y then r else y) else f.recvs ++ [r] })

/-- The record of a packet's transfer, none while no record is free for it. -/
def Part.recvFor (p : Part) (d : Nat) (h : Hdr) : Option RecvRec :=
  match (p.die d).fab.recvs.find? (ofHdr h) with
  | some r => some r
  | none =>
    if 4096 ≤ (p.die d).fab.recvs.length then none else some ⟨h.srcNode, unitDie h.srcUnit, h.xfer, [], [], none⟩

/-- Receive the packet at the head of die `d`'s engine: check the target, apply it unless its block was applied before, and
acknowledge it; or refuse it (R377, R379). A packet that must wait goes behind the others. -/
def Part.receive (p : Part) (d : Nat) (l : List Byte) (apply : Part → RecvRec → Bool → RxOut) : Part :=
  let h := hdrOf l
  let p := p.dropRx d
  let nack := fun (p : Part) (kind : Nat) (st : Status) =>
    (p.noteSeq d h false).sendNack d h.srcNode (unitDie h.srcUnit) h.xfer h.seq kind st
  match p.recvFor d h with
  | none => nack p 2 .ok
  | some r =>
    match apply (p.putRecv d r) r (r.applied.contains h.offset) with
    | .refuse q st => nack q 1 st
    | .later q => nack q 2 .ok
    | .wait q => q.modFab d (fun f => { f with rx := f.rx ++ [l] })
    | .done q =>
      let r := ((q.die d).fab.recvs.find? (ofHdr h)).getD r
      let r := if r.applied.contains h.offset then r else { r with applied := h.offset :: r.applied }
      (q.putRecv d r).noteSeq d h true

/-- Whether an address lies in a tile store or a bank of a cluster that is switched off (R379). -/
def Part.inOffCluster (p : Part) (d a : Nat) : Bool :=
  match (p.translate d .moverWr a).2 with
  | .ok pa => (match whereIs pa with
    | .tile c _ => !p.domainOn (clusterOf c)
    | .window k _ => !p.domainOn (clusterOf (k / 4))
    | _ => false)
  | _ => false

/-- A WRITE to this part's memory: translated and checked as a whole, then written (R323, R334, R377). A cluster that is switched
off refuses it (R379). -/
def Part.applyWrite (p : Part) (d : Nat) (l : List Byte) (dup : Bool) : RxOut :=
  let h := hdrOf l
  if (linesOf h.addr h.len).any (fun x => p.inOffCluster d x.1) then .refuse p .busy
  else match p.probe d .moverWr (linesOf h.addr h.len) with
  | (p, .fail st) => .refuse p st
  | (p, .wait _) => .wait p
  | (p, .ok _) =>
    if dup then .done p
    else match p.writeDva d .moverWr h.addr (pktPayload l) with
      | (p, .ok _) => .done (p.wakeBy h.addr h.len)
      | (p, .fail st) => .refuse p st
      | (p, .wait _) => .wait p

/-- A WRITE to a die's memory: unit kind 0 (R364). -/
def isWrite (l : List Byte) : Bool := isType 1 l && unitKind (hdrOf l).dstUnit != 3

def execWritePacket (d : Fin 4) (s : State) : Host.Outcome State Fault Refusal :=
  s.runReady (fun p => match p.rxHead d isWrite with
    | some l => p.receive d l (fun p _ dup => p.applyWrite d l dup)
    | none => p)

/-- A SIG increments its counter when its bit goes from 0 to 1 (R74, R377). -/
def Part.applySig (p : Part) (l : List Byte) (dup : Bool) : RxOut :=
  let v := fieldAt (pktPayload l) 0 8
  let c := bits v 23 16
  let t := bits v 13 8
  let n := bits v 7 0
  match p.sigCheck c t n with
  | .ok => .done (if dup then p else p.tokAdd c t n)
  | st => .refuse p st

def execSigPacket (d : Fin 4) (s : State) : Host.Outcome State Fault Refusal :=
  s.runReady (fun p => match p.rxHead d (isType 3) with
    | some l => p.receive d l (fun p _ dup => p.applySig l dup)
    | none => p)

/-! ### Relay tiles from another part (R183, R185, R187, R194) -/

/-- The 32-bit elements of a byte string. -/
def wordsOf : List Byte → List (BitVec 32)
  | a :: b :: c :: d :: r => BitVec.ofNat 32 (leNat [a, b, c, d]) :: wordsOf r
  | _ => []

/-- The elements of a whole tile that are not 0. -/
def tileCells (t : Tab (List Byte)) : Tab (BitVec 32) :=
  let ws := wordsOf ((List.range 128).flatMap (fun i => bytesAt (Tab.get [] t (i + 1)) 0 512))
  ((List.range 16384).zip ws).filter (fun x => x.2 != 0)

/-- Whether the RECV `x` names the engine that sent a relay tile, with the header `pl`: by node and engine number, or by node,
cluster and the chain position that the sender resolved (R183, R233, log entry 18). -/
def Part.recvNames (p : Part) (x : RelayRef) (h : Hdr) (pl : List Byte) : Bool :=
  match p.partner x.core x.fly.e with
  | .remote node k n pos =>
    let e := bits h.srcUnit 8 0
    node == h.srcNode && (if pos then k == e / 16 && fieldAt pl 10 1 == n else 16 * k + n == e)
  | _ => false

/-- Block 0 of a relay tile resolves the receiving engine and pairs with its RECV. -/
def Part.relayOpen (p : Part) (d : Nat) (r : RecvRec) (l : List Byte) : RxOut :=
  let h := hdrOf l
  let pl := pktPayload l
  let e0 := bits h.dstUnit 8 0
  let found := if fieldAt pl 9 1 = 1 then (p.chainAt (e0 / 16) (e0 % 16)).map (fun i => e0 / 16 * 16 + i) else some e0
  match found with
  | none => .refuse (p.shortEvent (e0 / 16) (e0 % 16)) .retiredUnit
  | some e =>
    if p.engineGone (e / 2) (e % 2) then .refuse p .retiredUnit
    else if !p.domainOn (e / 16) then .refuse p .busy
    else match p.relays.find? (fun x => isRecv x.fly.e && x.fly.st == .relayWait && ownEngine x.core x.fly.e.word == e &&
        bankOf x.fly.e.word == fieldAt pl 8 1 && p.recvNames x h pl) with
      | none => .later p
      | some x =>
        let st : Word := BitVec.ofNat 64 (fieldAt pl 0 8)
        let a : Bank := { Bank.reset with status := st }
        if xbOf x.fly.e.word = 1 ∧ (mergeClass a.cls (p.bank (bankNo x.core x.fly.e.word)).cls).isNone then
          .refuse (p.failRelay x .conflict) .conflict
        else
          let p := p.setFlySt x.core x.unit x.fly.e.order .relayMove
          .done (p.putRecv d { r with
            tile := Tab.put r.tile 0 pl, relay := some (x.core, unitIdx x.unit, x.fly.e.order) })

/-- Once every block of a tile is there, it reaches the bank and the RECV completes (R72, R182, R187). -/
def Part.relayClose (p : Part) (r : RecvRec) : Part :=
  match r.relay with
  | some (c, ui, order) =>
    if (List.range 129).all (fun i => (Tab.find? r.tile i).isSome) then
      let u : EUnit := if ui = 0 then .me0 else .me1
      match ((p.core c).flying u).find? (fun f => f.e.order == order && f.st == .relayMove) with
      | some f =>
        let st : Word := BitVec.ofNat 64 (fieldAt (Tab.get [] r.tile 0) 0 8)
        let cells := tileCells r.tile
        let give := fun (p : Part) (x : Nat) => p.deliverTile x f.e.word 0 cells st
        ((p.runners c).foldl give p).engDone c u f []
      | none => p
    else p
  | none => p

/-- A RELAY packet: block 0 opens the tile, the others are kept in the transfer's record. -/
def Part.applyRelay (p : Part) (d : Nat) (r : RecvRec) (l : List Byte) (dup : Bool) : RxOut :=
  let h := hdrOf l
  if dup then .done p
  else
    let out := if h.offset = 0 then p.relayOpen d r l
      else .done (p.putRecv d { r with tile := Tab.put r.tile h.offset (pktPayload l) })
    match out with
    | .done q => .done (match (q.die d).fab.recvs.find? (ofHdr h) with
      | some y => q.relayClose y
      | none => q)
    | x => x

def execRelayPacket (d : Fin 4) (s : State) : Host.Outcome State Fault Refusal :=
  s.runReady (fun p => match p.rxHead d (isType 2) with
    | some l => p.receive d l (fun p r dup => p.applyRelay d r l dup)
    | none => p)

/-! ### Records (R381) -/

/-- RELEASE frees the receiver's record of a transfer. -/
def execReleasePacket (d : Fin 4) (s : State) : Host.Outcome State Fault Refusal :=
  s.runReady (fun p => match p.rxHead d (isType 7) with
    | some l => (p.dropRx d).modFab d (fun f => { f with recvs := f.recvs.filter (fun r => !ofHdr (hdrOf l) r) })
    | none => p)

/-- A record not released within RECORD_HOLD of its last packet is freed. -/
def execRecordHoldExpiry (d : Fin 4) (i : Nat) (s : State) : Host.Outcome State Fault Refusal :=
  s.runReady (fun p => p.modFab d (fun f => { f with recvs := f.recvs.eraseIdx i }))

end Sys2Proof.Machine
end

