-- ==== Sys2Proof/Machine/Package.lean ====
section
/-! DEFINITION. The on-package network (R374): one router in each base die, whose two network outputs are the die's lateral edges
(log entry 82). A packet of the fabric for another die crosses it, in two halves where its payload is longer than 256 bytes. -/

namespace Sys2Proof.Machine

/-! ### The edges of a die (R19, R27) -/

/-- The die whose base die stands at a site. -/
def Part.dieAt (p : Part) (site : Nat) : Option Nat := (List.range 4).find? (fun d => p.get Fld.DIE_IDENT.SITE d == site)

/-- The die across edge L0 (`false`) or L1 (`true`) of die `d` (R19). -/
def Part.acrossEdge (p : Part) (d : Nat) (l1 : Bool) : Nat :=
  (p.dieAt ((p.get Fld.DIE_IDENT.SITE d + (if l1 then 3 else 1)) % 4)).getD 0

def deadFld (l1 : Bool) : Fld := if l1 then Fld.EDGE_STATUS.L1_DEAD else Fld.EDGE_STATUS.L0_DEAD

/-- Whether network output j of die `d`, edge L0 or L1, is live. -/
def Part.netLive (p : Part) (d j : Nat) : Bool := p.get (deadFld (j == 1)) d == 0

/-! ### Packets (R374) -/

/-- The largest payload of a packet on the package, and the hops after which one that is not at its die is discarded. -/
def netPayload : Nat := 256
def netHopLimit : Nat := 32

/-- A packet for die `e` as it crosses the package: whole, or as two packets under its header, each with its CRC. -/
def netPieces (e : Nat) (l : List Byte) : List NetPkt :=
  let n := (hdrOf l).len
  if n ≤ netPayload then [⟨e, 0, l⟩]
  else
    let crc := bytesAt l (32 + n) 8
    [⟨e, 1, bytesAt l 0 (32 + netPayload) ++ crc⟩, ⟨e, 2, bytesAt l 0 32 ++ bytesAt l (32 + netPayload) (n - netPayload) ++ crc⟩]

/-- The packet whose two halves these are. -/
def netJoin (a b : NetPkt) : List Byte := bytesAt a.pkt 0 (32 + netPayload) ++ b.pkt.drop 32

/-- Whether two halves are of one packet: their headers agree but for HOP and FLAGS. -/
def netMate (a b : NetPkt) : Bool := a.half + b.half == 3 && bytesAt a.pkt 0 0x1D == bytesAt b.pkt 0 0x1D

def Part.modNet (p : Part) (d : Nat) (f : NetSt → NetSt) : Part := p.modDie d (fun x => { x with net := f x.net })

/-- The engine of die `d` receives a packet, after the checks of the final receiver (R363, R365). -/
def Part.deliver (p : Part) (d : Nat) (pkt : List Byte) : Part :=
  let h := hdrOf pkt
  if 512 < h.len ∨ !crcOk pkt ∨ !typeOk h then p.bump Fld.FAB_DROPS.CRC_DROP d 1
  else if h.type = 4 ∨ h.type = 8 ∨ h.type = 9 then p
  else p.modFab d (fun f => { f with rx := f.rx ++ [pkt] })

/-- A packet leaves the network at its die: a half waits for its mate, which the engine joins with it. -/
def Part.netEject (p : Part) (d : Nat) (x : NetPkt) : Part :=
  if x.half = 0 then p.deliver d x.pkt
  else match (p.die d).net.halves.find? (netMate x) with
    | some y => (p.modNet d (fun n => { n with halves := n.halves.erase y })).deliver d
        (if x.half = 1 then netJoin x y else netJoin y x)
    | none => p.modNet d (fun n => { n with
        halves := n.halves.filter (fun y => !(y.half == x.half && bytesAt y.pkt 0 0x1D == bytesAt x.pkt 0 0x1D)) ++ [x] })

/-! ### A frame of the router -/

/-- Hops from die `d` by output j to die `e` over live edges. -/
def Part.netHops (p : Part) (d j e : Nat) : Nat → Option Nat
  | 0 => none
  | n + 1 =>
    if !p.netLive d j then none
    else if p.acrossEdge d (j == 1) = e then some 1
    else (p.netHops (p.acrossEdge d (j == 1)) j e n).map (· + 1)

/-- Whether output j of die `d` leads closer to die `e`: no other leads there in fewer hops. -/
def Part.netProductive (p : Part) (d j e : Nat) : Bool :=
  match p.netHops d j e 3, p.netHops d (1 - j) e 3 with
  | some a, some b => decide (a ≤ b)
  | some _, none => true
  | _, _ => false

/-- A frame of a router under way: the part, and the outputs taken. -/
structure NetFrame where
  p : Part
  taken : List Nat

/-- The outputs that are free, the productive ones first. -/
def NetFrame.outputs (x : NetFrame) (d e : Nat) : List Nat :=
  let free := (List.range 2).filter (fun j => x.p.netLive d j && !x.taken.contains j)
  free.filter (fun j => x.p.netProductive d j e) ++ free.filter (fun j => !x.p.netProductive d j e)

/-- A packet leaves by output j with a hop count: it arrives across the edge, by the input of the other direction. -/
def NetFrame.leave (x : NetFrame) (d j hop : Nat) (k : NetPkt) : NetFrame :=
  let p := if x.p.netProductive d j k.die then x.p else x.p.count d 6 1
  let k := { k with pkt := withHdr k.pkt { hdrOf k.pkt with hop := hop } }
  ⟨p.modNet (p.acrossEdge d (j == 1)) (fun n => { n with arrived := n.arrived ++ [(1 - j, k)] }), j :: x.taken⟩

/-- Packets that stay after ejection, and those ejected: one for each unit's port in a frame (R374). -/
def netSplit (d : Nat) (l : List (Nat × NetPkt)) : List NetPkt × List (Nat × NetPkt) :=
  l.foldl (fun (s : List NetPkt × List (Nat × NetPkt)) y =>
    let unit := (hdrOf y.2.pkt).dstUnit
    if y.2.die = d ∧ ¬ s.1.any (fun z => (hdrOf z.pkt).dstUnit == unit) then (s.1 ++ [y.2], s.2) else (s.1, s.2 ++ [y])) ([], [])

/-- Transit packets take their outputs in rank order; every router has as many outputs as inputs. -/
def NetFrame.transits (x : NetFrame) (d : Nat) (l : List (Nat × NetPkt)) : NetFrame :=
  l.foldl (fun (s : NetFrame) y =>
    match s.outputs d y.2.die with
    | j :: _ => s.leave d j ((hdrOf y.2.pkt).hop + 1) y.2
    | [] => s) x

/-- Packets of the engine take productive outputs still free, with HOP 1; the others wait (R372). -/
def NetFrame.injects (x : NetFrame) (d : Nat) : NetFrame :=
  let l := (x.p.die d).net.inject
  l.foldl (fun (s : NetFrame) k =>
    match (s.outputs d k.die).filter (fun j => s.p.netProductive d j k.die) with
    | j :: _ => s.leave d j 1 k
    | [] => { s with p := s.p.modNet d (fun n => { n with inject := n.inject ++ [k] }) })
    { x with p := x.p.modNet d (fun n => { n with inject := [] }) }

/-- Rank of transit packets (R370), with a pointer over the two network inputs. -/
def netBefore (tie : Nat) (a b : Nat × NetPkt) : Bool :=
  let x := hdrOf a.2.pkt
  let y := hdrOf b.2.pkt
  if x.hop ≠ y.hop then y.hop < x.hop
  else if (x.cls = 2) ≠ (y.cls = 2) then x.cls = 2
  else (a.1 + 2 - tie) % 2 < (b.1 + 2 - tie) % 2

/-- At most two arrivals in rank order. -/
def netRanked (tie : Nat) : List (Nat × NetPkt) → List (Nat × NetPkt)
  | [a, b] => if netBefore tie b a then [b, a] else [a, b]
  | l => l

/-- One frame of the on-package router of die `d` (R374): the oldest frame of each live input; a packet that has made 32 hops and is
not at its die is discarded; ejection, transit, injection. -/
def Part.netFrame (p : Part) (d : Nat) : Part :=
  let n := (p.die d).net
  let ins := (List.range 2).filterMap (fun i => n.arrived.find? (fun y => y.1 == i))
  let p := p.modNet d (fun n => { n with arrived := ins.foldl (fun l y => l.erase y) n.arrived, tie := (n.tie + 1) % 2 })
  let got := ins.filter (fun y => p.netLive d y.1)
  let old := fun (y : Nat × NetPkt) => y.2.die != d && decide (netHopLimit ≤ (hdrOf y.2.pkt).hop)
  let p := p.bump Fld.FAB_DROPS.HOP_DROP d (got.filter old).length
  let r := netSplit d (netRanked n.tie (got.filter (fun y => !old y)))
  let p := r.1.foldl (fun (p : Part) k => p.netEject d k) p
  ((NetFrame.mk p []).transits d r.2 |>.injects d).p

end Sys2Proof.Machine
end

