-- ==== Sys2Proof/Machine/Router.lean ====
section
/-! DEFINITION. Fabric ports (R358 to R360, R391, R392), the die router frame by frame (R361, R366 to R373, R383, R384, R408 to
R410), and routing epochs (R387 to R390). -/

namespace Sys2Proof.Machine

/-! ### Ports -/

def Part.port (p : Part) (q : Nat) : PortSt := Tab.get PortSt.reset p.ports q
def Part.setPort (p : Part) (q : Nat) (x : PortSt) : Part := { p with ports := Tab.set PortSt.reset p.ports q x }

/-- A port enters a state; the change is traced (R391, R588). -/
def Part.setPortState (p : Part) (q st : Nat) : Part :=
  if p.portState q = st then p
  else (p.put Fld.PORT_STATUS.STATE q st).trace (q / 6) 5 2 (unitWord (q / 6) q 0xFF) (payload [(0, 1, q), (1, 1, st)])

/-- A locked member whose parent port or recovered clock fails keeps its frequency and reports it (R426). -/
def Part.enterHoldover (p : Part) : Part :=
  if p.get Fld.TIME_STATUS.LOCK 0 = 2 then
    (p.put Fld.TIME_STATUS.LOCK 0 3).event .time .ok (unitWord 0xFF 0 0xFF) 3
  else p

/-- Whether circuit `id` has an enabled record of a role on port `q`: its first output (role 0) or last input (role 1) (R404). -/
def Part.circuitAt (p : Part) (q role id : Nat) : Bool :=
  (List.range 1024).any (fun r =>
    let i := 1024 * (q / 6) + r
    p.get Fld.CIRCUIT.ENABLE i == 1 && p.get Fld.CIRCUIT.ROLE i == role && p.get Fld.CIRCUIT.PORT i == q % 6 &&
      p.get Fld.CIRCUIT.CIRCUIT_ID i == id)

/-- The streams of circuits that begin or end at a port are discarded (R386). -/
def Part.breakCircuits (p : Part) (q : Nat) : Part :=
  p.modFab (q / 6) (fun f => { f with
    circOut := f.circOut.map (fun c => if p.circuitAt q 0 c.id then { c with buf := [], tags := [], template := [] } else c)
    circIn := f.circIn.filter (fun c => !p.circuitAt q 1 c.id) })

/-- A port goes DOWN: frames on the wire are lost and its circuits break (R386); the loss of an ACTIVE port is reported (R360). -/
def Part.portGoesDown (p : Part) (q : Nat) : Part :=
  let was := p.portState q
  if was = 0 then p
  else
    let p := (p.setPortState q 0).put Fld.PORT_STATUS.WIDTH q 0
    let p := (p.setPort q PortSt.reset).breakCircuits q
    let p := if was = 4 then p.event .link .ok (unitWord (q / 6) q 0xFF) q else p
    if p.get Fld.TIME_CTRL.PARENT_PORT 0 = q then p.enterHoldover else p

/-- TESTED ports become ACTIVE once NODE is assigned and their bit is set in the mask of a LIVE bank (R392). -/
def Part.activatePorts (p : Part) : Part :=
  if p.node = 0xFFFF then p
  else (List.range 24).foldl (fun p q =>
    let d := q / 6
    if p.portState q = 3 ∧ ([0, 1] : List Nat).any (fun b => p.bankState d b == 2 && bit (p.bankPorts d b) (q % 6)) then
      p.setPortState q 4
    else p) p

/-- ENABLE of a port is written (R360, R391, R392, R398). -/
def Part.portEnable (p : Part) (q old new : Nat) : Part :=
  if new = 0 then p.portGoesDown q
  else if old = 0 ∧ p.portState q = 0 then p.setPortState q 1
  else p

/-- How a port forms from the lanes that trained (R358): 2 four lanes, 1 two lanes, none. -/
def lanesForm (mode : Nat) (good : BitVec 4) : Option Nat :=
  let all := good = 15
  let low := good.toNat % 4 = 3
  let high := good.toNat / 4 = 3
  match mode with
  | 0 => if all then some 2 else if low ∨ high then some 1 else none
  | 1 => if all then some 2 else none
  | 2 => if low then some 1 else none
  | _ => if high then some 1 else none

/-- Training ends: a port that forms measures its link and is tested; one that does not keeps training (R358, R391). -/
def execPortTrainingComplete (q : Fin 24) (lanes : BitVec 4) (delay : BitVec 8) (s : State) :
    Host.Outcome State Fault Refusal :=
  s.runReady (fun p =>
    if p.portState q ≠ 1 then p
    else match lanesForm (p.get Fld.PORT_CTRL.LANE_MODE q) lanes with
      | none => p
      | some w =>
        let p := (p.put Fld.PORT_STATUS.WIDTH q w).put Fld.PORT_STATUS.LINK_DELAY_FRAMES q delay.toNat
        ({ p with pins := { p.pins with refSd := true } } : Part).setPort q PortSt.reset |>.setPortState q 2)

/-- Count an uncorrectable codeword of a port: it spoils a test, and 16 within 2^20 ticks take an ACTIVE port DOWN (R360). -/
def Part.fecBad (p : Part) (q : Nat) : Part :=
  let x := p.port q
  let near := x.fecAt.filter (fun t => p.time.raw < t + 2 ^ 20)
  let p := (p.bump Fld.PORT_STATUS.FEC_UNCORR q 1).setPort q { x with fecAt := p.time.raw :: near, probeBad := true }
  if p.portState q = 4 ∧ 16 ≤ near.length + 1 then p.portGoesDown q else p

/-- A PROBE packet arrives on a port (R363, R392): it names the far end; one that fails its CRC, or an uncorrectable codeword,
fails the test. -/
def execProbe (q : Fin 24) (node : BitVec 16) (far : Fin 24) (crcOk fecOk : Bool) (s : State) :
    Host.Outcome State Fault Refusal :=
  s.runReady (fun p =>
    if p.portState q < 2 ∨ p.portState q = 5 then p
    else
      let p := if fecOk then p else p.fecBad q
      if p.portState q < 2 then p
      else
        let x := p.port q
        if crcOk then p.setPort q { x with far := some (node.toNat, far.val) } else p.setPort q { x with probeBad := true })

/-- The 100 ms of a port test end (R392). -/
def execPortTestComplete (q : Fin 24) (s : State) : Host.Outcome State Fault Refusal :=
  s.runReady (fun p =>
    if p.portState q ≠ 2 then p
    else if (p.port q).probeBad then p.setPortState q 5
    else
      let p := match (p.port q).far with
        | some f => (p.put Fld.PORT_STATUS.NEIGHBOUR_NODE q f.1).put Fld.PORT_STATUS.NEIGHBOUR_PORT q f.2
        | none => p
      (p.setPortState q 3).activatePorts)

/-- A lane in use loses FEC lock: an ACTIVE or TESTED port goes DOWN, a test fails (R360). -/
def execPortDown (q : Fin 24) (s : State) : Host.Outcome State Fault Refusal :=
  s.runReady (fun p =>
    if p.portState q = 4 ∨ p.portState q = 3 then p.portGoesDown q
    else if p.portState q = 2 then p.setPort q { p.port q with probeBad := true }
    else p)

/-! ### Frames (R361) -/

def frameKind (l : List Byte) : Nat := bits (fieldAt l 0 2) 15 14
def firstTag (l : List Byte) : Nat := bits (fieldAt l 0 2) 9 0
def frameContent (l : List Byte) : List Byte := bytesAt l 2 574
def emptyFrame : List Byte := List.replicate 576 0
def packetFrame (pkt : List Byte) : List Byte := leBytes 2 0x4000 ++ bytesAt pkt 0 574
def streamFrame (first : Nat) (content : List Byte) : List Byte := leBytes 2 (0x8000 + first) ++ bytesAt content 0 574

/-- The packet of a packet frame: header, payload and CRC. -/
def framePacket (l : List Byte) : List Byte :=
  let c := frameContent l
  c.take (40 + min 512 (hdrOf c).len)

/-- The CIRCUIT_ID of the first tag that begins in a frame, where all of it lies there. -/
def frameCircuit (l : List Byte) : Option Nat :=
  if firstTag l + 8 ≤ 574 then some (fieldAt (frameContent l) (firstTag l + 6) 2) else none

/-! ### The state of a frame being decided -/

/-- A frame of a die's router under way: the part, and what each output sends. -/
structure RtFrame where
  p : Part
  out : Tab (List Byte)

/-- Whether port j of die `d` carries frames in frame `f` (R359, R368). -/
def Part.carries (p : Part) (d f j : Nat) : Bool :=
  p.portState (6 * d + j) == 4 && (p.get Fld.PORT_STATUS.WIDTH (6 * d + j) != 1 || f % 2 == 0)

def RtFrame.free (x : RtFrame) (d f j : Nat) : Bool := x.p.carries d f j && (Tab.find? x.out j).isNone

/-- Usable and free for a packet of an epoch (R368). -/
def RtFrame.usable (x : RtFrame) (d f epoch j : Nat) : Bool := x.free d f j && bit (x.p.bankPorts d epoch) j

/-- The output a transit packet takes, and whether it leads closer (R369). -/
def RtFrame.transit (x : RtFrame) (d f : Nat) (h : Hdr) : Option (Nat × Bool) :=
  let r := x.p.route d h.epoch h.dstNode
  let ok := fun (j : Nat) => x.usable d f h.epoch j
  let any_ := ((List.range 6).find? ok).map (fun j => (j, r.valid && bit r.productive j))
  if !r.valid then any_
  else if r.first < 6 ∧ ok r.first then some (r.first, true)
  else if r.second < 6 ∧ ok r.second then some (r.second, true)
  else match (List.range 6).find? (fun j => ok j && bit r.productive j) with
    | some j => some (j, true)
    | none => any_

/-- The output an injected packet takes: only a productive one (R372). -/
def RtFrame.inject (x : RtFrame) (d f : Nat) (h : Hdr) : Option Nat :=
  if (x.p.route d h.epoch h.dstNode).valid then
    match x.transit d f h with
    | some (j, true) => some j
    | _ => none
  else none

/-- A packet leaves by an output; a non-productive one is a deflection (R369, R584). -/
def RtFrame.leave (x : RtFrame) (d j : Nat) (productive : Bool) (hop : Nat) (pkt : List Byte) : RtFrame :=
  let p := if productive then x.p else x.p.count d 6 1
  ⟨p, Tab.put x.out j (packetFrame (withHdr pkt { hdrOf pkt with hop := hop }))⟩

/-! ### Arrivals and ejection -/

/-- A packet that reached this node goes to the engine of its die, over the package where that is another (R367, R374). -/
def Part.eject (p : Part) (d : Nat) (pkt : List Byte) : Part :=
  let e := unitDie (hdrOf pkt).dstUnit
  if e = d then p.deliver d pkt else p.modNet d (fun n => { n with inject := n.inject ++ netPieces e pkt })

/-- The packets that arrive and stay: those of an OPEN epoch and those that have made 64 hops are discarded (R369). -/
def Part.arrive (p : Part) (d : Nat) (ins : List (Nat × List Byte)) : Part × List (Nat × List Byte) :=
  ins.foldl (fun (s : Part × List (Nat × List Byte)) x =>
    if frameKind x.2 ≠ 1 then s
    else
      let pkt := framePacket x.2
      let h := hdrOf pkt
      if s.1.bankState d h.epoch = 0 then (s.1.bump Fld.FAB_DROPS.EPOCH_DROP d 1, s.2)
      else if h.dstNode ≠ s.1.node ∧ 64 ≤ h.hop then (s.1.bump Fld.FAB_DROPS.HOP_DROP d 1, s.2)
      else (s.1, s.2 ++ [(x.1, pkt)])) (p, [])

/-! ### Circuits (R366, R383, R384, R408 to R410) -/

/-- The active slot entry of fabric output j in frame `f`. -/
def Part.slotEntry (p : Part) (d j f : Nat) : Nat :=
  let w := (p.rd .SLOT_PAIR_ACTIVE ((81 * d + 75 + j) * 32 + f % 64 / 2)).toNat
  if f % 2 = 0 then w % 2 ^ 32 else w / 2 ^ 32

def seOwned (e : Nat) : Bool := bit e 31
def seCircuit (e : Nat) : Bool := bit e 31 && bit e 30
def seOwner (e : Nat) : Nat := bits e 27 24
def seId (e : Nat) : Nat := bits e 15 0

/-- The destination record of a stream that ends at this bank: by its last input port and number (R384, R404). -/
def Part.destRecord (p : Part) (d j : Nat) (id : Option Nat) : Option Nat :=
  let known := fun (n : Nat) => match id with
    | some m => n == m
    | none => (p.die d).fab.circIn.any (fun x => x.id == n && !x.buf.isEmpty)
  ((List.range 1024).find? (fun r =>
    let i := 1024 * d + r
    p.get Fld.CIRCUIT.ENABLE i == 1 && p.get Fld.CIRCUIT.ROLE i == 1 && p.get Fld.CIRCUIT.PORT i == j &&
      known (p.get Fld.CIRCUIT.CIRCUIT_ID i))).map (fun r => p.get Fld.CIRCUIT.CIRCUIT_ID (1024 * d + r))

/-- Take whole packets off a stream: BIND headers become the template, tags expand under it (R366). Answers what is left, the
packets, and how many headers failed their check. -/
def parseStream (fuel id : Nat) (template buf : List Byte) (out : List (List Byte)) (bad : Nat) :
    List Byte × List Byte × List (List Byte) × Nat :=
  match fuel with
  | 0 => (template, buf, out, bad)
  | n + 1 =>
    if buf.length < 8 then (template, buf, out, bad)
    else
      let t := fieldAt buf 0 8
      let len := bits t 15 6
      if t = 0 ∨ bits t 63 48 ≠ id then (template, [], out, bad)
      else if bit t 0 then
        if buf.length < 48 then (template, buf, out, bad)
        else
          let hd := bytesAt buf 8 32
          let ok := bytesAt buf 40 8 == packetCrc { hdrOf hd with len := 0 } []
          parseStream n id (if ok then hd else template) (buf.drop 48) out (if ok then bad else bad + 1)
      else if buf.length < 16 + len then (template, buf, out, bad)
      else
        let h := expandTag (hdrOf template) (bits t 47 16) len (bits t 5 5)
        parseStream n id template (buf.drop (16 + len)) (out ++ [h.bytes ++ bytesAt buf 8 (len + 8)]) bad

/-- A stream frame reaches the engine of its exit bank. -/
def Part.streamIn (p : Part) (d id : Nat) (l : List Byte) : Part :=
  let f := (p.die d).fab
  let x := (f.circIn.find? (fun y => y.id == id)).getD ⟨id, [], []⟩
  let c := frameContent l
  let buf := if firstTag l = 0 then c
    else if x.buf.isEmpty then (if firstTag l < 574 then c.drop (firstTag l) else []) else x.buf ++ c
  let r := parseStream 576 id x.template buf [] 0
  let p := p.modFab d (fun f => { f with circIn := ⟨id, r.2.1, r.1⟩ :: f.circIn.filter (fun y => y.id != id) })
  let p := if r.2.2.2 = 0 then p else p.bump Fld.FAB_DROPS.CRC_DROP d r.2.2.2
  r.2.2.1.foldl (fun p k => p.eject d k) p

/-- The circuit streams that arrive take the outputs their slots name, end here, or miss (R369, R384). -/
def RtFrame.streams (x : RtFrame) (d f : Nat) (ins : List (Nat × List Byte)) : RtFrame × List Nat :=
  ins.foldl (fun (s : RtFrame × List Nat) y =>
    if frameKind y.2 ≠ 2 then s
    else
      let id := frameCircuit y.2
      let mine := fun (k : Nat) =>
        let e := s.1.p.slotEntry d k f
        seCircuit e && seOwner e == y.1 && (match id with | some n => seId e == n | none => true)
      match (List.range 6).find? mine with
      | some k =>
        let n := seId (s.1.p.slotEntry d k f)
        if s.1.free d f k then (⟨s.1.p, Tab.put s.1.out k y.2⟩, n :: s.2)
        else ({ s.1 with p := s.1.p.bump Fld.RT_STATUS.CIRCUIT_MISS d 1 }, n :: s.2)
      | none =>
        match s.1.p.destRecord d y.1 id with
        | some n => ({ s.1 with p := s.1.p.streamIn d n y.2 }, s.2)
        | none => ({ s.1 with p := s.1.p.bump Fld.RT_STATUS.CIRCUIT_MISS d 1 }, s.2)) (x, [])

/-- The next stream frame of a circuit that begins at this bank. -/
def CircOut.next (x : CircOut) : List Byte × CircOut :=
  let first := match x.tags with
    | t :: _ => if t < 574 then t else 0x3FF
    | [] => 0x3FF
  (streamFrame first (x.buf.take 574),
    { x with buf := x.buf.drop 574, tags := (x.tags.filter (fun t => 574 ≤ t)).map (fun t => t - 574) })

/-- Whether a circuit's frame of output k can carry its stream: the output is free, or its port is not ACTIVE and the stream is
lost (R386). -/
def RtFrame.slotOpen (x : RtFrame) (d f k : Nat) : Bool := x.free d f k || x.p.portState (6 * d + k) != 4

/-- The next stream frame of the engine's circuit that owns output k in frame `f` leaves by it. -/
def RtFrame.sendStream (x : RtFrame) (d f k : Nat) : RtFrame :=
  let e := x.p.slotEntry d k f
  match (x.p.die d).fab.circOut.find? (fun c => seCircuit e && c.id == seId e && !c.buf.isEmpty && 6 ≤ seOwner e) with
  | some c =>
    let n := c.next
    ⟨x.p.modFab d (fun g => { g with circOut := g.circOut.map (fun y => if y.id = c.id then n.2 else y) }),
      if x.free d f k then Tab.put x.out k n.1 else x.out⟩
  | none => x

/-- An output is held by an owner that has nothing to send (R370, R410). -/
def RtFrame.null (x : RtFrame) (d k : Nat) : RtFrame :=
  ⟨x.p.bump Fld.ARB_STATUS.NULL_COUNT (81 * d + 75 + k) 1, Tab.put x.out k emptyFrame⟩

/-- Owned slots of circuits without an arriving stream, whose owner presented one in the frame before: a circuit of the engine
sends its stream, one that has nothing to send holds the frame and sends an empty one (R370, R409, R410). -/
def RtFrame.ownSlots (x : RtFrame) (d f : Nat) : RtFrame :=
  (List.range 6).foldl (fun (s : RtFrame) k =>
    let e := s.p.slotEntry d k f
    let fab := (s.p.die d).fab
    if !seCircuit e || !s.slotOpen d f k || !fab.seen.contains (seId e) then s
    else if fab.circOut.any (fun c => c.id == seId e && !c.buf.isEmpty) && decide (6 ≤ seOwner e) then s.sendStream d f k
    else if s.free d f k then s.null d k
    else s) x

/-- Circuit streams that first appear in a frame their circuit owns compete in the background: they take what transit and bounced
packets left (R372, R410). -/
def RtFrame.lateSlots (x : RtFrame) (d f : Nat) : RtFrame :=
  (List.range 6).foldl (fun (s : RtFrame) k => if s.slotOpen d f k then s.sendStream d f k else s) x

/-! ### Transit, bounce and injection (R369 to R372) -/

/-- Whether transit packet `a` ranks before `b` (R370). -/
def ranksBefore (tie : Nat) (a b : Nat × List Byte) : Bool :=
  let x := hdrOf a.2
  let y := hdrOf b.2
  if x.hop ≠ y.hop then y.hop < x.hop
  else if (x.cls = 2) ≠ (y.cls = 2) then x.cls = 2
  else (a.1 + 12 - tie) % 12 < (b.1 + 12 - tie) % 12

def rankInsert (tie : Nat) (a : Nat × List Byte) : List (Nat × List Byte) → List (Nat × List Byte)
  | [] => [a]
  | b :: r => if ranksBefore tie a b then a :: b :: r else b :: rankInsert tie a r

def ranked (tie : Nat) (l : List (Nat × List Byte)) : List (Nat × List Byte) := l.foldr (rankInsert tie) []

/-- Packets of a die's streams that left and await acknowledgement (R376). -/
def Part.awaiting (p : Part) (d : Nat) : Nat := ((p.die d).fab.sent.filter (fun s => s.out)).length

/-- Whether a packet is of a numbered stream. -/
def numbered (h : Hdr) : Bool := 1 ≤ h.type && h.type ≤ 3

/-- Mark a packet as having left the engine. -/
def Part.markOut (p : Part) (d : Nat) (h : Hdr) : Part :=
  if !numbered h then p
  else p.modFab d (fun f => { f with
    sent := f.sent.map (fun s => if s.node = h.dstNode ∧ s.seq = h.seq then { s with out := true } else s) })

/-- Whether the window lets a packet leave: a packet sent for the first time needs room in it. -/
def Part.windowOpen (p : Part) (d : Nat) (h : Hdr) : Bool :=
  !numbered h || bit h.flags 1 || decide (p.awaiting d < 4096)

/-- An owned slot of an inner link: the engine's first packet that would take the output leaves by it (R408). -/
def RtFrame.ownerInject (x : RtFrame) (d f k : Nat) : RtFrame :=
  let fab := (x.p.die d).fab
  let ok := fun (l : List Byte) =>
    x.inject d f (hdrOf l) == some k && x.p.windowOpen d (hdrOf l) && x.p.bankState d (hdrOf l).epoch != 0
  match fab.bounce.find? ok with
  | some l =>
    let y := x.leave d k true ((hdrOf l).hop + 1) l
    { y with p := y.p.modFab d (fun g => { g with bounce := g.bounce.erase l }) }
  | none =>
    match fab.inject.find? ok with
    | some l =>
      let y := x.leave d k true 1 l
      { y with p := (y.p.modFab d (fun g => { g with inject := g.inject.erase l })).markOut d (hdrOf l) }
    | none => x

/-- Whether an owner presents a packet that would take output k (R408): a transit packet of its input, or one of the engine. -/
def RtFrame.presents (x : RtFrame) (d f k owner : Nat) (l : List (Nat × List Byte)) : Bool :=
  if 6 ≤ owner then
    let fab := (x.p.die d).fab
    (fab.bounce ++ fab.inject).any (fun m => x.inject d f (hdrOf m) == some k && x.p.windowOpen d (hdrOf m))
  else l.any (fun y => y.1 == owner && (x.transit d f (hdrOf y.2)).map (·.1) == some k)

/-- Outputs whose next frame has an owner that is no circuit and presents a packet now (R409). -/
def RtFrame.asking (x : RtFrame) (d f : Nat) (l : List (Nat × List Byte)) : List (Nat × Nat) :=
  (List.range 6).filterMap (fun k =>
    let e := x.p.slotEntry d k (f + 1)
    if seOwned e && !seCircuit e && x.presents d f k (seOwner e) l then some (k, seOwner e) else none)

/-- Owned slots without a circuit, whose owner presented a packet in the frame before, give their input the output ahead of the
ranking; an owner that has nothing to send holds it (R408 to R410). Answers the packets left. -/
def RtFrame.owners (x : RtFrame) (d f : Nat) (l : List (Nat × List Byte)) : RtFrame × List (Nat × List Byte) :=
  (List.range 6).foldl (fun (s : RtFrame × List (Nat × List Byte)) k =>
    let e := s.1.p.slotEntry d k f
    if !seOwned e || seCircuit e || !(s.1.p.die d).fab.asked.contains (k, seOwner e) || !s.1.free d f k then s
    else if !s.1.presents d f k (seOwner e) s.2 then (s.1.null d k, s.2)
    else if 6 ≤ seOwner e then (s.1.ownerInject d f k, s.2)
    else match s.2.find? (fun y => y.1 == seOwner e) with
      | some y =>
        match s.1.transit d f (hdrOf y.2) with
        | some (j, good) => (s.1.leave d j good ((hdrOf y.2).hop + 1) y.2, s.2.erase y)
        | none => s
      | none => s) (x, l)

/-- A transit packet without an output enters the bounce queue, or is discarded (R371). -/
def Part.bouncePacket (p : Part) (d : Nat) (pkt : List Byte) : Part :=
  let f := (p.die d).fab
  if 64 ≤ f.bounce.length then p.bump Fld.FAB_DROPS.BOUNCE_DROP d 1
  else
    let h := hdrOf pkt
    p.modFab d (fun f => { f with bounce := f.bounce ++ [withHdr pkt { h with hop := h.hop + 4, flags := h.flags ||| 4 }] })

/-- The ranked transit packets take their outputs. -/
def RtFrame.transits (x : RtFrame) (d f : Nat) (l : List (Nat × List Byte)) : RtFrame :=
  l.foldl (fun (s : RtFrame) y =>
    match s.transit d f (hdrOf y.2) with
    | some (j, good) => s.leave d j good ((hdrOf y.2).hop + 1) y.2
    | none => { s with p := s.p.bouncePacket d y.2 }) x

/-- The bounced packets, then circuit streams, then the packets of the engine in the order it formed them, take productive outputs
still free. A packet of an OPEN epoch is discarded (R369, R372). -/
def RtFrame.injects (x : RtFrame) (d f : Nat) : RtFrame :=
  let fab := (x.p.die d).fab
  let start : RtFrame := { x with p := x.p.modFab d (fun g => { g with bounce := [], inject := [] }) }
  let s := fab.bounce.foldl (fun (s : RtFrame) l =>
    match s.inject d f (hdrOf l) with
    | some j => s.leave d j true ((hdrOf l).hop + 1) l
    | none => { s with p := s.p.modFab d (fun g => { g with bounce := g.bounce ++ [l] }) }) start
  let s := s.lateSlots d f
  fab.inject.foldl (fun (s : RtFrame) l =>
    let h := hdrOf l
    if s.p.bankState d h.epoch = 0 then { s with p := s.p.bump Fld.FAB_DROPS.EPOCH_DROP d 1 }
    else
      match if s.p.windowOpen d h then s.inject d f h else none with
      | some j => let t := s.leave d j true 1 l; { t with p := t.p.markOut d h }
      | none => { s with p := s.p.modFab d (fun g => { g with inject := g.inject ++ [l] }) }) s

/-- Packets of a circuit enter its stream while a frame of it is not full, as far as the window of the bank allows (R376). -/
def Part.refill (p : Part) (d id : Nat) : Nat → Part
  | 0 => p
  | n + 1 =>
    match (p.die d).fab.circOut.find? (fun c => c.id == id) with
    | none => p
    | some c =>
      match c.queue with
      | [] => p
      | l :: r =>
        if c.buf.length < 574 && p.windowOpen d (hdrOf l) then
          ((p.modFab d (fun g => { g with
            circOut := g.circOut.map (fun y => if y.id = id then { (c.push l) with queue := r } else y) })).markOut d (hdrOf l)).refill d id n
        else p

/-- One frame of the router of die `d` (R369). -/
def Part.routerFrame (p : Part) (d : Nat) (ins : List (Nat × List Byte)) (bad : List Nat) : Part :=
  let f := (p.die d).fab.frame
  let live := (List.range 6).filter (fun j => p.carries d f j)
  let lost := live.filter (fun j => bad.contains j)
  let p := lost.foldl (fun p j => p.fecBad (6 * d + j)) p
  let p := ((p.die d).fab.circOut.map (·.id)).foldl (fun p id => p.refill d id 64) p
  let got := live.filterMap (fun j => if lost.contains j then none else (ins.find? (fun x => x.1 == j)))
  let want := ((p.die d).fab.circOut.filter (fun c => !c.buf.isEmpty)).map (·.id)
  let a := p.arrive d got
  let s := (RtFrame.mk a.1 []).streams d f got
  let move := a.2.filter (fun y => (hdrOf y.2).dstNode != s.1.p.node)
  let asked := s.1.asking d f move
  let x := s.1.ownSlots d f
  let mine := a.2.filter (fun y => (hdrOf y.2).dstNode == x.p.node)
  let x := { x with p := mine.foldl (fun (p : Part) (y : Nat × List Byte) => p.eject d y.2) x.p }
  let o := x.owners d f move
  let x := (o.1.transits d f (ranked (p.die d).fab.tie o.2)).injects d f
  let q := (List.range 6).foldl (fun (p : Part) j =>
    let o := if p.carries d f j then (Tab.find? x.out j).getD emptyFrame else []
    p.setPort (6 * d + j) { p.port (6 * d + j) with out := o }) x.p
  q.modFab d (fun g => { g with frame := g.frame + 1, tie := (g.tie + 1) % 12, seen := s.2 ++ want, asked := asked })

/-- A frame of a die's router, whose domain is on, and of its router on the package, which is not switched (R12, R374). -/
def execRouterFrame (d : Fin 4) (ins : List (Nat × List Byte)) (bad : List Nat) (s : State) :
    Host.Outcome State Fault Refusal :=
  whenWf (Instr.wf (.routerFrame d ins bad)) <|
  s.runReady (fun p => (if p.domainOn (36 + d) then p.routerFrame d ins bad else p).netFrame d)

/-- A packet held in the bounce queue for 500 ns is discarded (R371). -/
def execBounceHoldExpiry (d : Fin 4) (i : Nat) (s : State) : Host.Outcome State Fault Refusal :=
  s.runReady (fun p =>
    if i < (p.die d).fab.bounce.length then
      (p.modFab d (fun f => { f with bounce := f.bounce.eraseIdx i })).bump Fld.FAB_DROPS.BOUNCE_DROP d 1
    else p)

/-! ### Routing epochs (R387 to R389) -/

/-- A write reaches a routing bank: one that is CONFIRMED returns to OPEN (R387). -/
def Part.bankWritten (p : Part) (d b : Nat) : Part := if p.bankState d b = 1 then p.setBankState d b 0 else p

/-- CONFIRM of bank `b` on die `d`; the bank of the live epoch, confirmed on all four dies, is LIVE at once (R387). -/
def Part.confirmBank (p : Part) (d b : Nat) : Part :=
  let p := if p.bankState d b = 0 then p.setBankState d b 1 else p
  if b = p.srcEpoch ∧ p.node ≠ 0xFFFF ∧ p.get Fld.EPOCH_CTRL.FLIP_PENDING 0 = 0 ∧
      (List.range 4).all (fun x => p.bankState x b != 0) then
    ((List.range 4).foldl (fun p x => p.setBankState x b 2) p).activatePorts
  else p

/-- The checks of a write of EPOCH_FLIP_AT, in order (R389). -/
def Part.flipCheck (p : Part) (m : Nat) : Status :=
  let b := 1 - p.srcEpoch
  if !p.jobValid then .unsupported
  else if p.get Fld.EPOCH_CTRL.FLIP_PENDING 0 = 1 then .conflict
  else if !(List.range 4).all (fun d => p.bankState d b == 1) then .epochPending
  else if m ≤ p.jobTime then .range
  else .ok

/-- A flip is set for job time M (R388 step 3). -/
def Part.flipSet (p : Part) (m : Nat) : Part :=
  { (p.put Fld.EPOCH_FLIP_AT.FLIP_AT 0 m).put Fld.EPOCH_CTRL.FLIP_PENDING 0 1 with flipDone := false }

/-- Job time M of a pending flip: sources stamp the other epoch, and its bank is LIVE (R388 step 4). -/
def execEpochFlip (s : State) : Host.Outcome State Fault Refusal :=
  s.runReady (fun p =>
    if p.get Fld.EPOCH_CTRL.FLIP_PENDING 0 = 0 ∨ p.flipDone ∨ !p.jobValid then p
    else
      let b := 1 - p.srcEpoch
      let p := p.reachJob (p.get Fld.EPOCH_FLIP_AT.FLIP_AT 0)
      let p := { (List.range 4).foldl (fun (p : Part) d => p.setBankState d b 2) p with flipDone := true }
      ((p.put Fld.EPOCH_CTRL.SRC_EPOCH 0 b).trace 0 5 1 (unitWord 0xFF 0 0xFF) (payload [(0, 1, b)])).activatePorts)

/-- Job time M + 20 us: the old bank returns to OPEN, and the flip is over (R388 step 5). -/
def execEpochBankReopen (s : State) : Host.Outcome State Fault Refusal :=
  s.runReady (fun p =>
    if p.get Fld.EPOCH_CTRL.FLIP_PENDING 0 = 0 ∨ !p.flipDone ∨ !p.jobValid then p
    else
      let p := p.reachJob ((p.get Fld.EPOCH_FLIP_AT.FLIP_AT 0 + 20000) % 2 ^ 64)
      ({ (List.range 4).foldl (fun (p : Part) d => p.setBankState d (1 - p.srcEpoch) 0) p with flipDone := false } : Part).put
        Fld.EPOCH_CTRL.FLIP_PENDING 0 0)

end Sys2Proof.Machine
end

