-- ==== Sys2Proof/Machine/Arbiter.lean ====
section
/-! DEFINITION. The slot arbiters (R405 to R422): checking and committing a staged set, applying it, and starvation. -/

namespace Sys2Proof.Machine

/-! ### Groups (R405, R418) -/

/-- The kinds of arbiter group. -/
inductive ArbKind where
  | tile | hbm | relay | fabric
  deriving DecidableEq, Repr

/-- The kind of group `g` of a die. -/
def arbKind (g : Nat) : ArbKind := if g < 64 then .tile else if g < 67 then .hbm else if g < 75 then .relay else .fabric

/-- The highest requester index of a kind. -/
def ArbKind.lastOwner : ArbKind → Nat
  | .tile => 10 | .hbm => 4 | .relay => 1 | .fabric => 11

/-- Instances in a group of a kind. -/
def ArbKind.instances : ArbKind → Nat
  | .tile => 32 | .hbm => 32 | .relay => 16 | .fabric => 1

/-! ### Commit (R414, R415) -/

/-- The 64 slot entries of 32 SLOT_PAIR words. -/
def slotEntries (l : List Word) : List Nat := l.flatMap (fun w => [w.toNat % 2 ^ 32, w.toNat / 2 ^ 32])

/-- An entry that R408 and R415 refuse for a kind. -/
def badEntry (k : ArbKind) (e : Nat) : Bool :=
  bits e 29 28 != 0 || bits e 23 16 != 0 || (!seOwned e && e != 0) || (!bit e 30 && seId e != 0) ||
    decide (k.lastOwner < seOwner e) || (bit e 30 && k != .fabric)

/-- The checks of GO on a staged set, in order (R415). -/
def arbCheck (k : ArbKind) (ctrl : Word) (pairs : List Word) : Status :=
  let f := fun (x : Fld) => x.of ctrl
  let n := f Fld.ARB_CTRL.N_SLOTS
  let cyc := f Fld.ARB_CTRL.SLOT_CYCLES
  let mode := f Fld.ARB_CTRL.MODE
  let bg := f Fld.ARB_CTRL.BACKGROUND
  let es := slotEntries pairs
  if es.any (badEntry k) || n < 1 || 64 < n || cyc < 1 || 16 < cyc || (k == .fabric && (n != 64 || cyc != 1)) then .range
  else if mode = 1 ∧ es.any seCircuit then .conflict
  else if mode = 3 ∨ (k = .fabric ∧ (mode ≠ 0 ∨ bg ≠ 2)) ∨ (k ≠ .fabric ∧ 1 < bg) then .unsupported
  else .ok

/-- The staged set of a group: ARB_CTRL, then its SLOT_PAIR words. -/
def Part.stagedSet (p : Part) (i : Nat) : List Word :=
  p.rd .ARB_CTRL i :: (List.range 32).map (fun k => p.rd .SLOT_PAIR (32 * i + k))

/-- GO in ARB_COMMIT of group `g` of die `d` (R415): a set that passes awaits application. -/
def Part.commitGo (p : Part) (d g : Nat) : Part × Status :=
  let i := 81 * d + g
  let l := p.stagedSet i
  let st := arbCheck (arbKind g) (p.rd .ARB_CTRL i) (l.drop 1)
  let p := p.put Fld.ARB_COMMIT.COMMIT_STATUS i st.code
  if st = .ok then ({ p.put Fld.ARB_COMMIT.PENDING i 1 with arbSets := Tab.put p.arbSets i l }, st) else (p, st)

/-- Write the words of a set into the active views. -/
def Part.activate (p : Part) (i : Nat) (l : List Word) : Part :=
  (List.range 32).foldl (fun (p : Part) k => p.wr .SLOT_PAIR_ACTIVE (32 * i + k) (l.getD (k + 1) 0))
    (p.wr .ARB_CTRL_ACTIVE i (l.getD 0 0))

/-- The period boundary at which a committed set is applied (R414). -/
def execArbSetApply (d : Fin 4) (g : Fin 81) (s : State) : Host.Outcome State Fault Refusal :=
  s.runReady (fun p =>
    let i := 81 * d.val + g.val
    match Tab.find? p.arbSets i with
    | none => p
    | some l => { (p.activate i l).put Fld.ARB_COMMIT.PENDING i 0 with arbSets := Tab.del p.arbSets i })

/-! ### Starvation (R416) -/

/-- The lowest instance among pairs of instance and requester, 0 for none. -/
def lowestInstance (l : List (Nat × Nat)) : Nat := l.foldl (fun m x => min m x.1) (l.headD (0, 0)).1

/-- Record who starves in group `i`; STARVE_INSTANCE follows (R421). -/
def Part.setStarved (p : Part) (i : Nat) (l : List (Nat × Nat)) : Part :=
  { p.put Fld.ARB_STATUS.STARVE_INSTANCE i (lowestInstance l) with starved := Tab.set [] p.starved i l }

/-- STARVED bits of group `i` are cleared by a write of ones (R421). -/
def Part.clearStarved (p : Part) (i ones : Nat) : Part :=
  let p := p.put Fld.ARB_STATUS.STARVED i (p.get Fld.ARB_STATUS.STARVED i &&& (ones ^^^ 0xFFF))
  p.setStarved i ((Tab.get [] p.starved i).filter (fun x => !bit ones x.2))

/-- A requester waited longer than STARVE_THRESHOLD cycles at an instance (R416, R584 counter 10). -/
def execStarvationDetect (d : Fin 4) (g : Fin 81) (inst : Fin 32) (req : Fin 12) (s : State) :
    Host.Outcome State Fault Refusal :=
  s.runReady (fun p =>
    let i := 81 * d.val + g.val
    let k := arbKind g
    if k.instances ≤ inst.val ∨ k.lastOwner < req.val ∨ p.get Fld.ARB_STARVE.STARVE_EN i = 0 then p
    else
      let was := bit (p.get Fld.ARB_STATUS.STARVED i) req
      let p := (p.bump Fld.ARB_STATUS.STARVE_COUNT i 1).count d 10 1
      let p := p.put Fld.ARB_STATUS.STARVED i (p.get Fld.ARB_STATUS.STARVED i ||| 2 ^ req.val)
      let l := Tab.get [] p.starved i
      let p := p.setStarved i (if l.contains (inst.val, req.val) then l else (inst.val, req.val) :: l)
      if was then p else p.event .starvation .starvation (unitWord d 0 0xFF) g)

end Sys2Proof.Machine
end

