-- ==== Sys2Proof/Machine/Time.lean ====
section
/-! DEFINITION. Meridian and job time (R423 to R434), the tandem unit's records and notices (R440 to R442, R450), and enabling
a pair of clusters (R443, R452). -/

namespace Sys2Proof.Machine

/-! ### Meridian (R424 to R426) -/

/-- The wardens' comparison each millisecond: afterwards every die stands within 1 ns of every other (R424). -/
def execMeridianDieCompare (behind d1 d2 d3 : Bool) (s : State) : Host.Outcome State Fault Refusal :=
  s.runReady (fun p =>
    let off := fun (b : Bool) => if b then (if behind then (-1 : Int) else 1) else 0
    let p := p.advanceTo ((p.time.raw / 1000000 + 1) * 1000000)
    let k := Tab.set 0 (Tab.set 0 (Tab.set 0 [] 1 (off d1)) 2 (off d2)) 3 (off d3)
    { p with time := { p.time with skew := k } })

/-- LOCK after a write of TIME_CTRL that changed ROLE, PARENT_PORT or LOCK_EN (R425, R426). -/
def Part.timeCtrlChanged (p : Part) (old : Word) : Part :=
  let same := fun (f : Fld) => f.of old == p.get f 0
  if same Fld.TIME_CTRL.ROLE && same Fld.TIME_CTRL.PARENT_PORT && same Fld.TIME_CTRL.LOCK_EN then p
  else p.put Fld.TIME_STATUS.LOCK 0 (if p.get Fld.TIME_CTRL.ROLE 0 = 2 ∧ p.get Fld.TIME_CTRL.LOCK_EN 0 = 1 then 1 else 0)

/-- The phase error stayed under 1 ns for 1 ms: LOCKED, if the parent port is TESTED or ACTIVE (R425). -/
def execPllLocked (s : State) : Host.Outcome State Fault Refusal :=
  s.runReady (fun p =>
    let st := p.portState (p.get Fld.TIME_CTRL.PARENT_PORT 0)
    if p.get Fld.TIME_STATUS.LOCK 0 = 1 ∧ (st = 3 ∨ st = 4) then p.put Fld.TIME_STATUS.LOCK 0 2 else p)

/-- The recovered clock of the parent port fails (R426). -/
def execHoldoverEntry (s : State) : Host.Outcome State Fault Refusal := s.runReady (fun p => p.enterHoldover)

/-! ### The offset survey (R427 to R430) -/

def Part.setSurvey (p : Part) (v : Option Survey) : Part := { p with time := { p.time with survey := v } }

/-- GO starts a survey: the first REQUEST leaves. -/
def Part.startSurvey (p : Part) : Part :=
  (p.put Fld.TIME_STATUS.SURVEY_BUSY 0 1).setSurvey (some ⟨[], 0, p.time.raw, false, p.time.raw⟩)

/-- GO is refused on a part that is not a member, and while a survey runs (R430). -/
def Part.surveyCheck (p : Part) : Status :=
  if p.get Fld.TIME_CTRL.ROLE 0 ≠ 2 then .conflict else if p.get Fld.TIME_STATUS.SURVEY_BUSY 0 = 1 then .busy else .ok

/-- A survey ends with a status. -/
def Part.endSurvey (p : Part) (st : Status) : Part :=
  ((p.put Fld.TIME_STATUS.SURVEY_BUSY 0 0).put Fld.TIME_STATUS.SURVEY_STATUS 0 st.code).setSurvey none

/-- Write JOB_OFFSET of the reference (R430 step 3). -/
def Part.referenceOffset (p : Part) (v : Nat) : Part :=
  ((p.setOffset (signed 64 v)).put Fld.TIME_STATUS.DEPTH 0 0).put Fld.TIME_STATUS.ERROR_BOUND_NS 0 0

/-- One exchange of a survey ends (R428): stamps of the member and the parent, and the parent's DEPTH. -/
def Part.exchange (p : Part) (v : Survey) (t1 t2 t3 t4 depth : Nat) : Part :=
  let o := signed 64 (((t2 : Int) - t1 + (t3 - t4)) % (2 ^ 64 : Int)).toNat
  let r := signed 64 (((t4 : Int) - t1 - (t3 - t2)) % (2 ^ 64 : Int)).toNat
  let least := v.kept.foldl (fun (m : Int) x => min m x.2) r
  let kept := ((o, r) :: v.kept).filter (fun x => x.2 ≤ least + 8)
  if kept.length = 4 then
    let sum := kept.foldl (fun (n : Int) x => n + x.1) 0
    let p := p.setOffset ((sum + 4) / 8)
    ((p.put Fld.TIME_STATUS.DEPTH 0 (depth + 1)).put Fld.TIME_STATUS.ERROR_BOUND_NS 0 (4 * ((depth + 1) % 256))).endSurvey .ok
  else if 16 ≤ v.made + 1 then p.endSurvey .timeout
  else p.setSurvey (some { v with kept := kept, made := v.made + 1, retry := false, t1 := p.time.raw })

/-- A TIMESYNC packet arrives (R427): the parent answers its job times and DEPTH, or NOT_READY; the member takes the answer. -/
def execTimesync (m : TimeMsg) (s : State) : Host.Outcome State Fault Refusal :=
  s.runReady (fun p =>
    match m with
    | .request q hold =>
      if p.portState q < 2 ∨ p.portState q = 5 then p
      else if !p.jobValid then { p with reply := .bytes [0] }
      else
        let t2 := p.jobTime
        let p := p.advanceTo (p.time.raw + hold.toNat)
        { p with reply := .bytes (leBytes 1 1 ++ leBytes 8 t2 ++ leBytes 8 p.jobTime ++
            leBytes 1 (p.get Fld.TIME_STATUS.DEPTH 0)) }
    | .response t1 t2 t3 t4 depth =>
      match p.time.survey with
      | some v =>
        if v.retry ∨ t1.toNat < v.t1 ∨ t4.toNat < t1.toNat then p
        else (p.advanceTo t4.toNat).exchange v t1.toNat t2.toNat t3.toNat t4.toNat depth.toNat
      | none => p
    | .notReady =>
      match p.time.survey with
      | some v => p.setSurvey (some { v with retry := true })
      | none => p)

/-- 100 us after NOT_READY the member asks again (R427). -/
def execTimesyncRetry (s : State) : Host.Outcome State Fault Refusal :=
  s.runReady (fun p =>
    match p.time.survey with
    | some v =>
      if v.retry then
        let p := p.advanceTo (p.time.raw + 100000)
        p.setSurvey (some { v with retry := false, t1 := p.time.raw })
      else p
    | none => p)

/-- SURVEY_LIMIT_MS after GO an unfinished survey ends (R430). -/
def execSurveyTimeout (s : State) : Host.Outcome State Fault Refusal :=
  s.runReady (fun p =>
    match p.time.survey with
    | some v => (p.advanceTo (v.start + p.get Fld.TIME_CTRL.SURVEY_LIMIT_MS 0 * 1000000)).endSurvey .timeout
    | none => p)

/-- A slew reaches its offset (R432, R434). -/
def execSlewEnd (s : State) : Host.Outcome State Fault Refusal :=
  s.runReady (fun p =>
    match p.time.slew with
    | some w =>
      let p := p.advanceTo (w.r0 + 1000 * (w.o1 - w.o0).natAbs)
      let p := { p with time := { p.time with slew := none } }
      (p.put Fld.TIME_STATUS.SLEWING 0 0).trace 0 3 3 (unitWord 0xFF 0 0xFF) (payload [(0, 8, (w.o1 % (2 ^ 64 : Int)).toNat)])
    | none => p)

/-! ### Tandem (R440 to R442, R450) -/

/-- A WRITE to a warden: unit kind 3 (R364, R440). -/
def isNotice (l : List Byte) : Bool := bit (fieldAt (pktPayload l) 0x0E 1) 1
def isDigest (l : List Byte) : Bool := isType 1 l && unitKind (hdrOf l).dstUnit == 3

/-- The digest record of a packet. -/
def digestOf (l : List Byte) : MatchRec :=
  let b := pktPayload l
  ⟨false, BitVec.ofNat 64 (fieldAt b 0 8), fieldAt b 8 4, fieldAt b 0x0C 2, BitVec.ofNat 64 (fieldAt b 0x10 8)⟩

/-- A digest record of the peer arrives (R441). -/
def execDigestRecordReceive (d : Fin 4) (s : State) : Host.Outcome State Fault Refusal :=
  s.runReady (fun p => match p.rxHead d (fun l => isDigest l && !isNotice l) with
    | some l => p.receive d l (fun p _ dup => .done (if dup || !p.tandemOn then p else p.matchDigest (digestOf l)))
    | none => p)

/-- The status a notice carries, in its DIGEST field (log entry 22). -/
def noticeStatus (m : MatchRec) : Status := if m.digest.toNat = Status.timeout.code then .timeout else .checkMismatch

/-- A mismatch notice of the peer arrives (R442). -/
def execMismatchNotice (d : Fin 4) (s : State) : Host.Outcome State Fault Refusal :=
  s.runReady (fun p => match p.rxHead d (fun l => isDigest l && isNotice l) with
    | some l => p.receive d l (fun p _ dup =>
        let m := digestOf l
        .done (if dup || !p.tandemOn then p else p.mismatch (noticeStatus m) m.key m.interval true))
    | none => p)

/-- The i-th entry of the match table stays unmatched for WAIT_MS (R441). -/
def execTandemWaitExpiry (i : Nat) (s : State) : Host.Outcome State Fault Refusal :=
  s.runReady (fun p => match p.time.table[i]? with
    | some m =>
      ({ p with time := { p.time with table := p.time.table.eraseIdx i } } : Part).mismatch .timeout m.key m.interval false
    | none => p)

/-- RELEASE resumes the halted cores and clears MISMATCH (R450). -/
def Part.tandemRelease (p : Part) : Part := (p.put Fld.TANDEM_STATUS.HALTED 0 0).put Fld.TANDEM_STATUS.MISMATCH 0 0

/-- ENABLE goes to 1: occurrences are counted afresh and the match table is empty (R439, R441). -/
def Part.tandemEnable (p : Part) (old new : Nat) : Part :=
  if old = 0 ∧ new = 1 then
    let p := (List.range 32).foldl (fun (p : Part) k => p.setCluster k { p.cluster k with occ := [] }) p
    { p with time := { p.time with table := [] } }
  else p

/-! ### Tile stores and pairs (R253, R443, R452) -/

/-- Write the tile store of core `c` with zeros and valid check bits. -/
def Part.clearTile (p : Part) (c : Nat) : Part :=
  { p with mem := Tab.delRange p.mem (tileBase c) 0xA0_0000, upsets := Tab.delRange p.upsets (tileBase c / 8) (0xA0_0000 / 8) }

def Part.setClearing (p : Part) (k : Nat) (b : Bool) : Part := p.setCluster k { p.cluster k with clearing := b }

/-- The clearing of a cluster's tile stores ends (R253). -/
def execTileStoreClearComplete (k : Fin 32) (s : State) : Host.Outcome State Fault Refusal :=
  s.runReady (fun p => if p.domainOn k then p.setClearing k false else p)

/-- Pair entry `i` of die `d`: its clusters, by global number, and the local cores it pairs. -/
def Part.pairA (p : Part) (d i : Nat) : Nat := 8 * d + p.get Fld.PAIR_CTRL.CLUSTER_A (4 * d + i)
def Part.pairB (p : Part) (d i : Nat) : Nat := 8 * d + p.get Fld.PAIR_CTRL.CLUSTER_B (4 * d + i)

/-- A write of PAIR_CTRL `i` of die `d` with a new word (R452). -/
def Part.pairCheck (p : Part) (d i : Nat) (new : Word) : Status :=
  let a := Fld.PAIR_CTRL.CLUSTER_A.of new
  let b := Fld.PAIR_CTRL.CLUSTER_B.of new
  let used := fun (j : Nat) =>
    j != i && p.get Fld.PAIR_CTRL.ENABLE (4 * d + j) == 1 &&
      ([p.get Fld.PAIR_CTRL.CLUSTER_A (4 * d + j), p.get Fld.PAIR_CTRL.CLUSTER_B (4 * d + j)] : List Nat).any
        (fun k => k == a || k == b)
  if a = b ∨ (List.range 4).any used then .conflict else .ok

/-- A pair is enabled: tile stores and banks of both cores and the follower's core counters are cleared (R443). -/
def Part.pairEnabled (p : Part) (d i : Nat) : Part :=
  let ka := p.pairA d i
  let kb := p.pairB d i
  let ns := (List.range 8).filter (fun n => bit (p.get Fld.PAIR_CTRL.CORE_MASK (4 * d + i)) n)
  let one := fun (p : Part) (n : Nat) =>
    let a := 8 * ka + n
    let b := 8 * kb + n
    let p := (p.clearTile a).clearTile b
    let p := (List.range 4).foldl (fun (p : Part) (k : Nat) => (p.setBank (4 * a + k) Bank.reset).setBank (4 * b + k) Bank.reset) p
    p.modCore b (fun x => { x with tc := Tab.delRange x.tc 32 32 })
  ((ns.foldl one p).setClearing ka true).setClearing kb true

end Sys2Proof.Machine
end

