-- ==== Sys2Proof/Machine/Flash.lean ====
section
/-! DEFINITION. Flash (R533 to R540): bytes, boot record, image headers, grade record (R49, R50), the field retirement log
(R51 to R56), and retiring a unit in service. -/

namespace Sys2Proof.Machine

/-! ### Bytes -/

/-- The value of an erased byte (log entry 23). -/
def erased : Byte := 0xFF

/-- Bytes [0, 12) and the map of a record of the repair-map log: what its CRC covers (R44; order of the fields: log entry
64). -/
def MapRec.body (r : MapRec) : List Byte :=
  leBytes 8 r.serial ++ leBytes 4 r.seq ++ (List.range 1088).flatMap (fun i => leBytes 8 (Tab.get (0 : Word) r.map (8 * i)).toNat)

/-- The 8,724 bytes of a record. -/
def MapRec.bytes (r : MapRec) : List Byte := r.body ++ leBytes 8 r.crc.toNat

/-- A record is valid when its CRC passes (R45). -/
def MapRec.valid (r : MapRec) : Bool := r.crc == crc64 r.body

/-- The flash address of a record slot of the repair-map log (R45). -/
def mapSlot (sector slot : Nat) : Nat := 0x8_0000 + 0x1_0000 * sector + 9216 * slot

/-- The byte that the repair-map log holds at an address of its region, if a record covers it. -/
def FlashSt.mapByte (f : FlashSt) (a : Nat) : Option Byte :=
  (f.maps.find? (fun r => Nat.ble (mapSlot r.sector r.slot) a && Nat.blt a (mapSlot r.sector r.slot + 8724))).map
    (fun r => r.bytes.getD (a - mapSlot r.sector r.slot) 0)

/-- The byte of the flash at an address; in the region of the repair-map log, what its records hold. -/
def FlashSt.byte (f : FlashSt) (a : Nat) : Byte :=
  if Nat.ble 0x8_0000 a && Nat.blt a 0x28_0000 then (f.mapByte a).getD erased else Tab.get erased f.bytes a

def FlashSt.read (f : FlashSt) (a n : Nat) : List Byte := (List.range n).map (fun i => f.byte (a + i))

def FlashSt.write (f : FlashSt) (a : Nat) (l : List Byte) : FlashSt :=
  match l with
  | [] => f
  | b :: r => ({ f with bytes := Tab.set erased f.bytes a b }).write (a + 1) r

def FlashSt.erase (f : FlashSt) (a n : Nat) : FlashSt := { f with bytes := Tab.delRange f.bytes a n }

/-! ### Boot record (R535) -/

structure Boot where
  seq : Nat
  active : Nat
  pending : Nat
  trying : Nat
  fails : Nat
  deriving DecidableEq, Repr

def Boot.bytes (b : Boot) : List Byte :=
  let l := [0x47, 0x4C, 0x44, 0x42] ++ leBytes 4 b.seq ++ leBytes 1 b.active ++ leBytes 1 b.pending ++ leBytes 1 b.trying ++
    leBytes 1 b.fails ++ leBytes 4 0
  l ++ leBytes 8 (crc64 l).toNat

/-- A copy of the boot record, if it is valid. -/
def FlashSt.bootCopy (f : FlashSt) (i : Nat) : Option Boot :=
  let l := f.read (0x8000 * i) 24
  if l.take 4 = [0x47, 0x4C, 0x44, 0x42] ∧ fieldAt l 0x10 8 = (crc64 (l.take 16)).toNat then
    some ⟨fieldAt l 4 4, fieldAt l 8 1, fieldAt l 9 1, fieldAt l 0x0A 1, fieldAt l 0x0B 1⟩
  else none

/-- The boot record in force, and the copy that holds it. -/
def FlashSt.boot (f : FlashSt) : Boot × Nat :=
  match f.bootCopy 0, f.bootCopy 1 with
  | some a, some b => if a.seq < b.seq then (b, 1) else (a, 0)
  | some a, none => (a, 0)
  | none, some b => (b, 1)
  | none, none => (⟨0, 0, 0xFF, 0, 0⟩, 1)

/-- Write the boot record: the other copy, with SEQ + 1. -/
def FlashSt.setBoot (f : FlashSt) (b : Boot) : FlashSt :=
  let old := f.boot
  f.write (0x8000 * (1 - old.2)) ({ b with seq := (old.1.seq + 1) % 2 ^ 32 }).bytes

/-! ### Images (R538, R539) -/

/-- The flash address of slot 0 A, 1 B, 2 R. -/
def slotBase (s : Nat) : Nat := 0x80_0000 + 0x80_0000 * s

def FlashSt.header (f : FlashSt) (s : Nat) : List Byte := f.read (slotBase s) 0x80

/-- Fields of an image header. -/
def imgKind (h : List Byte) : Nat := fieldAt h 6 1
def imgRoot (h : List Byte) : Nat := fieldAt h 7 1
def imgVersion (h : List Byte) : Nat := fieldAt h 8 4
def imgRollback (h : List Byte) : Nat := fieldAt h 0x0C 4
def imgLength (h : List Byte) : Nat := fieldAt h 0x10 4
def imgTable (h : List Byte) : Nat := fieldAt h 0x14 2
def imgDigest (h : List Byte) : List Byte := bytesAt h 0x20 48

/-- The first row of R539 that fails, for a slot kind (1 main, 2 recovery). -/
def FlashSt.verify (f : FlashSt) (h : List Byte) (kind : Nat) (x : ImageFacts) : Status :=
  let len := imgLength h
  if h.take 4 ≠ [0x47, 0x4C, 0x44, 0x46] ∨ fieldAt h 4 2 ≠ 1 ∨ imgKind h ≠ kind ∨ len = 0 ∨ len % 4096 ≠ 0 ∨ 0x7F_F000 < len ∨
      len < fieldAt h 0x18 4 + fieldAt h 0x1C 4 then .range
  else if 2 < imgRoot h ∨ imgRoot h < f.rootFloor ∨ !x.rootOk then .sigFail
  else if !x.sigOk then .sigFail
  else if imgRollback h < f.rollbackFloor then .conflict
  else if !x.bodyOk then .sigFail
  else if !x.readOk then .uncorrectable
  else .ok

/-! ### Key certificates (R536, R537) -/

/-- A key certificate entry. -/
def FlashSt.cert (f : FlashSt) (i : Nat) : List Byte := f.read (0x2_0000 + 0x2000 * i) 0x10

def certPresent (l : List Byte) : Bool := l.take 4 == [0x47, 0x4C, 0x44, 0x4B]
def certRoot (l : List Byte) : Nat := fieldAt l 4 1
def certUsage (l : List Byte) : Nat := fieldAt l 5 1
def certBound (l : List Byte) : Nat := fieldAt l 8 8

/-- Whether a signed item that names certificate `i` verifies for a part with a package serial (R537): usage bit 0 GRADE,
1 REINSTATE, 2 DEBUG. -/
def FlashSt.itemVerifies (f : FlashSt) (i usage serial : Nat) (x : CertFacts) : Bool :=
  let c := f.cert i
  Nat.blt i 16 && certPresent c && Nat.blt (certRoot c) 3 && Nat.ble f.rootFloor (certRoot c) && x.rootOk && x.certOk &&
    bit (certUsage c) usage && (certBound c == 0 || certBound c == serial) && x.itemOk

/-! ### Grade record (R49, R50) -/

/-- A copy of the grade record. -/
def FlashSt.grade (f : FlashSt) (i : Nat) : List Byte := f.read (0x5_0000 + 0x1000 * i) 0xA0

def gradeOf (l : List Byte) : Nat := fieldAt l 6 2
def gradeSerial (l : List Byte) : Nat := fieldAt l 8 8
def gradeMask (l : List Byte) (site k : Nat) : Nat := fieldAt l (0x50 + 2 * (8 * site + k)) 2

/-- Set bits of a 16-bit mask. -/
def maskCount (m : Nat) : Nat := ((List.range 16).filter (fun i => bit m i)).length

/-- Engines a grade disables in each cluster (R2, R50). -/
def gradeBits (g : Nat) : Option Nat := if g = 0x8512 then some 0 else if g = 0x8480 then some 1 else if g = 0x8448 then some 2 else none

/-- The signing-key certificate index of a copy. -/
def gradeCert (l : List Byte) : Nat := fieldAt l 0x90 4

/-- Whether a copy is valid: its key is chained to a usable root and its signatures verify; `serials`: the recovered
compute-die and base-die serials in site order. The package serial that binds its certificate is its own. -/
def FlashSt.gradeOk (f : FlashSt) (l : List Byte) (sig : CertFacts) (serials : List (BitVec 64)) : Bool :=
  f.itemVerifies (gradeCert l) 0 (gradeSerial l) sig && l.take 4 == [0x47, 0x4C, 0x44, 0x47] && fieldAt l 4 2 == 1 &&
    (List.range 8).all (fun i => fieldAt l (0x10 + 8 * i) 8 == (serials.getD i 0).toNat) &&
    (match gradeBits (gradeOf l) with
      | none => false
      | some n => (List.range 32).all (fun i =>
          let m := gradeMask l (i / 8) (i % 8)
          maskCount m == n && (List.range 8).all (fun q => !(bit m (2 * q) && bit m (2 * q + 1)))))

/-! ### Field retirement log (R51 to R53) -/

/-- An accepted entry of the log. -/
structure LogEntry where
  seq : Nat
  action : Nat
  ty : Nat
  cause : Nat
  unit : Nat
  crc : Nat
  deriving DecidableEq, Repr

def logBase : Nat := 0x28_0000

/-- Read the log from slot `i` on: accepted entries, whether a slot is torn, and the first erased slot. -/
def FlashSt.readLog (f : FlashSt) (fuel i next : Nat) (acc : List LogEntry) (torn : Bool) : List LogEntry × Bool × Nat :=
  match fuel with
  | 0 => (acc, torn, i)
  | n + 1 =>
    let l := f.read (logBase + 32 * i) 32
    if l.all (· == erased) then (acc, torn, i)
    else
      let e : LogEntry := ⟨fieldAt l 0 4, fieldAt l 4 1, fieldAt l 5 1, fieldAt l 6 2, fieldAt l 8 4, fieldAt l 0x18 8⟩
      if e.crc = (crc64 (l.take 24)).toNat ∧ e.seq = next then f.readLog n (i + 1) (next + 1) (acc ++ [e]) torn
      else f.readLog n (i + 1) next acc true

def FlashSt.log (f : FlashSt) : List LogEntry × Bool × Nat := f.readLog 4096 0 1 [] false

/-- Append an entry: its sequence number, or none when the log is full. -/
def FlashSt.append (f : FlashSt) (action ty cause unit raw : Nat) : FlashSt × Option Nat :=
  let g := f.log
  if 4096 ≤ g.2.2 then (f, none)
  else
    let seq := g.1.length + 1
    let l := leBytes 4 seq ++ leBytes 1 action ++ leBytes 1 ty ++ leBytes 2 cause ++ leBytes 4 unit ++ leBytes 4 0 ++ leBytes 8 raw
    (f.write (logBase + 32 * g.2.2) (l ++ leBytes 8 (crc64 l).toNat), some seq)

/-- Units retired by the log and not reinstated, as type and unit, and those held in retention memory (R55, R56). -/
def FlashSt.retired (f : FlashSt) : List (Nat × Nat) :=
  f.log.1.foldl (fun (l : List (Nat × Nat)) e =>
    let l := l.filter (fun x => !(x.1 == e.ty && x.2 == e.unit))
    if e.action = 1 then (e.ty, e.unit) :: l else l) [] ++ f.heldRetire.map (fun x => (x.1, x.2.1))

/-! ### The disabled-unit map (R56, R61) -/

/-- The physical unit word of R51. -/
def logUnit (site k q e : Nat) : Nat := site * 2 ^ 24 + k * 2 ^ 21 + q * 2 ^ 18 + e * 2 ^ 16

/-- The bit of DISABLED_MAP that a unit of a type sets, for a unit word. A fabric port (type 5) has none there: see
`Part.retiredPorts`. -/
def mapBit (ty u : Nat) : Option Nat :=
  let q := bits u 20 18
  match ty with
  | 1 => some (16 + 2 * q + bits u 17 16)
  | 2 | 3 => some (32 + q)
  | 4 => some 40
  | _ => none

/-- Put a retired unit into the map. -/
def Part.mapRetire (p : Part) (ty u : Nat) : Part :=
  match p.dieAt (bits u 25 24), mapBit ty u with
  | some d, some b =>
    let i := 8 * d + bits u 23 21
    p.wr .DISABLED_MAP i (p.rd .DISABLED_MAP i ||| BitVec.ofNat 64 (2 ^ b))
  | some d, none =>
    let q := 6 * d + bits u 4 0
    if ty = 5 ∧ bits u 4 0 < 6 ∧ q ∉ p.retiredPorts then { p with retiredPorts := p.retiredPorts ++ [q] } else p
  | _, _ => p

/-- Build the map from the grade record and the retirements (R56). -/
def Part.buildMap (p : Part) (grade : List Byte) : Part :=
  let p := { p with retiredPorts := [] }
  let p := (List.range 32).foldl (fun (p : Part) i =>
    p.wr .DISABLED_MAP i (BitVec.ofNat 64 (gradeMask grade (p.get Fld.DIE_IDENT.SITE (i / 8)) (i % 8)))) p
  p.flash.retired.foldl (fun p x => p.mapRetire x.1 x.2) p

/-! ### Retiring a unit in service (R52, R55, R56, R84, R473) -/

/-- Append a retirement to the log, or hold it in retention memory; answers its sequence number, 0 when held. -/
def Part.logRetire (p : Part) (ty u : Nat) (cause : Status) : Part × Nat :=
  match p.flash.append 1 ty cause.code u p.time.raw with
  | (f, some n) => ({ p with flash := f }, n)
  | (f, none) => ({ p with flash := { f with heldRetire := f.heldRetire ++ [(ty, u, cause.code)] } }, 0)

/-- Retire a unit of cluster `k` (global number): type of R51, physical core and engine. The warden logs it, the map changes,
bound tasks of a retired core move to FAULTED, and the hosts hear of it. -/
def Part.retire (p : Part) (k q ty eng : Nat) (cause : Status) : Part :=
  let d := k / 8
  let u := logUnit (p.get Fld.DIE_IDENT.SITE d) (k % 8) (if ty = 4 then 0 else q) (if ty = 1 ∨ ty = 2 then eng else 0)
  let r := p.logRetire ty u cause
  let p := r.1.mapRetire ty u
  let nums := (List.range 8).filter (fun n => p.phys (8 * k + n) == 8 * k + q)
  let p := (if ty = 4 then List.range 8 else if ty = 1 then [] else nums).foldl (fun p n => p.faultBound k n) p
  let num := if ty = 4 then k else 8 * k + nums.headD q
  let unit := unitWord d num (if ty = 1 ∨ ty = 2 then eng else 0xFF)
  (p.event .retirement (if r.2 = 0 then .range else cause) unit r.2).trace d 6 3 unit (payload [(0, 4, r.2)])

end Sys2Proof.Machine
end

