-- ==== Sys2Proof/Machine/Recovery.lean ====
section
/-! DEFINITION. Replay of a span (R460 to R464), replay on another core (R465 to R468), suspects and farrier tests (R469 to
R473). -/

namespace Sys2Proof.Machine

/-! ### Suspect units and holds (R453, R471, R473) -/

/-- A core is held while it is due, under test or suspect (R465, R471). -/
def Part.refreshHeld (p : Part) (c : Nat) : Part :=
  let x := p.die (dieOf c)
  let n := c % 64
  p.setHeld c (x.dues.any (fun y => y.core == n) || x.testing == some n || x.suspects.any (fun y => y.1 == n))

def Part.setSuspects (p : Part) (d : Nat) (l : List (Nat × Nat)) : Part :=
  (p.modDie d (fun x => { x with suspects := l })).put Fld.FARRIER_STATUS.SUSPECTS d l.length

/-- The unit type of R51 of unit 0, 1 (matrix engine), 2 (vector engine), 3 (core). -/
def unitType (u : Nat) : Nat := if u < 2 then 1 else u

/-- A unit of core `c` becomes suspect: held until a farrier test, or retired at once when it passed one within the suspect
window (R473). -/
def Part.suspect (p : Part) (c u : Nat) : Part :=
  let d := dieOf c
  let q := p.phys c % 64
  let win := p.get Fld.RECOVERY_CTRL.SUSPECT_WINDOW_H 0 * 3600000000000
  if (p.die d).passed.any (fun x => x.1 == q && x.2.1 == u && p.time.raw < x.2.2 + win) then
    p.retire (clusterOf c) (p.phys c % 8) (unitType u) u .retiredUnit
  else
    let l := (p.die d).suspects
    (p.setSuspects d (if l.contains (c % 64, u) then l else l ++ [(c % 64, u)])).refreshHeld c

/-! ### Replaying a span (R460, R462) -/

/-- Rewrite the COPY ranges from the shadow area, which lies at `a` from here on. -/
def Part.restoreCopies (p : Part) (c a : Nat) (rs : List (Nat × Bool × Nat × Nat)) : Part :=
  match rs with
  | [] => p
  | r :: rest =>
    match p.readDva (dieOf c) .moverRd a r.2.2.2 with
    | (p, .ok l) =>
      let p := if r.2.1 then (p.writeLocal c r.2.2.1 l).1 else (p.writeWake (dieOf c) .moverWr r.2.2.1 l).1
      p.restoreCopies c (a + r.2.2.2) rest
    | (p, _) => p.restoreCopies c (a + r.2.2.2) rest

/-- The bank that a saved slot holds: its elements, DEPTH, class and flags, its check state as by ACC.LD. -/
def savedBank (l : List Byte) (st : Word) : Bank :=
  let cells := ((List.range 16384).zip (wordsOf l)).filter (fun x => x.2 != 0)
  let b : Bank := ⟨.full, 0, cells, st &&& ~~~1, CheckSt.clear⟩
  { b with check := b.recorded }

/-- Restore the banks of core `c`: those saved FULL, every other EMPTY. -/
def Part.restoreBanks (p : Part) (c a : Nat) (full : List Bool) : Part :=
  (List.range 4).foldl (fun (p : Part) i =>
    let k := 4 * c + i
    if full.getD i false then
      let e := p.readHome (tileBase c + a + i * 0x1_0000) 0x1_0000 false
      let w := e.1.readHome (tileBase c + a + 0x4_0000 + 8 * i) 8 false
      match e.2, w.2 with
      | .ok l, .ok s => w.1.setBank k (savedBank l (BitVec.ofNat 64 (leNat s)))
      | _, _ => w.1.setBank k { w.1.bank k with st := .empty }
    else p.setBank k { p.bank k with st := .empty }) p

/-- A counter on replay: its present value minus the span's own changes (R460). -/
def replayedToken (v : Nat) (d : Int) : Nat := min 0xFFFF ((v : Int) - d).toNat

/-- The counters of a core on replay. -/
def CoreSt.replayTokens (x : CoreSt) (s : SpanSt) : CoreSt :=
  s.tcDelta.foldl (fun (x : CoreSt) y => (x.setToken y.1 (replayedToken (x.token y.1) y.2)).hitWatches y.1) x

/-- The registers of a core on replay, from the span's snapshot. -/
def CoreSt.replayRegs (x : CoreSt) (s : SpanSt) (slot : Nat) : CoreSt :=
  { x with
    g := s.g, td := s.td, seed := s.seed, step := s.step, deny := s.deny, pc := s.pc
    phase := .running slot, hold := .none, event := s.event, intervals := s.intervals, fault := none, seek := false
    span := some { s with
      replays := s.replays + 1, tcDelta := [], held := [], heldCount := 0, sendSeen := false, replaying := true, items := [] } }

/-- Steps 2 to 6 of R462 on the core that answers to number `c`. -/
def Part.restoreSpan (p : Part) (c slot : Nat) (s : SpanSt) (st : Status) : Part :=
  let save := fieldAt s.record 0 8
  let p := p.restoreCopies c (bits (fieldAt s.record 8 8) 47 0) ((spanRanges s.record).filter isCopy)
  let p := p.restoreBanks c (bits save 23 0) s.full
  let p := p.modCore c (fun x => (x.replayTokens s).replayRegs s slot)
  let t := p.slot (clusterOf c) slot
  let p := p.setSlot (clusterOf c) slot { t with st := .running, status := 0, core := c % 8 }
  let unit := unitWord (dieOf c) c 0xFF
  ((p.event .replay st unit (s.replays + 1)).count (dieOf c) 11 1).trace (dieOf c) 6 2 unit
    (payload [(0, 2, st.code), (2, 2, s.replays + 1)])

/-- A fault is not replayed further (R463): the event names why, SEQ_FAULT holds the last fault, the inputs stay held. -/
def Part.escalate (p : Part) (c : Nat) (r : FaultRec) (why : Status) : Part :=
  let p := (p.wr .SEQ_FAULT c r.seq).wr .SEQ_FAULT_PC c (BitVec.ofNat 64 r.pc)
  let p := p.modCore c (fun x => { x with fault := none, seek := false, decision := none })
  p.event .escalation why (unitWord (dieOf c) c 0xFF) r.status

/-! ### The warden's decision (R461, R463, R465) -/

/-- How R461 handles a fault. -/
inductive ReplayKind where
  | none
  | same
  | other
  deriving DecidableEq, Repr

/-- A matrix or vector engine, as UNIT of R247. -/
def isEngineUnit (u : Nat) : Bool := 1 ≤ u && u ≤ 3

def FaultRec.kind (r : FaultRec) : ReplayKind :=
  if r.pair then .other
  else if r.status = Status.checkMismatch.code ∧ (r.unit = 1 ∨ r.unit = 2) then .other
  else if r.status = Status.uncorrectable.code ∧ r.parity then (if isEngineUnit r.unit then .other else .same)
  else if r.status = Status.uncorrectable.code ∧ r.inSpanData then .same
  else if r.status = Status.timeout.code ∧ r.relaySend then .same
  else .none

/-- The warden decides on the fault of a core whose issued instructions have all completed (R461 to R465). -/
def Part.decide (p : Part) (c : Nat) : Part :=
  let x := p.core c
  match x.phase, x.fault, x.span with
  | .faulted slot, some r, some s =>
    if !x.quiet || x.seek || (match x.decision with | some d => d.got.isSome | none => false) ||
        (coresOf (clusterOf c)).any (fun h => (p.core h).helperFor == some c) then p
    else if p.get Fld.RECOVERY_CTRL.REPLAY_EN 0 = 0 ∨ r.kind = .none then p.modCore c (fun x => { x with fault := none })
    else if 2 ≤ s.replays then p.escalate c r .replayLimit
    else if r.kind = .same then p.restoreSpan c slot s (Status.ofCode r.status)
    else if p.get Fld.RECOVERY_AREA.SET (dieOf c) = 0 then p.escalate c r .unsupported
    else (p.modCore c (fun x => { x with seek := true })).findHelper c
  | _, _, _ => p

def execReplayDecision (c : Fin 256) (s : State) : Host.Outcome State Fault Refusal := s.runReady (fun p => p.decide c)

/-- No helper was found within HELPER_WAIT_MS (R465). -/
def execHelperWaitExpiry (c : Fin 256) (s : State) : Host.Outcome State Fault Refusal :=
  s.runReady (fun p =>
    match (p.core c).fault with
    | some r =>
      if (p.core c).seek then
        let p := match (p.core c).decision with
          | some d => if d.second then p.suspect c d.engine else p
          | none => p
        p.escalate c r .timeout
      else p
    | none => p)

/-! ### The exchange of two cores (R466) -/

/-- Swap the physical cores behind two numbers of a cluster. -/
def Part.swapPlace (p : Part) (c h : Nat) : Part :=
  let k := clusterOf c
  let w := (p.rd .CORE_PLACE k).toNat
  let a := bits w (3 * (c % 8) + 2) (3 * (c % 8))
  let b := bits w (3 * (h % 8) + 2) (3 * (h % 8))
  let w := w - a * 8 ^ (c % 8) - b * 8 ^ (h % 8) + b * 8 ^ (c % 8) + a * 8 ^ (h % 8)
  p.wr .CORE_PLACE k (BitVec.ofNat 64 w)

/-- Suspicion stays with the physical units: it moves to the other number. -/
def Part.swapSuspects (p : Part) (c h : Nat) : Part :=
  let d := dieOf c
  let swap := fun (n : Nat) => if n = c % 64 then h % 64 else if n = h % 64 then c % 64 else n
  ((p.setSuspects d ((p.die d).suspects.map (fun x => (swap x.1, x.2)))).refreshHeld c).refreshHeld h

/-- What is to be decided by a replay, once core `c`'s first core answers to number `h`. -/
def FaultRec.decision (r : FaultRec) (old : Option Decision) (h : Nat) : Option Decision :=
  let e := r.unit - 1
  match old with
  | some d => some { d with got := none, gotBad := false }
  | none =>
    if r.pair then some ⟨e, r.drainNo, r.output, true, r.follower, h, false, none, false⟩
    else if r.status = Status.checkMismatch.code then some ⟨e, r.drainNo, r.output, false, [], h, false, none, false⟩
    else none

/-- The exchange of core `c` with its helper, and the replay that follows on it (R466, R467, R468). The contents belong to the
numbers, so only the physical cores behind them change. -/
def Part.exchangeCores (p : Part) (c : Nat) : Part :=
  let x := p.core c
  match x.phase, x.fault, x.span, (coresOf (clusterOf c)).find? (fun h => (p.core h).helperFor == some c) with
  | .faulted slot, some r, some s, some h =>
    if (p.core h).phase != .idle || !(p.core h).quiet || !x.quiet then p
    else
      let p := (p.modCore h (fun y => { y with helperFor := none })).swapPlace c h
      let p := p.swapSuspects c h
      let p := if r.parity then p.suspect h (r.unit - 1) else p
      let p := match x.decision with
        | some d => if d.second then p.suspect h d.engine else p
        | none => p
      let p := p.modCore c (fun y => { y with decision := r.decision x.decision h })
      p.restoreSpan c slot s (Status.ofCode r.status)
  | _, _, _, _ => p

def execCoreExchange (c : Fin 256) (s : State) : Host.Outcome State Fault Refusal := s.runReady (fun p => p.exchangeCores c)

/-! ### Decisions (R467, R468) -/

/-- Output bytes and status word of a drain with bits [42:34] of the word left out (R467). -/
def drainKey (l : List Byte) : List Byte × Nat :=
  let n := l.length - 8
  let w := fieldAt l n 8
  (l.take n, w - bits w 42 34 * 2 ^ 34)

/-- The warden compares the replay's n-th drain with the original (R467). -/
def Part.compareDrain (p : Part) (c : Nat) : Part :=
  match (p.core c).decision with
  | some d =>
    match d.got with
    | some _ =>
      if d.pairDrop then p
      else if !d.gotBad then
        let p := p.modCore c (fun x => { x with decision := none })
        if d.second then p else p.suspect d.first d.engine
      else
        match (p.core c).fault, (p.core c).span with
        | some r, some s =>
          if !(p.core c).quiet then p
          else if d.second then p.escalate c r .replayLimit
          else
            let p := p.suspect d.first d.engine
            if 2 ≤ s.replays then (p.suspect c d.engine).escalate c r .replayLimit
            else
              let p := p.modCore c (fun x => { x with
                seek := true, decision := some { d with second := true, got := none, gotBad := false } })
              p.findHelper c
        | _, _ => p
    | none => p
  | none => p

def execDecisionDrainCompare (c : Fin 256) (s : State) : Host.Outcome State Fault Refusal :=
  s.runReady (fun p => p.compareDrain c)

/-- Clear ENABLE of the pair entry in which core `c` stands. -/
def Part.dropPair (p : Part) (c : Nat) : Part :=
  (List.range 4).foldl (fun (p : Part) i =>
    let e := 4 * dieOf c + i
    let k := clusterOf c % 8
    if p.get Fld.PAIR_CTRL.ENABLE e = 1 ∧ bit (p.get Fld.PAIR_CTRL.CORE_MASK e) (c % 8) ∧
        (p.get Fld.PAIR_CTRL.CLUSTER_A e = k ∨ p.get Fld.PAIR_CTRL.CLUSTER_B e = k) then
      p.put Fld.PAIR_CTRL.ENABLE e 0
    else p) p

/-- The warden compares the third core's version of the item with the leader's and the follower's (R468). -/
def Part.decidePair (p : Part) (c : Nat) : Part :=
  match (p.core c).decision with
  | some d =>
    match d.got, d.pairDrop with
    | some g, true =>
      let f := ((p.pairOf c).map (·.2)).getD c
      let p := (p.dropPair c).modCore c (fun x => { x with decision := none })
      if g = d.output then p.suspect f 3
      else if g = d.follower then p.suspect d.first 3
      else
        let r := ((p.core c).fault).getD { FaultRec.plain .checkMismatch none with
          seq := seqFaultWord none .execution 0 .checkMismatch false true, pc := (p.core c).pc }
        let p := (p.suspect f 3).suspect d.first 3
        match (p.core c).phase with
        | .running slot =>
          let t := p.slot (clusterOf c) slot
          let p := p.setSlot (clusterOf c) slot { t with
            st := .faulted, status := Status.checkMismatch.code, core := c % 8 }
          (p.modCore c (fun x => { x with phase := .faulted slot, q := [], hold := .none })).escalate c r .checkMismatch
        | _ => p.escalate c r .checkMismatch
    | _, _ => p
  | none => p

def execPairMismatchDecision (c : Fin 256) (s : State) : Host.Outcome State Fault Refusal :=
  s.runReady (fun p => p.decidePair c)

/-! ### Farrier tests (R469 to R473) -/

def Part.cadence (p : Part) (d : Nat) : Nat := p.get Fld.FARRIER_CTRL.CADENCE_MIN d * 60000000000

/-- When local core `n` of die `d` next falls due (R470). -/
def Part.dueMoment (p : Part) (d n : Nat) : Nat :=
  match Tab.find? (p.die d).lastTest n with
  | some t => t + p.cadence d
  | none => (p.die d).testBase + p.cadence d * (n + 1) / 64

/-- Whether local core `n` is due or under test. -/
def Part.isDue (p : Part) (d n : Nat) : Bool := (p.die d).dues.any (fun y => y.core == n) || (p.die d).testing == some n

/-- A core falls due: it is held (R471). -/
def Part.makeDue (p : Part) (c moment : Nat) : Part :=
  if p.isDue (dieOf c) (c % 64) || p.coreRetired c then p
  else (p.modDie (dieOf c) (fun x => { x with dues := x.dues ++ [⟨c % 64, moment⟩] })).refreshHeld c

/-- A core's cadence passes (R470). -/
def execFarrierTestDue (c : Fin 256) (s : State) : Host.Outcome State Fault Refusal :=
  s.runReady (fun p =>
    let t := p.dueMoment (dieOf c) (c % 64)
    if p.isDue (dieOf c) (c % 64) || p.coreRetired c then p else (p.advanceTo t).makeDue c t)

/-- Whether a core can be tested now: idle, nothing in flight, no part in an exchange (R471, R472). -/
def Part.testable (p : Part) (c : Nat) : Bool :=
  (p.core c).phase == .idle && (p.core c).quiet && (p.core c).helperFor.isNone && p.domainOn (clusterOf c)

/-- The core a die tests next: suspects first, then due cores by due moment, the lower number first (R470). -/
def Part.nextTest (p : Part) (d : Nat) : Option Nat :=
  let ok := fun (n : Nat) => p.testable (64 * d + n)
  match (List.range 64).find? (fun n => ok n && (p.die d).suspects.any (fun x => x.1 == n)) with
  | some n => some n
  | none =>
    (((p.die d).dues.filter (fun y => ok y.core)).foldl (fun (b : Option Due) y =>
      match b with
      | none => some y
      | some z => if y.moment < z.moment ∨ (y.moment = z.moment ∧ y.core < z.core) then some y else b) none).map (·.core)

def Part.setOverdue (p : Part) (d n : Nat) (b : Bool) : Part :=
  let w := (p.rd .FARRIER_OVERDUE d).toNat
  p.wr .FARRIER_OVERDUE d (BitVec.ofNat 64 (if bit w n == b then w else w ^^^ 2 ^ n))

/-- The next test of a die starts (R469 to R471). -/
def execFarrierTestStart (d : Fin 4) (s : State) : Host.Outcome State Fault Refusal :=
  s.runReady (fun p =>
    if (p.die d).testing.isSome ∨ p.get Fld.FARRIER_CTRL.TEST_EN d = 0 ∨ p.get Fld.RECOVERY_AREA.SET d = 0 then p
    else match p.nextTest d with
      | none => p
      | some n =>
        let p := p.modDie d (fun x => { x with testing := some n, dues := x.dues.filter (fun y => y.core != n) })
        (((p.put Fld.FARRIER_STATUS.TESTING d 1).put Fld.FARRIER_STATUS.TEST_CORE d n).setOverdue d n false).refreshHeld
          (64 * d.val + n))

/-- Clear the STOPPED marks of a core's engines. -/
def Part.clearStops (p : Part) (c : Nat) : Part :=
  let e := fun (p : Part) (i : Nat) => p.setEngine (p.physEng c i) { p.engine (p.physEng c i) with stopped := false, fault := 0 }
  (e (e p 0) 1).setVe (p.phys c) ⟨false, 0⟩

/-- Retire what failed, each part as its unit (R473). -/
def Part.retireFailed (p : Part) (c : Nat) (fails : BitVec 5) : Part :=
  let k := clusterOf c
  let q := p.phys c % 8
  let r := fun (p : Part) (i ty eng : Nat) => if bit fails.toNat i then p.retire k q ty eng .retiredUnit else p
  r (r (r (r (r p 0 1 0) 1 1 1) 2 2 2) 3 3 0) 4 4 0

/-- The running test of a die ends (R473). -/
def execFarrierTestEnd (d : Fin 4) (fails : BitVec 5) (s : State) : Host.Outcome State Fault Refusal :=
  s.runReady (fun p =>
    match (p.die d).testing with
    | none => p
    | some n =>
      let c := 64 * d.val + n
      let q := p.phys c % 64
      let was := ((p.die d).suspects.filter (fun x => x.1 == n && !bit fails.toNat x.2)).map (fun x => (q, x.2, p.time.raw))
      let p := p.modDie d (fun x => { x with
        testing := none, lastTest := Tab.put x.lastTest n p.time.raw,
        passed := was ++ x.passed.filter (fun y => y.1 != q) })
      let p := p.setSuspects d ((p.die d).suspects.filter (fun x => x.1 != n))
      let p := ((p.clearStops c).retireFailed c fails).refreshHeld c
      let st : Status := if fails = 0 then .ok else .retiredUnit
      let p := ((p.put Fld.FARRIER_STATUS.TESTING d 0).put Fld.FARRIER_STATUS.LAST_CORE d n).put
        Fld.FARRIER_STATUS.LAST_STATUS d st.code
      (p.bump Fld.FARRIER_STATUS.TESTS_RUN d 1).serveSeekers (clusterOf c))

/-- DUE_WINDOW_MIN minutes pass without the test starting (R471). -/
def execDueWindowExpiry (c : Fin 256) (s : State) : Host.Outcome State Fault Refusal :=
  s.runReady (fun p =>
    let d := dieOf c
    let n := c.val % 64
    match (p.die d).dues.find? (fun y => y.core == n) with
    | none => p
    | some y =>
      if bit (p.rd .FARRIER_OVERDUE d).toNat n then p
      else
        let p := p.advanceTo (y.moment + p.get Fld.FARRIER_CTRL.DUE_WINDOW_MIN d * 60000000000)
        (p.setOverdue d n true).event .testOverdue .testOverdue (unitWord d c 0xFF) n)

/-- TEST_NOW makes a core due at once (R471). -/
def Part.orderTest (p : Part) (d n : Nat) : Part := p.makeDue (64 * d + n) p.time.raw

/-- DEFER lifts the hold, clears the bit and restarts the cadence (R471). -/
def Part.orderDefer (p : Part) (d n : Nat) : Part :=
  let p := p.modDie d (fun x => { x with
    dues := x.dues.filter (fun y => y.core != n), lastTest := Tab.put x.lastTest n p.time.raw })
  ((p.setOverdue d n false).refreshHeld (64 * d + n)).serveSeekers ((64 * d + n) / 8)

end Sys2Proof.Machine
end

