-- ==== Sys2Proof/Machine/Bar.lean ====
section
/-! DEFINITION. Reading BAR0 (R15, R16, R495, R497, R509, R598): registers that show the state of a unit, the value a port
reads, and what a read clears. -/

namespace Sys2Proof.Machine

/-- Fields of one register as a word. -/
def packFields (l : List (Fld × Nat)) : Word :=
  BitVec.ofNat 64 (l.foldl (fun s x => s + x.2 % 2 ^ x.1.width * 2 ^ x.1.lo) 0)

/-! ### Registers that show the state of a unit -/

/-- DIST_STATUS of a cluster (R95). -/
def Part.distStatus (p : Part) (k : Nat) : Word :=
  packFields [
    (Fld.DIST_STATUS.CORE_IDLE, (List.range 8).foldl (fun m n => m + bnat ((p.core (p.issuer (8 * k + n))).phase == .idle) * 2 ^ n) 0),
    (Fld.DIST_STATUS.CORE_HELD, p.get Fld.DIST_STATUS.CORE_HELD k),
    (Fld.DIST_STATUS.RUNNING, ((p.liveSlots k).filter (fun x => x.2.st == .running)).length),
    (Fld.DIST_STATUS.FREE_SLOTS, 256 - (p.liveSlots k).length)]

/-- GAIT_STATUS of a cluster (R355). -/
def Part.gaitStatus (p : Part) (k : Nat) : Word :=
  let d := p.due k
  packFields [(Fld.GAIT_STATUS.DUE_MB, d.mb), (Fld.GAIT_STATUS.DUE_CLASS, d.cls), (Fld.GAIT_STATUS.PHASE, d.phase),
    (Fld.GAIT_STATUS.PAIR_PULLED, (p.cluster k).pulled), (Fld.GAIT_STATUS.STEP, (p.cluster k).step)]

def SlotSt.code : SlotSt → Nat
  | .free => 0 | .waiting => 1 | .ready => 2 | .running => 3 | .faulted => 4

/-- SLOT_STATE (R97). -/
def Slot.word (x : Slot) : Word :=
  packFields [(Fld.SLOT_STATE.MICRO_BATCH, descMb x.desc), (Fld.SLOT_STATE.GAIT_CLASS, descClass x.desc),
    (Fld.SLOT_STATE.PRECOND_MET, x.met), (Fld.SLOT_STATE.CORE, x.core), (Fld.SLOT_STATE.STATE, x.st.code),
    (Fld.SLOT_STATE.POST_SEQ, x.seq)]

/-- TOKEN_WORD `w` (R99). -/
def CoreSt.tokenWord (x : CoreSt) (w : Nat) : Word :=
  packFields [(Fld.TOKEN_WORD.TC_3, x.token (4 * w + 3)), (Fld.TOKEN_WORD.TC_2, x.token (4 * w + 2)),
    (Fld.TOKEN_WORD.TC_1, x.token (4 * w + 1)), (Fld.TOKEN_WORD.TC_0, x.token (4 * w))]

/-- Whether a unit of a core has an empty queue and nothing executing (R140, R214); a follower's units run its leader's
stream (R443). -/
def Part.unitIdle (p : Part) (c : Nat) (u : EUnit) : Bool :=
  ((p.core (p.issuer c)).queue u).isEmpty && ((p.core (p.issuer c)).flying u).isEmpty

def BankSt.code : BankSt → Nat
  | .empty => 0 | .filling => 1 | .full => 2 | .draining => 3

/-- ME_STATUS of engine `e` of core `c` (R141); HELD shows only on an idle engine (log entry 25). -/
def Part.meStatus (p : Part) (c e : Nat) : Word :=
  let u : EUnit := if e = 0 then .me0 else .me1
  let x := p.engine (p.physEng c e)
  let m := (p.rd .DISABLED_MAP (clusterOf c)).toNat
  let i := 2 * (p.phys c % 8) + e
  let st : Nat := if bit m i then 3 else if bit m (16 + i) || p.coreRetired c then 4 else if x.stopped then 2
    else if !p.unitIdle c u then 1 else if p.held c then 5 else 0
  packFields [(Fld.ME_STATUS.QUEUE_USED, ((p.core (p.issuer c)).queue u).length), (Fld.ME_STATUS.FAULT_STATUS, x.fault),
    (Fld.ME_STATUS.LANE_LEVEL, x.level), (Fld.ME_STATUS.BANK1_STATE, (p.bank (4 * c + 2 * e + 1)).st.code),
    (Fld.ME_STATUS.BANK0_STATE, (p.bank (4 * c + 2 * e)).st.code), (Fld.ME_STATUS.STATE, st)]

/-- VE_STATUS of core `c` (R215). -/
def Part.veStatus (p : Part) (c : Nat) : Word :=
  let x := p.ve (p.phys c)
  let st : Nat := if p.coreRetired c then 4 else if x.stopped then 2 else if !p.unitIdle c .ve then 1
    else if p.held c then 5 else 0
  packFields [(Fld.VE_STATUS.QUEUE_USED, ((p.core (p.issuer c)).queue .ve).length), (Fld.VE_STATUS.FAULT_STATUS, x.fault),
    (Fld.VE_STATUS.STATE, st)]

/-- RAMP_STATUS of a die (R143). -/
def Part.rampStatus (p : Part) (d : Nat) : Word :=
  packFields [(Fld.RAMP_STATUS.LSA_COUNT, p.get Fld.RAMP_STATUS.LSA_COUNT d),
    (Fld.RAMP_STATUS.HELD_STEPS, p.heldSteps d), (Fld.RAMP_STATUS.LSA_ACTIVE, bnat (p.die d).lsa)]

/-- PAGER_STATUS of a die (R298). -/
def Part.pagerStatus (p : Part) (d : Nat) : Word :=
  packFields [(Fld.PAGER_STATUS.HANDLES_USED, (p.handlesOf d).length), (Fld.PAGER_STATUS.FREE_FRAMES, (p.freeFrames d).length),
    (Fld.PAGER_STATUS.RESERVE_FREE_2M, (p.freeChunks d).length)]

def HandleSt.code : HandleSt → Nat
  | .free => 0 | .resident => 1 | .offloading => 2 | .offloaded => 3 | .prefetching => 4 | .lost => 5

/-- HANDLE_STATE (R299). -/
def Part.handleWord (p : Part) (h : Nat) : Word :=
  let x := p.handle h
  packFields [(Fld.HANDLE_STATE.STALL_US, p.stallNs h / 1000), (Fld.HANDLE_STATE.SIZE_2M, x.pages), (Fld.HANDLE_STATE.TRACE, bnat x.trace),
    (Fld.HANDLE_STATE.HOST_VISIBLE, bnat x.hostVisible), (Fld.HANDLE_STATE.PINNED, bnat x.pinned),
    (Fld.HANDLE_STATE.OFFLOADABLE, bnat x.offloadable), (Fld.HANDLE_STATE.STATE, x.st.code)]

/-- MOVER_STATUS of a die (R328); transfers hold the lowest-numbered channels (R300, log entry 26). -/
def Part.moverStatus (p : Part) (d : Nat) : Word :=
  packFields [(Fld.MOVER_STATUS.CHANNEL_BUSY, 2 ^ min 16 (p.outstanding d) - 1),
    (Fld.MOVER_STATUS.PEAK_OUTSTANDING, (p.die d).peak), (Fld.MOVER_STATUS.OUTSTANDING, p.outstanding d)]

/-- Whether the lease of a holder has expired (R504). -/
def Part.leaseExpired (p : Part) : Bool :=
  p.get Fld.LEASE_STATUS.HOLDER 0 != 3 && Nat.ble (p.get Fld.LEASE_EXPIRES.EXPIRES 0) p.time.raw

/-- Whether a port holds an unexpired lease. -/
def Part.holdsLease (p : Part) (port : Nat) : Bool := p.get Fld.LEASE_STATUS.HOLDER 0 == port && !p.leaseExpired

/-! ### Throttle reasons (R560, R578) -/

/-- Level of a cluster (R581). -/
def Part.level (p : Part) (k : Nat) : Nat := p.get Fld.CLUSTER_POWER.LEVEL k

/-- Rails whose telemetry is lost, by number (R568). -/
def Part.lostRails (p : Part) : List Nat := (List.range 16).filter (fun r => p.get Fld.RAIL_STATUS.TELEMETRY_LOST r == 1)

/-- REASONS of POWER_STATUS: the sources of R560 that limit some cluster, and DROOP_N (log entry 27). -/
def Part.reasons (p : Part) : Nat :=
  let anyDie := fun (f : DieSt → Bool) => p.dies.any (fun x => f x.2)
  bnat ((List.range 4).any (fun d => (p.die d).capLevel < p.get Fld.POWER_CTRL.MAX_LEVEL 0)) + 2 * bnat (p.hot.any (· < 36)) + 4 * bnat (!p.pins.throttleN) +
    8 * bnat (p.get Fld.POWER_CTRL.MAX_LEVEL 0 < 16) + 16 * bnat (anyDie (fun x => x.droop)) +
    32 * bnat (anyDie (fun x => x.droopStuck)) + 64 * bnat (!p.lostRails.isEmpty) + 128 * bnat (p.hot.any (36 ≤ ·))

/-- POWER_STATUS (R578). -/
def Part.powerStatus (p : Part) : Word :=
  packFields [(Fld.POWER_STATUS.PKG_POWER_W, p.get Fld.POWER_STATUS.PKG_POWER_W 0),
    (Fld.POWER_STATUS.PEAK_POWER_W, p.get Fld.POWER_STATUS.PEAK_POWER_W 0), (Fld.POWER_STATUS.REASONS, p.reasons),
    (Fld.POWER_STATUS.MIN_LEVEL, (List.range 32).foldl (fun m k => min m (p.level k)) 16)]

/-! ### The value of a register -/

/-- Replace fields of the stored word. -/
def Part.with (p : Part) (r : Reg) (i : Nat) (l : List (Fld × Nat)) : Word :=
  l.foldl (fun w x => x.1.into w x.2) (p.rd r i)

/-- Slot code of the boot record as FW_STATUS shows it (R554). -/
def pendingCode (b : Boot) : Nat := if b.pending < 2 then b.pending else 3

/-- The word a port reads at element `i` of a register: RO state shown as it stands, WO fields 0 (R16). -/
def Part.regWord (p : Part) (port : Nat) (r : Reg) (i : Nat) : Word :=
  match r with
  | .LEASE_STATUS => p.with r i [(Fld.LEASE_STATUS.EXPIRED, bnat p.leaseExpired)]
  | .MERIDIAN => BitVec.ofNat 64 p.time.raw
  | .TANDEM_STATUS => p.with r i [(Fld.TANDEM_STATUS.UNMATCHED, p.time.table.length)]
  | .FW_STATUS => p.with r i [(Fld.FW_STATUS.PENDING_SLOT, pendingCode p.flash.boot.1),
      (Fld.FW_STATUS.ACTIVE_SLOT, p.flash.boot.1.active)]
  | .START_STATUS => p.with r i [(Fld.START_STATUS.FAIL_COUNT, p.flash.boot.1.fails)]
  | .FW_FLOORS => packFields [(Fld.FW_FLOORS.ROLLBACK_FLOOR, p.flash.rollbackFloor), (Fld.FW_FLOORS.ROOT_FLOOR, p.flash.rootFloor)]
  | .POWER_STATUS => p.powerStatus
  | .CLUSTER_POWER => p.with r i [(Fld.CLUSTER_POWER.STRETCHED, bnat (p.die (i / 8)).stretch)]
  | .DIST_CTRL =>
    if p.get Fld.VIEW_SEL.STAGED port = 1 then p.rd r i else p.with r i [(Fld.DIST_CTRL.CORE_MASK, (p.cluster i).maskActive)]
  | .DIST_STATUS => p.distStatus i
  | .GAIT_STATUS => p.gaitStatus i
  | .POST_RESULT =>
    let x := Tab.get (0, 0) p.postRes (stagingKey i (256 + port))
    packFields [(Fld.POST_RESULT.SLOT, x.2), (Fld.POST_RESULT.STATUS, x.1)]
  | .SLOT_STATE => (p.slot (i / 256) (i % 256)).word
  | .TOKEN_WORD => (p.core (i / 16)).tokenWord (i % 16)
  | .SYNC_STATUS => p.with r i [(Fld.SYNC_STATUS.WATCHES_USED, (p.core i).watches.length)]
  | .ME_STATUS => p.meStatus (i / 2) (i % 2)
  | .BANK_STATUS0 => (p.bank (2 * i)).status
  | .BANK_STATUS1 => (p.bank (2 * i + 1)).status
  | .RAMP_STATUS => p.rampStatus i
  | .RELAY_STATUS => p.relayStatus i
  | .VE_STATUS => p.veStatus i
  | .MEM_STATUS => p.with r i [(Fld.MEM_STATUS.LOCKED_LINES, p.lockedLines i)]
  | .PAGER_STATUS => p.pagerStatus i
  | .HANDLE_STATE => p.handleWord i
  | .MOVER_STATUS => p.moverStatus i
  | .UPD_STATUS => p.with r i [(Fld.UPD_STATUS.ENGINE_BUSY, p.enginesBusy i)]
  | .RT_STATUS => p.with r i [(Fld.RT_STATUS.PORTS_ACTIVE,
      (List.range 6).foldl (fun m j => m + bnat (p.portState (6 * i + j) == 4) * 2 ^ j) 0)]
  | .DEBUG_NONCE => if i = 0 then p.mgmt.nonce.1 else p.mgmt.nonce.2
  | .DBG_STATUS => p.with r i [(Fld.DBG_STATUS.QUIET, bnat (p.isHalted i && (p.core i).q.isEmpty))]
  | .COUNTER => if [0, 1, 2, 4, 5].contains (i % 13) then BitVec.ofNat 64 (Config.freeNat p.draw % 2 ^ 48) else p.rd r i
  | _ => p.rd r i

/-! ### What a read clears (R16, R497, R598) -/

/-- RC fields that lie wholly within the bits read. -/
def clearedBy (r : Reg) (mask : Nat) : Nat :=
  (r.info.fields.filter (fun f => f.access == .rc && (fieldMask f &&& mask) == fieldMask f)).foldl (fun m f => m ||| fieldMask f) 0

/-- Clear bits `m` of a register element. -/
def Part.clearBits (p : Part) (port : Nat) (r : Reg) (i m : Nat) : Part :=
  let keep := fun (w : Word) => w &&& ~~~(BitVec.ofNat 64 m)
  match r with
  | .POST_RESULT =>
    let w := keep (p.regWord port r i)
    let v := (Fld.POST_RESULT.STATUS.of w, Fld.POST_RESULT.SLOT.of w)
    { p with postRes := Tab.set (0, 0) p.postRes (stagingKey i (256 + port)) v }
  | .MOVER_STATUS => if m = 0 then p else p.modDie i (fun x => { x with peak := 0 })
  | _ => p.wr r i (keep (p.rd r i))

/-- A read by a port clears: ORDER_RESULT by its own port, every other register by a port with an unexpired lease. -/
def Part.mayClear (p : Part) (port : Nat) (r : Reg) (i : Nat) : Bool :=
  if r == .ORDER_RESULT then i == port else p.holdsLease port

/-! ### A read of BAR0 (R495) -/

/-- Safe mode runs the recovery image (R531). -/
def Part.safeMode (p : Part) : Bool := p.run == .starting 4 && p.get Fld.START_STATUS.SAFE_MODE 0 == 1

/-- Whether a port's host reaches BAR0: in service, or port 0 in safe mode, with the link up (R526, R531). -/
def Part.barServed (p : Part) (port : Nat) : Bool := p.linkUp port && (p.ready || (p.safeMode && port == 0))

/-- The registers that safe mode serves (R531). -/
def safeReg : Reg → Bool
  | .PKG_SERIAL | .PART_INFO | .LEASE_CTRL | .LEASE_STATUS | .LEASE_EXPIRES | .LEASE_ACTION | .ORDER_RESULT | .VIEW_SEL
  | .START_STATUS | .START_CTRL | .FW_STATUS | .FW_FLOORS | .FW_UPDATE | .SIGNED_CTRL | .DEBUG_NONCE | .SIGNED_WINDOW => true
  | _ => false

/-- Whether the part serves a register now. -/
def Part.serves (p : Part) (r : Reg) : Bool := p.ready || safeReg r

/-- A naturally aligned access of 4 or 8 bytes (R495). -/
def barAligned (off n : Nat) : Bool := (n == 4 || n == 8) && off % n == 0 && off + n ≤ 0x800_0000

/-- A read by a port of `n` bytes at a BAR0 offset. -/
def Part.barRead (p : Part) (port off n : Nat) : Part :=
  if !barAligned off n then { p with reply := .completion 1 }
  else
    match Reg.decode (off / 8 * 8) with
    | none => { p with reply := .data 0 }
    | some (r, i) =>
      if !p.serves r then { p with reply := .data 0 }
      else
        let w := (p.regWord port r i).toNat
        let v := if n = 8 then w else if off % 8 = 0 then w % 2 ^ 32 else w / 2 ^ 32
        let mask := if n = 8 then 2 ^ 64 - 1 else if off % 8 = 0 then 2 ^ 32 - 1 else (2 ^ 32 - 1) * 2 ^ 32
        let m := if p.mayClear port r i then clearedBy r mask else 0
        let q := if m = 0 then p else p.clearBits port r i m
        { q with reply := .data v, draw := q.draw + 1 }

/-- REGISTER_READ_CLEAR: a host reads BAR0 (R495, R497, R598). -/
def execRegisterReadClear (port : Fin 2) (off n : Nat) (s : State) : Host.Outcome State Fault Refusal :=
  whenWf (Instr.wf (.registerReadClear port off n)) <|
  s.run (fun p => if p.barServed port then p.barRead port off n else p)

end Sys2Proof.Machine
end

