-- ==== Sys2Proof/Machine/Bundle.lean ====
section
/-! DEFINITION. Bexsy bundles: frames, their strobe and idle sequence (R22, R23), repair entries and their map (R24, R40 to R43), the
wire survey (R38, R39), the repair-map log (R44, R45), vertical ports and lateral edges (R26 to R28), and retiring a
bundle live (R29). -/

namespace Sys2Proof.Machine

/-! ### Repair entries (R42, R43) -/

/-- Entry `i` of the repair map of die `d`. -/
def Part.repairEntry (p : Part) (d i : Nat) : Nat :=
  bits (p.rd .REPAIR_MAP (1088 * d + i / 2)).toNat (32 * (i % 2) + 31) (32 * (i % 2))

def Part.setRepairEntry (p : Part) (d i v : Nat) : Part :=
  p.put (if i % 2 = 0 then Fld.REPAIR_MAP.ENTRY_LO else Fld.REPAIR_MAP.ENTRY_HI) (1088 * d + i / 2) v

/-- Repair code 7: the bundle is retired. -/
def retiredEntry : Nat := 7 * 2 ^ 28

def isRetired (e : Nat) : Bool := bits e 30 28 == 7

/-- The failed wires that an entry lists. -/
def listedWires (e : Nat) : List Nat := [bits e 6 0, bits e 13 7, bits e 20 14, bits e 27 21].take (bits e 30 28)

/-- Physical wires that carry logical wires 0, 1, … in order, and behind them those left over (R24). -/
def goodWires (e : Nat) : List Nat := (List.range 68).filter (fun w => !(listedWires e).contains w)

/-- The physical wire of logical wire `i` (R24). -/
def wireOf (e i : Nat) : Nat := (goodWires e).getD i 0

/-- The logical wire that a physical wire carries, if it carries one. -/
def logicalOf (e w : Nat) : Option Nat :=
  let i := (goodWires e).idxOf w
  if i < 64 then some i else none

/-- What a sender drives on physical wire `w` for the logical values `v`: wires that carry none stay low (R24). -/
def driveWire (e : Nat) (v : Nat → Bool) (w : Nat) : Bool := ((logicalOf e w).map v).getD false

/-- The entry a wire survey makes of a bundle (R40): clock and strobe good, and its failed wires in rising order. -/
def surveyEntry (clockOk : Bool) (failed : List Nat) : Nat :=
  if !clockOk || 4 < failed.length then retiredEntry
  else failed.length * 2 ^ 28 + failed.getD 0 0 + failed.getD 1 0 * 2 ^ 7 + failed.getD 2 0 * 2 ^ 14 + failed.getD 3 0 * 2 ^ 21

/-! ### Frames (R22, R23) -/

/-- One step of the PRBS-15 register, x^15 + x^14 + 1 (which end gives the bit: log entry 70). -/
def prbsStep (s : Nat) : Nat := 2 * s % 2 ^ 15 + bnat (bit s 14 != bit s 13)

/-- The register after `n` steps. -/
def prbsAfter (n s : Nat) : Nat :=
  match n with
  | 0 => s
  | n + 1 => prbsAfter n (prbsStep s)

/-- Bit `n` of the sequence of a seed; its period is 2^15 - 1. -/
def prbsBit (seed n : Nat) : Bool := bit (prbsAfter (n % 32767) seed) 14

/-- The frame strobe is high in UI 0 and low in UI 1 to 7. -/
def strobeOk (b : BitVec 8) : Bool := b == 1

/-- Bit errors of an idle frame, the `n`-th of its bundle, on the logical wires (R23). -/
def idleErrors (e n : Nat) (wires : List (BitVec 8)) : Nat :=
  (List.range 68).foldl (fun k w =>
    if (logicalOf e w).isSome then
      k + ((List.range 8).filter (fun u =>
        (wires.getD w 0).getLsbD u != driveWire e (fun i => prbsBit (i + 1) (8 * n + u)) w)).length
    else k) 0

/-- A receiver takes a frame at moment `t`: a bad strobe discards it and counts a strobe error; an idle frame is checked bit
by bit. The sequence goes on behind a discarded idle frame (log entry 70). -/
def BundleSt.take (b : BundleSt) (e t : Nat) (f : BundleFrame) : BundleSt :=
  let n := if f.idle then (b.idle + 1) % 32767 else b.idle
  if !strobeOk f.strobe then { b with idle := n, strobeErrs := (t :: b.strobeErrs).take 16 }
  else if f.idle then { b with idle := n, bitErrs := (List.replicate (idleErrors e b.idle f.wires) t ++ b.bitErrs).take 16 }
  else b

/-- Sixteen errors within any 2^30 ticks of the moment `t` (R29). -/
def sixteenWithin (t : Nat) (l : List Nat) : Bool := 16 ≤ (l.filter (fun m => Nat.blt t (m + 2 ^ 30))).length

def Part.bundle (p : Part) (d i : Nat) : BundleSt := Tab.get BundleSt.reset p.bundles (2176 * d + i)

def Part.setBundle (p : Part) (d i : Nat) (b : BundleSt) : Part :=
  { p with bundles := Tab.set BundleSt.reset p.bundles (2176 * d + i) b }

/-! ### The wire survey (R38, R39) -/

/-- What phase `ph` (0 stands for phase 1) drives on physical wire `w` in a UI: a walking one, a walking zero, and PRBS-15
with seed w + 1, sampled at the trained centre, 1/8 UI later and 1/8 UI earlier. -/
def surveyBit (ph ui w : Nat) : Bool :=
  match ph with
  | 0 => ui / 1024 == w
  | 1 => ui / 1024 != w
  | _ => prbsBit (w + 1) ui

/-- A sample that is not what was driven. -/
def WireSample.bad (x : WireSample) : Bool := x.value != surveyBit x.phase x.ui x.wire

/-- The wires that a bad sample fails: its own, and in phases 1 and 2 the wire that was stepped through (R39). -/
def WireSample.fails (x : WireSample) : List Nat := if x.phase.val < 2 then [x.wire.val, x.ui / 1024] else [x.wire.val]

/-- The failed data and spare wires of a bundle, in rising order. -/
def WireSurvey.failed (x : WireSurvey) : List Nat :=
  let l := (x.samples.filter WireSample.bad).flatMap WireSample.fails
  (List.range 68).filter (fun w => l.contains w)

/-- The clock and strobe wires pass. -/
def WireSurvey.clockOk (x : WireSurvey) : Bool := x.lock && x.strobes.all strobeOk

/-! ### Entries in use -/

/-- Live bundles among `n` entries from index `lo`. -/
def Part.liveBundles (p : Part) (d lo n : Nat) : Nat :=
  n - ((List.range n).filter (fun i => isRetired (p.repairEntry d (lo + i)))).length

/-- The map of a die: the words of its window that are not 0. -/
def Part.repairMap (p : Part) (d : Nat) : Tab Word :=
  let lo := Reg.off .REPAIR_MAP (1088 * d)
  (p.regs.filter (fun x => lo ≤ x.1 && x.1 < lo + 8704)).map (fun x => (x.1 - lo, x.2))

/-! ### The repair-map log (R44, R45) -/

/-- A record with the CRC that R44 gives it. -/
def MapRec.sealed (r : MapRec) : MapRec := { r with crc := crc64 r.body }

/-- The valid records. -/
def FlashSt.validMaps (f : FlashSt) : List MapRec := f.maps.filter MapRec.valid

/-- The newest record of a base die. -/
def FlashSt.newestMap (f : FlashSt) (serial : Nat) : Option MapRec :=
  (f.validMaps.filter (fun r => r.serial == serial)).foldl (fun (b : Option MapRec) r =>
    match b with
    | none => some r
    | some q => if q.seq < r.seq then some r else b) none

def FlashSt.highestMap (f : FlashSt) : Nat := f.validMaps.foldl (fun n r => max n r.seq) 0

/-- The number `n` after the highest, in 32 bits. -/
def FlashSt.nextMap (f : FlashSt) (n : Nat) : Nat := (f.highestMap + 1 + n) % 2 ^ 32

/-- The sector kept erased: the highest-numbered one that holds no record (log entry 28). -/
def FlashSt.reserveSector (f : FlashSt) : Nat :=
  ((List.range 32).filter (fun s => f.maps.all (fun r => r.sector != s))).foldl max 0

/-- The first free slot outside the reserve. -/
def FlashSt.freeMapSlot (f : FlashSt) : Option (Nat × Nat) :=
  let res := f.reserveSector
  ((List.range 32).flatMap (fun s => (List.range 7).map (fun i => (s, i)))).find? (fun x =>
    x.1 != res && f.maps.all (fun r => !(r.sector == x.1 && r.slot == x.2)))

/-- Make room: copy what is still newest out of the sector with the lowest numbers into the reserve, and erase it. -/
def FlashSt.reclaim (f : FlashSt) (serials : List Nat) : FlashSt :=
  let res := f.reserveSector
  let low := f.validMaps.foldl (fun (b : Nat × Nat) r => if r.seq < b.1 then (r.seq, r.sector) else b) (f.highestMap + 1, 0)
  let keep := f.validMaps.filter (fun r => r.sector == low.2 && serials.contains r.serial && f.newestMap r.serial == some r)
  let copies := (keep.zip (List.range keep.length)).map (fun x =>
    { x.1 with sector := res, slot := x.2, seq := f.nextMap x.2 }.sealed)
  { f with maps := f.maps.filter (fun r => r.sector != low.2) ++ copies }

/-- The first free slot of the sector just filled. -/
def FlashSt.slotIn (f : FlashSt) (s : Nat) : Nat := (f.maps.filter (fun r => r.sector == s)).length

/-- Append a map. -/
def FlashSt.appendMap (f : FlashSt) (serials : List Nat) (serial : Nat) (map : Tab Word) : FlashSt :=
  match f.freeMapSlot with
  | some x => { f with maps := f.maps ++ [(⟨x.1, x.2, serial, f.nextMap 0, map, 0⟩ : MapRec).sealed] }
  | none =>
    let res := f.reserveSector
    let g := f.reclaim serials
    { g with maps := g.maps ++ [(⟨res, g.slotIn res, serial, g.nextMap 0, map, 0⟩ : MapRec).sealed] }

def Part.baseSerial (p : Part) (d : Nat) : Nat := (p.rd .BASE_SERIAL d).toNat

/-- Whether the newest record of die `d` holds its map. -/
def Part.mapLogged (p : Part) (d : Nat) : Bool :=
  match p.flash.newestMap (p.baseSerial d) with
  | some r => r.map == p.repairMap d
  | none => false

/-- Append the map of die `d` when it differs from its last logged map; a failing flash is reported (R44, R45). -/
def Part.logMap (p : Part) (d : Nat) (flashOk : Bool) : Part :=
  if p.mapLogged d then p
  else if !flashOk then p.event .survey .ok (unitWord d 0 0xFF) 0
  else { p with flash := p.flash.appendMap ((List.range 4).map p.baseSerial) (p.baseSerial d) (p.repairMap d) }

/-! ### Ports and edges (R26 to R28, R60) -/

/-- Mark an edge dead at both of its ends. -/
def Part.edgeDies (p : Part) (d : Nat) (l1 : Bool) : Part := (p.put (deadFld l1) d 1).put (deadFld !l1) (p.acrossEdge d l1) 1

/-- Count the live incoming bundles of an edge, and apply R27. -/
def Part.countEdge (p : Part) (d : Nat) (l1 : Bool) : Part :=
  let n := p.liveBundles d (if l1 then 2112 else 2048) 64
  let p := p.put (if l1 then Fld.EDGE_STATUS.L1_IN_LIVE else Fld.EDGE_STATUS.L0_IN_LIVE) d n
  if n < 32 then p.edgeDies d l1 else p

/-- Dead lateral edges, each counted at its L0 end. -/
def Part.deadEdges (p : Part) : Nat := ((List.range 4).filter (fun d => p.get Fld.EDGE_STATUS.L0_DEAD d == 1)).length

/-- Apply R26 to the vertical port of local cluster `k` of die `d`. -/
def Part.countPort (p : Part) (d k : Nat) : Part :=
  if (p.liveBundles d (128 * k) 128 < 64 ∨ p.liveBundles d (1024 + 128 * k) 128 < 64) ∧
      bit (p.rd .DISABLED_MAP (8 * d + k)).toNat 40 = false then p.retire (8 * d + k) 0 4 0 .retiredUnit
  else p

/-- Apply R26 to R28 after bundle `i` of die `d` was retired; the second dead edge in service is a part loss. -/
def Part.applyLoss (p : Part) (d i : Nat) : Part :=
  if i < 2048 then p.countPort d (i % 1024 / 128)
  else
    let p := p.countEdge d (2112 ≤ i)
    if 2 ≤ p.deadEdges then { p with run := .dead } else p

/-! ### Retiring a bundle live (R29) -/

/-- Both ends stop using a bundle: code 7, the count, the log, and R26 to R28. -/
def Part.retireBundle (p : Part) (d i : Nat) (flashOk : Bool) : Part :=
  if isRetired (p.repairEntry d i) then p
  else
    let p := (p.setRepairEntry d i retiredEntry).bump Fld.EDGE_STATUS.LIVE_RETIRE_COUNT d 1
    ((p.logMap d flashOk).event .link .retiredUnit (unitWord d 0 0xFF) i).applyLoss d i

/-- The receiver of a bundle takes frames; where its errors reach the threshold it notifies the transmitter over the sideband
(R29). A retired bundle carries nothing (R25). -/
def execBundleRetireLive (d : Fin 4) (i : Fin 2176 × List BundleFrame) (s : State) : Host.Outcome State Fault Refusal :=
  whenWf (Instr.wf (.bundleRetireLive d i)) <|
  s.runReady (fun p =>
    let k := i.1.val
    let e := p.repairEntry d k
    if isRetired e then p
    else
      let t := p.time.raw
      let b := i.2.foldl (fun (b : BundleSt) f => b.take e t f) (p.bundle d k)
      let p := p.setBundle d k b
      if (sixteenWithin t b.bitErrs || sixteenWithin t b.strobeErrs) && !p.retireNotices.contains (d.val, k) then
        { p with retireNotices := p.retireNotices ++ [(d.val, k)] }
      else p)

/-- The notice is acknowledged: the bundle is retired at the next frame boundary (R29). -/
def execRetirementNoticeAck (d : Fin 4) (i : Fin 2176) (flashOk : Bool) (s : State) : Host.Outcome State Fault Refusal :=
  s.runReady (fun p =>
    if p.retireNotices.contains (d.val, i.val) then
      { p with retireNotices := p.retireNotices.filter (fun x => x != (d.val, i.val)) }.retireBundle d i flashOk
    else p)

end Sys2Proof.Machine
end

