-- ==== Sys2Proof/Machine/Power.lean ====
section
/-! DEFINITION. Power and thermal control (R556 to R570): levels, the cap loop, thermal throttling, AVSBus telemetry, DROOP_N and
THROTTLE_N, reference clocks, and the switched domains (R92, R570, R580). -/

namespace Sys2Proof.Machine

/-! ### Environment events (R520, R574) -/

/-- Sensors of ENVIRONMENT events (log entry 29): clusters 0 to 31, base dies 32 to 35, stacks 36 to 47, rails 48 to 63, DROOP_N
64 to 67, THROTTLE_N 68. -/
def railSensor (r : Nat) : Nat := 48 + r
def droopSensor (d : Nat) : Nat := 64 + d
def throttleSensor : Nat := 68

/-- Raise an ENVIRONMENT event; SMB_ALERT_N asserts (R574). -/
def Part.environment (p : Part) (sensor : Nat) : Part :=
  { p with pins := { p.pins with smbAlertN := false } }.event .environment .ok (unitWord 0xFF 0 0xFF) sensor

/-! ### Levels (R560, R561) -/

def Part.thermalLevel (p : Part) (k : Nat) : Nat := Tab.get 16 p.levels k

/-- The compute rail of a die, numbered by site (R557). -/
def Part.computeRail (p : Part) (d : Nat) : Nat := p.get Fld.DIE_IDENT.SITE d

/-- The lowest of the sources of R560 for a cluster by itself. -/
def Part.ownLevel (p : Part) (k : Nat) : Nat :=
  let x := p.die (k / 8)
  let l := min (p.get Fld.POWER_CTRL.MAX_LEVEL 0) (min x.capLevel (p.thermalLevel k))
  let l := if p.pins.throttleN then l else min l (p.get Fld.POWER_CTRL.THROTTLE_LEVEL 0)
  if x.droopStuck || p.get Fld.RAIL_STATUS.TELEMETRY_LOST (p.computeRail (k / 8)) == 1 then min l 4 else l

/-- Clusters of die `d` paired with cluster `k` (R443). -/
def Part.pairedClusters (p : Part) (k : Nat) : List Nat :=
  let d := k / 8
  (List.range 4).filterMap (fun i =>
    let j := 4 * d + i
    let a := 8 * d + p.get Fld.PAIR_CTRL.CLUSTER_A j
    let b := 8 * d + p.get Fld.PAIR_CTRL.CLUSTER_B j
    if p.get Fld.PAIR_CTRL.ENABLE j = 0 then none else if k = a then some b else if k = b then some a else none)

/-- The level a cluster is allowed (R560, R561). -/
def Part.allowedLevel (p : Part) (k : Nat) : Nat :=
  (p.pairedClusters k).foldl (fun l j => min l (p.ownLevel j)) (p.ownLevel k)

/-- One step of a level towards another. -/
def towards (l goal : Nat) : Nat := if l < goal then l + 1 else if goal < l then l - 1 else l

/-- The clusters of a die move one level, and its voltage request follows the highest (R560). `announce`: the rise is estimated
above THRESHOLD_A. -/
def execLevelStep (d : Fin 4) (announce : Bool) (s : State) : Host.Outcome State Fault Refusal :=
  s.runReady (fun p =>
    let goal := (List.range 8).map (fun i => p.allowedLevel (8 * d + i))
    let rises := (List.range 8).any (fun i => p.level (8 * d + i) < goal.getD i 0)
    let p := if rises && announce then p.assertLsa d else p
    let p := (List.range 8).foldl (fun (p : Part) i =>
      p.put Fld.CLUSTER_POWER.LEVEL (8 * d + i) (towards (p.level (8 * d + i)) (goal.getD i 0))) p
    let top := (List.range 8).foldl (fun m i => max m (p.level (8 * d + i))) 0
    p.modDie d (fun x => { x with voltLevel := top }))

/-! ### Telemetry and the power cap (R558, R559, R562, R568) -/

/-- Nominal voltage in mV and maximum current in 0.1 A of rails 4 to 15; rails 0 to 3 carry the requested voltage (R557). -/
def railMax (r : Nat) : Nat :=
  if r < 4 then 4500 else if r < 8 then 700 else [2000, 1200, 200, 800, 200, 150, 30, 50].getD (r - 8) 0

def railNominal (r : Nat) : Nat := if r < 8 then 750 else [1050, 750, 1800, 750, 1200, 750, 1800, 750].getD (r - 8) 0

/-- The voltage a die requests, within the range of R557. -/
def requestedMv (level : Nat) : Nat := 550 + Config.voltage level % 301

def Part.railMv (p : Part) (r : Nat) : Nat :=
  if r < 4 then (match p.dieAt r with | some d => requestedMv (p.die d).voltLevel | none => 700) else railNominal r

/-- A reading that R568 accepts. -/
def Part.readingOk (p : Part) (r mv da : Nat) : Bool :=
  Nat.ble (9 * p.railMv r) (10 * mv) && Nat.ble (10 * mv) (11 * p.railMv r) && Nat.ble da (railMax r)

/-- Power of a rail in mW: as read, at the fixed figure, or at maximum current when telemetry is lost (R559, R562). -/
def Part.railPower (p : Part) (r : Nat) : Nat :=
  if p.get Fld.RAIL_STATUS.TELEMETRY_LOST r = 1 then p.railMv r * railMax r / 10
  else if p.get Fld.RAIL_STATUS.FIXED r = 1 then Config.fixedPower r
  else p.get Fld.RAIL_STATUS.VOLTAGE r * p.get Fld.RAIL_STATUS.CURRENT r / 10

/-- Mean of the latest ten sums in mW. -/
def Part.meanPower (p : Part) : Nat :=
  if p.power.isEmpty then 0 else p.power.foldl (· + ·) 0 / p.power.length

/-- Take a rail's reading: none for the "no action" response. -/
def Part.readRail (p : Part) (x : Fin 16 × Option (BitVec 16 × BitVec 16)) : Part :=
  let r := x.1.val
  match x.2 with
  | none => (p.put Fld.RAIL_STATUS.FIXED r 1).put Fld.RAIL_STATUS.TELEMETRY_LOST r 0
  | some (mv, da) =>
    if p.readingOk r mv.toNat da.toNat then
      (((p.put Fld.RAIL_STATUS.VOLTAGE r mv.toNat).put Fld.RAIL_STATUS.CURRENT r da.toNat).put Fld.RAIL_STATUS.FIXED r 0).put
        Fld.RAIL_STATUS.TELEMETRY_LOST r 0
    else p

/-- A poll of the rails; the 1 ms average and the peak follow (R558, R559, R578). -/
def execAvsbusPoll (readings : List (Fin 16 × Option (BitVec 16 × BitVec 16))) (s : State) : Host.Outcome State Fault Refusal :=
  whenWf (Instr.wf (.avsbusPoll readings)) <|
  s.runReady (fun p =>
    let p := readings.foldl (fun (p : Part) x => p.readRail x) p
    let now := (List.range 16).foldl (fun n r => n + p.railPower r) 0
    let p := { p with power := (now :: p.power).take 10 }
    let p := p.put Fld.POWER_STATUS.PKG_POWER_W 0 (min (p.meanPower / 1000) 0xFFFF)
    p.put Fld.POWER_STATUS.PEAK_POWER_W 0 (max (p.get Fld.POWER_STATUS.PEAK_POWER_W 0) (min (now / 1000) 0xFFFF)))

/-- A rail gave no valid response within 10 µs and three retries (R568). -/
def execAvsbusTimeout (r : Fin 16) (s : State) : Host.Outcome State Fault Refusal :=
  s.runReady (fun p =>
    if p.get Fld.RAIL_STATUS.TELEMETRY_LOST r = 1 then p
    else (p.put Fld.RAIL_STATUS.TELEMETRY_LOST r 1).environment (railSensor r))

/-- The cap loop (R562); `early`: a die's own estimate lowers its level between updates. -/
def execCapLoop (early : Option (Fin 4)) (s : State) : Host.Outcome State Fault Refusal :=
  s.runReady (fun p =>
    let down := fun (p : Part) (d : Nat) => p.modDie d (fun x => { x with capLevel := max 4 (x.capLevel - 1) })
    match early with
    | some d => down p d
    | none =>
      let cap := p.get Fld.POWER_CTRL.POWER_CAP_W 0 * 1000
      let most := p.get Fld.POWER_CTRL.MAX_LEVEL 0
      if cap < p.meanPower then (List.range 4).foldl down p
      else if p.meanPower * 100 < cap * 97 then
        (List.range 4).foldl (fun (p : Part) d =>
          if (p.die d).capLevel < most then p.modDie d (fun x => { x with capLevel := x.capLevel + 1 }) else p) p
      else p)

/-! ### Thermal limits (R563, R564) -/

/-- The limit of a sensor in 1/16 °C. -/
def Part.limitOf (p : Part) (sensor : Nat) : Int :=
  16 * (p.get (if sensor < 36 then Fld.THERM_CTRL.THROTTLE_C else Fld.THERM_CTRL.STACK_THROTTLE_C) 0 : Nat)

/-- Reading of a sensor in 1/16 °C. -/
def Part.tempOf (p : Part) (sensor : Nat) : Int :=
  signed 16 (if sensor < 32 then p.get Fld.CLUSTER_POWER.TEMP sensor
    else if sensor < 36 then p.get Fld.DIE_TEMP.BASE_TEMP (sensor - 32)
    else p.get (match (sensor - 36) % 3 with
      | 0 => Fld.DIE_TEMP.STACK0_TEMP | 1 => Fld.DIE_TEMP.STACK1_TEMP | _ => Fld.DIE_TEMP.STACK2_TEMP) ((sensor - 36) / 3))

/-- Store a reading. -/
def Part.setTemp (p : Part) (sensor v : Nat) : Part :=
  if sensor < 32 then p.put Fld.CLUSTER_POWER.TEMP sensor v
  else if sensor < 36 then p.put Fld.DIE_TEMP.BASE_TEMP (sensor - 32) v
  else p.put (match (sensor - 36) % 3 with
    | 0 => Fld.DIE_TEMP.STACK0_TEMP | 1 => Fld.DIE_TEMP.STACK1_TEMP | _ => Fld.DIE_TEMP.STACK2_TEMP) ((sensor - 36) / 3) v

/-- Sensors that bear on a cluster. -/
def sensorsOf (k : Nat) : List Nat := [k, 32 + k / 8, 36 + 3 * (k / 8), 37 + 3 * (k / 8), 38 + 3 * (k / 8)]

/-- The thermal level of a cluster after a sample: one down while a sensor is at its limit, one up each 100 µs once all read
2 °C below. -/
def Part.thermalStep (p : Part) (k : Nat) : Part :=
  let l := p.thermalLevel k
  let set := fun (v : Nat) => { p with levels := Tab.set 16 p.levels k v, levelAt := Tab.set 0 p.levelAt k p.time.raw }
  if (sensorsOf k).any (fun n => p.limitOf n ≤ p.tempOf n) then set (max 4 (l - 1))
  else if l < 16 ∧ (sensorsOf k).all (fun n => p.tempOf n ≤ p.limitOf n - 32) ∧ Tab.get 0 p.levelAt k + 100000 ≤ p.time.raw then
    set (l + 1)
  else p

/-- A sensor starts or stops throttling; each raises an event (R563). -/
def Part.noteHot (p : Part) (n : Nat) : Part :=
  let on := p.hot.contains n
  if !on && p.limitOf n ≤ p.tempOf n then ({ p with hot := n :: p.hot }).environment n
  else if on && p.tempOf n ≤ p.limitOf n - 32 then ({ p with hot := p.hot.filter (· != n) }).environment n
  else p

/-- The sensor, if any, at its trip limit: a junction at 120 °C, a stack at 105 °C (R564). -/
def Part.tripped (p : Part) : Option Nat :=
  (List.range 48).find? (fun n => (if n < 36 then (1920 : Int) else 1680) ≤ p.tempOf n)

/-- THERMTRIP_N asserts: every clock stops and the part is lost (R483, R564). -/
def Part.thermtrip (p : Part) (n : Nat) : Part :=
  { p with run := .dead, trip := some n, pins := { p.pins with thermtripN := false } }

/-- A sample of the 48 sensors, in 1/16 °C (R563, R564). -/
def execThermalSample (temps : List (BitVec 16)) (s : State) : Host.Outcome State Fault Refusal :=
  whenWf (Instr.wf (.thermalSample temps)) <|
  s.runReady (fun p =>
    let p := p.advanceTo ((p.time.raw / 10000 + 1) * 10000)
    let p := (temps.zip (List.range 48)).foldl (fun (p : Part) x => p.setTemp x.2 x.1.toNat) p
    match p.tripped with
    | some n => p.thermtrip n
    | none => (List.range 48).foldl (fun (p : Part) n => p.noteHot n) ((List.range 32).foldl (fun (p : Part) k => p.thermalStep k) p))

/-! ### DROOP_N, THROTTLE_N (R566 to R568) -/

def Part.setDroopPin (p : Part) (d : Nat) (high : Bool) : Part :=
  { p with pins := { p.pins with droopN := Tab.set true p.pins.droopN d high } }

/-- DROOP_N of a die asserts: its clusters run at half clock. A pin taken as stuck is ignored. -/
def execDroopAssert (d : Fin 4) (s : State) : Host.Outcome State Fault Refusal :=
  s.runReady (fun p =>
    let p := p.setDroopPin d false
    if (p.die d).droopStuck then p else p.modDie d (fun x => { x with droop := true, stretch := true }))

/-- DROOP_N of a die is released: LSA_N asserts, and the stretch waits 2,000 ns (R566, R568). -/
def Part.droopReleased (p : Part) (d : Nat) : Part :=
  (p.modDie d (fun x => { x with droop := false, stretchAt := p.time.raw })).assertLsa d

/-- DROOP_N deasserts (R566). -/
def execDroopDeassert (d : Fin 4) (s : State) : Host.Outcome State Fault Refusal :=
  s.runReady (fun p =>
    let p := p.setDroopPin d true
    if (p.die d).droop then p.droopReleased d else p)

/-- The stretch ends; LSA_N counts another 2,000 ns from here (R566). -/
def execDroopStretchEnd (d : Fin 4) (s : State) : Host.Outcome State Fault Refusal :=
  s.runReady (fun p =>
    if (p.die d).stretch && !(p.die d).droop then
      let p := p.advanceTo ((p.die d).stretchAt + 2000)
      p.modDie d (fun x => { x with stretch := false, lsaEnd := max x.lsaEnd p.time.raw })
    else p)

/-- DROOP_N stays asserted for 1 ms: stuck (R568). -/
def execDroopStuck (d : Fin 4) (s : State) : Host.Outcome State Fault Refusal :=
  s.runReady (fun p =>
    if (p.die d).droop then
      ((p.droopReleased d).modDie d (fun x => { x with droopStuck := true })).environment (droopSensor d)
    else p)

/-- A stuck DROOP_N has been high for 10 µs: it is watched again. -/
def execDroopStuckClear (d : Fin 4) (s : State) : Host.Outcome State Fault Refusal :=
  s.runReady (fun p =>
    if (p.die d).droopStuck && Tab.get true p.pins.droopN d then p.modDie d (fun x => { x with droopStuck := false }) else p)

def Part.setThrottle (p : Part) (high : Bool) : Part :=
  { p with pins := { p.pins with throttleN := high, throttleTold := p.pins.throttleTold && !high } }

def execThrottleAssert (s : State) : Host.Outcome State Fault Refusal := s.runReady (fun p => p.setThrottle false)
def execThrottleRelease (s : State) : Host.Outcome State Fault Refusal := s.runReady (fun p => p.setThrottle true)

/-- THROTTLE_N stands asserted for 10 s: one event (R568). -/
def execThrottleStuck (s : State) : Host.Outcome State Fault Refusal :=
  s.runReady (fun p =>
    if p.pins.throttleN || p.pins.throttleTold then p
    else { p with pins := { p.pins with throttleTold := true } }.environment throttleSensor)

/-! ### Reference clocks (R573) -/

/-- REFCLK_SD is lost: every fabric port goes DOWN. -/
def execRefclkSdLoss (s : State) : Host.Outcome State Fault Refusal :=
  s.runReady (fun p =>
    (List.range 24).foldl (fun (p : Part) q => if p.portState q = 0 then p else p.portGoesDown q)
      { p with pins := { p.pins with refSd := false } })

/-- REFCLK_PKG is lost for 10 µs: the clocks stop and the part is lost; SMB_ALERT_N asserts. -/
def execRefclkPkgLoss (s : State) : Host.Outcome State Fault Refusal :=
  s.runReady (fun p => { p with run := .dead, pins := { p.pins with refPkg := false, smbAlertN := false } })

/-! ### Switched domains (R92, R570, R580) -/

/-- Bits of PD_CTRL and PD_STATUS by domain: clusters at 0 to 31, port banks at 36 to 39. -/
def pdBit (n : Nat) : Nat := if n < 32 then n else n - 4

/-- Whether a domain that PD_CTRL switches may go off (R92, R570). -/
def Part.mayGoOff (p : Part) (n : Nat) : Bool :=
  if n < 32 then
    (p.liveSlots n).isEmpty && (coresOf n).all (fun c => (p.core (p.issuer c)).phase == .idle && (p.core c).watches.isEmpty)
  else (List.range 6).all (fun j => p.portState (6 * (n - 36) + j) == 0)

def Part.setDomain (p : Part) (n : Nat) (on : Bool) : Part :=
  let w := p.get Fld.PD_STATUS.ON 0
  p.put Fld.PD_STATUS.ON 0 (if bit w n == on then w else w ^^^ 2 ^ n)

/-- What a cluster domain loses when it switches off, and what it reads when it is powered again (R92, R97, R115). -/
def Part.clearCluster (p : Part) (k : Nat) : Part :=
  let p := (coresOf k).foldl (fun (p : Part) c =>
    { p.modCore c (fun x => { x with tc := [] }) with
      banks := Tab.delRange p.banks (4 * c) 4, mem := Tab.delRange p.mem (tileBase c) 0xA0_0000,
      upsets := Tab.delRange p.upsets (tileBase c / 8) (0xA0_0000 / 8) }) p
  { p.setCluster k { p.cluster k with postCount := 0 } with staging := Tab.delRange p.staging (512 * k) 512 }

/-- Domains that PD_CTRL switches. -/
def pdDomains : List Nat := List.range 32 ++ [36, 37, 38, 39]

/-- Whether a write of PD_CTRL would switch off a domain that is not idle. -/
def Part.pdBusy (p : Part) (old new : Word) : Bool :=
  pdDomains.any (fun n => bit old.toNat (pdBit n) && !bit new.toNat (pdBit n) && !p.mayGoOff n)

/-- PD_CTRL changed: domains go off at once; those switched on are announced on LSA_N and power up (R570). -/
def Part.pdSwitch (p : Part) (old new : Word) : Part :=
  pdDomains.foldl (fun (p : Part) n =>
    let was := bit old.toNat (pdBit n)
    let now := bit new.toNat (pdBit n)
    if was && !now then (if n < 32 then p.clearCluster n else p).setDomain n false
    else if !was && now then p.assertLsa (if n < 32 then n / 8 else n - 36)
    else p) p

/-- 50 µs after switch-on the domain is powered; a cluster clears its tile stores (R253, R570). -/
def execPdPowerUpComplete (n : Fin 40) (s : State) : Host.Outcome State Fault Refusal :=
  s.runReady (fun p =>
    if p.domainOn n || (32 ≤ n.val && n.val < 36) || !bit (p.rd .PD_CTRL 0).toNat (pdBit n) then p
    else if n.val < 32 then ((p.setDomain n true).clearCluster n).setClearing n true
    else p.setDomain n true)

end Sys2Proof.Machine
end

