-- ==== Sys2Proof/Machine/Start.lean ====
section
/-! DEFINITION. Starts (R523 to R532, R540, R541): the cold-start steps, the warm start and its abandonment, safe mode, and the
boot record. -/

namespace Sys2Proof.Machine

/-! ### Steps (R525, R552) -/

/-- A step ends with a status other than OK: the part stops there. -/
def Part.stopStart (p : Part) (n : Nat) (st : Status) : Part :=
  { (p.put Fld.START_STATUS.STOP_STEP 0 n).put Fld.START_STATUS.STOP_STATUS 0 st.code with run := .failed }

/-- A step begins. -/
def Part.beginStep (p : Part) (n : Nat) : Part := { p.put Fld.START_STATUS.STEP 0 n with run := .starting n }

/-- Run steps in order. A step that passes its limit keeps the part in it (START_STEP_TIMEOUT ends it). -/
def Part.startSteps (p : Part) (x : StartFacts) (l : List (Nat × (Part → StartFacts → Part × Status))) : Part :=
  match l with
  | [] => p
  | (n, f) :: r =>
    let p := p.beginStep n
    if x.overrun.any (fun m => m.val == n) then p
    else match f p x with
      | (p, .ok) => if p.run = .dead then p else p.startSteps x r
      | (p, st) => p.stopStart n st

/-! ### C2: failed starts and serial recovery (R31 to R34, R530) -/

/-- The failed-start rule, applied as C2 begins. -/
def Part.countStart (p : Part) : Part :=
  let b := p.flash.boot.1
  if 3 ≤ b.fails then p.put Fld.START_STATUS.SAFE_MODE 0 1
  else { p with flash := p.flash.setBoot { b with fails := min 255 (b.fails + 1) } }

/-- The check value that recovery record `i` holds (R31; the layout of the region is the model's, log entry 71). -/
def FlashSt.recoveryCheck (f : FlashSt) (i : Nat) : Nat := leNat (f.read (0x4_0000 + 0xC00 * i) 4)

/-- The type of a die, by its place among the 20: 0 compute die, 1 base die, 2 stack base die. -/
def dieKind (i : Nat) : Nat := if i < 4 then 0 else if i < 8 then 1 else 2

/-- The serial that a try yields: correction reaches up to 96 flipped cells (R32). -/
def RecoveryTry.yields (t : RecoveryTry) : BitVec 64 := if t.flips.val ≤ 96 then t.serial else t.astray

/-- The record and serial of die `i`: the one record of its type whose serial has the record's check value (R33). -/
def FlashSt.resolve (f : FlashSt) (i : Nat) (tries : List RecoveryTry) : Option (Nat × BitVec 64) :=
  match tries.filter (fun t => dieKind t.record == dieKind i && t.check.toNat == f.recoveryCheck t.record) with
  | [t] => some (t.record.val, RecoveryTry.yields t)
  | _ => none

/-- What the 20 dies resolve to. -/
def FlashSt.resolved (f : FlashSt) (x : StartFacts) : List (Option (Nat × BitVec 64)) :=
  (List.range 20).map (fun i => f.resolve i (x.tries.getD i []))

/-- Dies that are unresolved, or that resolve to a record another die resolves to (R34). -/
def unresolvedDies (l : List (Option (Nat × BitVec 64))) : List Nat :=
  (List.range l.length).filter (fun i =>
    match l.getD i none with
    | none => true
    | some x => (List.range l.length).any (fun j => j != i && (l.getD j none).any (fun y => y.1 == x.1)))

/-- The serials by place, 0 where a die has none. -/
def Part.serials (p : Part) (x : StartFacts) : List (BitVec 64) :=
  (p.flash.resolved x).map (fun y => (y.map (·.2)).getD 0)

/-- ID_FAULT of a site (R59) for unresolved dies by place; of several the lowest code (log entry 71). -/
def idFault (l : List Nat) (site : Nat) : Nat :=
  if l.contains (4 + site) then 1 else if l.contains site then 2 else if l.contains (8 + 3 * site) then 3
  else if l.contains (9 + 3 * site) then 4 else if l.contains (10 + 3 * site) then 5 else 0

/-- C2, behind the failed-start rule: serial recovery. -/
def Part.stepC2 (p : Part) (x : StartFacts) : Part × Status :=
  let l := unresolvedDies (p.flash.resolved x)
  if l = [] then (p, .ok)
  else ((List.range 4).foldl (fun (p : Part) s => p.put Fld.DIE_IDENT.ID_FAULT s (idFault l s)) p, .idUnresolved)

/-! ### C3: numbering (R35 to R37) -/

/-- Whether edge L0 of a site is live for the survey: its clock is detected and its sideband answers. -/
def edgeLive (x : StartFacts) (site : Nat) : Bool := bit x.clocks.toNat (site % 4) && bit x.sidebands.toNat (site % 4)

/-- Sites of dies 0 to 3 (R20, R35). -/
def siteOf (mirrored : Bool) (d : Nat) : Nat := if mirrored then (4 - d) % 4 else d

/-- Number one die. -/
def Part.numberDie (p : Part) (x : StartFacts) (m : Bool) (d : Nat) : Part :=
  let s := siteOf m d
  let sn := fun (i : Nat) => (p.serials x).getD i 0
  let p := p.wr .DIE_IDENT d (packFields [(Fld.DIE_IDENT.MIRRORED, bnat m), (Fld.DIE_IDENT.FLASH_HOLDER, bnat (d == 0)),
    (Fld.DIE_IDENT.SITE, s), (Fld.DIE_IDENT.DIE_NUMBER, d)])
  let p := (p.wr .COMPUTE_SERIAL d (sn s)).wr .BASE_SERIAL d (sn (4 + s))
  (List.range 3).foldl (fun (p : Part) k => p.wr .STACK_SERIAL (3 * d + k) (sn (8 + 3 * s + k))) p

/-- C3: die survey. A failed sideband kills its edge (R30). A CONFLICT is looked at before missing edges (log entry 72). -/
def Part.stepC3 (p : Part) (x : StartFacts) : Part × Status :=
  let m := !edgeLive x 0
  let p := (List.range 4).foldl (fun (p : Part) d => p.numberDie x m d) p
  let p := (List.range 4).foldl (fun (p : Part) d =>
    if bit x.sidebands.toNat (siteOf m d) then p
    else ((p.put Fld.EDGE_STATUS.L0_IN_LIVE d 0).put Fld.EDGE_STATUS.L1_IN_LIVE (p.acrossEdge d false) 0).edgeDies d false) p
  if x.conflict then (p, .conflict)
  else if ((List.range 4).filter (edgeLive x)).length < 3 || x.unassigned then (p, .retiredUnit)
  else
    let p := p.put Fld.START_STATUS.SURVEY_CHANGED 0 (bnat (p.flash.mirrored.any (fun o => o != m)))
    ({ p with flash := { p.flash with mirrored := some m } }, .ok)

/-! ### C4: image and grade record (R50, R540, R545) -/

/-- Status of the image in a slot: 0 A, 1 B, 2 R. -/
def Part.slotStatus (p : Part) (x : StartFacts) (s : Nat) : Status :=
  p.flash.verify (p.flash.header s) (if s = 2 then 2 else 1) (match s with | 0 => x.imageA | 1 => x.imageB | _ => x.imageR)

def Boot.dropPending (b : Boot) : Boot := { b with pending := 0xFF, trying := 0 }

/-- The choice among the main slots: boot record, whether the pending image was rejected, and the slot or the failure (R540). -/
def Part.chooseMain (p : Part) (x : StartFacts) : Boot × Bool × Except Status Nat :=
  let b := p.flash.boot.1
  let rest := fun (b : Boot) =>
    if p.slotStatus x b.active = .ok then Except.ok b.active
    else if p.slotStatus x (1 - b.active) = .ok then .ok (1 - b.active) else .error (p.slotStatus x b.active)
  if b.trying = 1 then (b.dropPending, true, rest b)
  else if b.pending < 2 then
    if p.slotStatus x b.pending = .ok then ({ b with trying := 1 }, false, .ok b.pending)
    else (b.dropPending, true, rest b)
  else (b, false, rest b)

/-- Start the image of a slot on die 0: what the registers show of it, and what the warden's retention memory keeps (R521, R541,
R545, R554). -/
def Part.runImage (p : Part) (s : Nat) : Part :=
  let h := p.flash.header s
  let p := (p.put Fld.FW_STATUS.RUNNING_SLOT 0 s).put Fld.PART_INFO.FW_VERSION 0 (imgVersion h)
  { p with flash := { p.flash with retained := Tab.put p.flash.retained 0 (p.flash.imageWrites, imgDigest h), cdiLocked := true } }

/-- The wardens of dies 1 to 3 take the body over the lateral bundles, check it against BODY_DIGEST and start it (R525, R541).
A body that does not match ends the step with SIG_FAIL (log entry 65). -/
def Part.spreadImage (p : Part) (x : StartFacts) : Part × Status :=
  if ([1, 2, 3] : List Nat).all (fun d => bit x.bodies.toNat d) then
    (match Tab.find? p.flash.retained 0 with
      | some r => { p with flash := { p.flash with retained := [(0, r), (1, r), (2, r), (3, r)] } }
      | none => p, .ok)
  else (p, .sigFail)

/-- Choose, verify and start a main image. -/
def Part.startMain (p : Part) (x : StartFacts) : Part × Status :=
  let c := p.chooseMain x
  let p := if c.1 = p.flash.boot.1 then p else { p with flash := p.flash.setBoot c.1 }
  let p := if c.2.1 then p.put Fld.START_STATUS.PENDING_REJECTED 0 1 else p
  match c.2.2 with
  | .ok s => (p.runImage s, .ok)
  | .error st => (p, st)

/-- Check the grade record: the first valid copy is used (R50). -/
def Part.checkGrade (p : Part) (sig : CertFacts × CertFacts) (serials : List (BitVec 64)) : Part × Status :=
  let ok := fun (i : Nat) => p.flash.gradeOk (p.flash.grade i) (if i = 0 then sig.1 else sig.2) serials
  let use := fun (i : Nat) =>
    let g := p.flash.grade i
    let p := (p.wr .PKG_SERIAL 0 (BitVec.ofNat 64 (gradeSerial g))).put Fld.PART_INFO.GRADE 0 (gradeOf g)
    ({ p with flash := { p.flash with gradeCopy := i } }, Status.ok)
  if ok 0 then use 0 else if ok 1 then use 1 else (p, .sigFail)

/-- C4. In safe mode only slot R is taken (R531). -/
def Part.stepC4 (p : Part) (x : StartFacts) : Part × Status :=
  let r := if p.get Fld.START_STATUS.SAFE_MODE 0 = 1 then
      (match p.slotStatus x 2 with
        | .ok => (p.runImage 2, Status.ok)
        | st => (p, st))
    else p.startMain x
  match r with
  | (p, .ok) => p.checkGrade x.gradeSig (p.serials x)
  | y => y

/-! ### C5 to C7: wires, tables, HBM, links (R38 to R45, R210, R262) -/

/-- Whether a bundle's sideband works, so that it is surveyed (R30). -/
def surveyed (x : StartFacts) (site i : Nat) : Bool :=
  if i < 2048 then x.ports.all (fun k => k.val != 8 * site + i % 1024 / 128)
  else bit x.sidebands.toNat ((if i < 2112 then site else site + 3) % 4)

/-- Give the entries `lo` to `lo + n - 1` of a die code 7. -/
def Part.retireEntries (p : Part) (d lo n : Nat) : Part :=
  (List.range n).foldl (fun (p : Part) i => p.setRepairEntry d (lo + i) retiredEntry) p

/-- Bundles that are not surveyed carry nothing (R30): their entries take code 7 (log entry 72). -/
def Part.blindBundles (p : Part) (x : StartFacts) : Part :=
  let p := x.ports.foldl (fun (p : Part) k =>
    let d := (p.dieAt (k.val / 8)).getD 0
    (p.retireEntries d (128 * (k.val % 8)) 128).retireEntries d (1024 + 128 * (k.val % 8)) 128) p
  (List.range 4).foldl (fun (p : Part) d =>
    if bit x.sidebands.toNat (p.get Fld.DIE_IDENT.SITE d) then p
    else (p.retireEntries d 2048 64).retireEntries (p.acrossEdge d false) 2112 64) p

/-- Keep the repair entry that the survey makes of a bundle (R40). -/
def Part.surveyWire (p : Part) (x : StartFacts) (w : WireSurvey) : Part :=
  if surveyed x w.site w.index then
    p.setRepairEntry ((p.dieAt w.site).getD 0) w.index (surveyEntry (WireSurvey.clockOk w) (WireSurvey.failed w))
  else p

/-- Load the function tables of the running image (R210, R216). -/
def Part.loadTables (p : Part) : Part :=
  let s := p.get Fld.FW_STATUS.RUNNING_SLOT 0
  let h := p.flash.header s
  let dig := fieldAt (Config.sha384 (p.flash.read (slotBase s + 0x1000 + fieldAt h 0x18 4) (fieldAt h 0x1C 4))) 0 4
  (List.range 4).foldl (fun (p : Part) d =>
    (p.put Fld.FUNC_TABLE_ID.TABLE_VERSION d (imgTable h)).put Fld.FUNC_TABLE_ID.TABLE_DIGEST d dig) p

/-- C5. A cluster whose port is too narrow is retired anew at every cold start (log entry 72). -/
def Part.stepC5 (p : Part) (x : StartFacts) : Part × Status :=
  let p := x.wires.foldl (fun (p : Part) w => p.surveyWire x w) (p.blindBundles x)
  let p := (List.range 32).foldl (fun (p : Part) k => p.countPort (k / 8) (k % 8)) p
  let p := (List.range 4).foldl (fun (p : Part) d => (p.countEdge d false).countEdge d true) p
  if 2 ≤ p.deadEdges then (p, .retiredUnit)
  else match ((List.range 4).foldl (fun (p : Part) d => p.logMap d x.flashOk) p).spreadImage x with
    | (p, .ok) => (p.loadTables, .ok)
    | y => y

/-- A status the spec does not give: some code other than OK. -/
def freeStatus (n : Nat) : Status := Status.ofCode (1 + Config.freeNat n % 22)

/-- C6: HBM trains at 10 Gb/s, else at 8 Gb/s (R262). A second failure ends it with a status the spec does not give; the first
stack and channel that fail are recorded. -/
def Part.stepC6 (p : Part) (x : StartFacts) : Part × Status :=
  match x.hbmFast, x.hbmSlow with
  | _ :: _, y :: _ => ({ p with draw := p.draw + 1, hbmFault := some (y.1.val, y.2.val) }, freeStatus p.draw)
  | l, _ =>
    ((List.range 4).foldl (fun (p : Part) d => p.put Fld.MEM_STATUS.HBM_RATE d (if l = [] then 100 else 80)) p, .ok)

/-- Every domain is on and powered. -/
def Part.allDomains (p : Part) : Part := p.put Fld.PD_STATUS.ON 0 (2 ^ 40 - 1)

/-- C7, as far as the links: it ends once both have trained (`linksReady`). -/
def Part.stepC7 (p : Part) (_ : StartFacts) : Part × Status := (p.allDomains, .ok)

/-- The state from which a cold start begins: retained state is discarded; the flash, the hosts' memory and the pins stay. -/
def Part.coldBase (p : Part) (x : StartFacts) : Part :=
  { Part.reset with
    host := p.host
    flash := { p.flash with retained := [], cdiLocked := false, heldRetire := [], update := none }
    pins := { p.pins with resetN := true, thermtripN := true, smbAlertN := true, throttleTold := false }
    regs := (Part.reset.put Fld.PARTNER_STATUS.FEED_ID 0 x.straps.toNat).regs
    mgmt := { MgmtSt.reset with nonce := (BitVec.ofNat 64 (Config.freeNat p.draw), BitVec.ofNat 64 (Config.freeNat (p.draw + 1))) }
    draw := p.draw + 2
    run := .starting 1 }

/-- A cold start up to where it waits for the links, or to where it stops. -/
def Part.coldStart (p : Part) (x : StartFacts) : Part :=
  let p := (p.coldBase x).countStart.startSteps x [(2, Part.stepC2), (3, Part.stepC3), (4, Part.stepC4)]
  if p.run ≠ .starting 4 ∨ x.overrun.any (fun m => m.val == 4) ∨ p.get Fld.START_STATUS.SAFE_MODE 0 = 1 then p
  else p.startSteps x [(5, Part.stepC5), (6, Part.stepC6), (7, Part.stepC7)]

/-! ### C8, C9 and W5 -/

/-- What C9 and W5 do: the boot record, the map, the farrier's clock, READY (R56, R470, R530, R540). One SURVEY event tells of a
changed numbering and of a torn log (log entry 72). -/
def Part.becomeReady (p : Part) (step : Nat) (cold : Bool) : Part :=
  let b := p.flash.boot.1
  let b' := if b.trying = 1 then { b with active := b.pending, pending := 0xFF, trying := 0 } else b
  let b' := if cold then { b' with fails := 0 } else b'
  let p := if b' = b then p else { p with flash := p.flash.setBoot b' }
  let p := p.buildMap (p.flash.grade p.flash.gradeCopy)
  let p := p.put Fld.START_STATUS.LOG_TORN 0 (bnat p.flash.log.2.1)
  let p := (List.range 4).foldl (fun (p : Part) d => p.modDie d (fun x => { x with testBase := p.time.raw })) p
  let p := (p.dies.flatMap (fun x => x.2.suspects.map (fun y => 64 * x.1 + y.1))).foldl (fun (p : Part) c => p.refreshHeld c) p
  let p : Part := { (p.put Fld.START_STATUS.STEP 0 step).put Fld.START_STATUS.READY 0 1 with run := .ready }
  if p.get Fld.START_STATUS.SURVEY_CHANGED 0 = 1 ∨ p.get Fld.START_STATUS.LOG_TORN 0 = 1 then
    p.event .survey .ok (unitWord 0xFF 0 0xFF) 0
  else p

/-- C8: the farrier baseline, then C9. `tests`: parts that failed by core, none while C8 has not ended. -/
def Part.baseline (p : Part) (patternOk : Bool) (tests : Option (List (Fin 256 × BitVec 5))) : Part :=
  let p := p.beginStep 8
  match tests with
  | none => p
  | some l =>
    if !patternOk then p.stopStart 8 .sigFail
    else
      let p := l.foldl (fun (p : Part) y => p.retireFailed y.1 y.2) p
      let p := if l.any (fun y => y.2 != 0) then p.put Fld.START_STATUS.START_RETIRED 0 1 else p
      p.becomeReady 9 true

/-- Whether a port may train now. -/
def Part.mayTrain (p : Part) (port : Nat) : Bool :=
  (if port = 0 then p.pins.perstN.1 && p.pins.refPcie.1 else p.pins.perstN.2 && p.pins.refPcie.2) && !p.linkUp port &&
    (p.run == .ready || p.run == .starting 7 || p.run == .starting 14 || (p.safeMode && port == 0))

/-- A port's link finishes training; with both up, C7 or W4 ends (R525, R528). -/
def execHostLinkUp (port : Fin 2) (speed : Fin 7) (width : Fin 17) (patternOk : Bool)
    (tests : Option (List (Fin 256 × BitVec 5))) (s : State) : Host.Outcome State Fault Refusal :=
  whenWf (Instr.wf (.hostLinkUp port speed width patternOk tests)) <|
  s.run (fun p =>
    if !p.mayTrain port then p
    else
      let p := ((p.put Fld.HOST_PORT_STATUS.LINK_UP port 1).put Fld.HOST_PORT_STATUS.SPEED port speed).put
        Fld.HOST_PORT_STATUS.WIDTH port width
      if !(p.linkUp 0 && p.linkUp 1) then p
      else if p.run = .starting 7 then p.baseline patternOk tests
      else if p.run = .starting 14 then p.becomeReady 15 false
      else p)

/-! ### Warm start (R46 to R48, R528, R529, R541) -/

/-- Registers that a warm start keeps. That EDGE_STATUS is kept whole is the model's (log entry 72). -/
def keptReg : Reg → Bool
  | .PKG_SERIAL | .PART_INFO | .COUNTER | .DIE_IDENT | .BASE_SERIAL | .COMPUTE_SERIAL | .STACK_SERIAL | .EDGE_STATUS
  | .REPAIR_MAP | .FW_STATUS => true
  | _ => false

/-- Suspects of a die under the numbers that an exchange gives back. -/
def Part.homeSuspects (p : Part) (d : Nat) : List (Nat × Nat) :=
  (p.die d).suspects.map (fun x => (p.phys (64 * d + x.1) % 64, x.2))

/-- W1: dirty lines are written back before it, a locked one stays (R262, R271); everything that R529 does not keep returns to its
reset value. -/
def Part.warmBase (p : Part) : Part :=
  let p := (List.range 4).foldl (fun (p : Part) d => p.flushCache d) p
  let kept := p.regs.filter (fun x => match Reg.decode x.1 with | some (r, _) => keptReg r | none => false)
  let q := { Part.reset with
    regs := kept
    mem := p.mem.filter (fun x => x.1 < 0xC0_0000_0000)
    upsets := p.upsets.filter (fun x => keyArray x.1 == 5 || (keyArray x.1 == 0 && keyPa x.1 < 0xC0_0000_0000))
    lines := p.lines
    host := p.host
    time := { TimeSt.reset with raw := p.time.raw, skew := p.time.skew }
    flash := p.flash
    pins := p.pins
    mgmt := { MgmtSt.reset with nonce := (BitVec.ofNat 64 (Config.freeNat p.draw), BitVec.ofNat 64 (Config.freeNat (p.draw + 1))) }
    draw := p.draw + 2 }
  let q := q.put Fld.PARTNER_STATUS.FEED_ID 0 (p.get Fld.PARTNER_STATUS.FEED_ID 0)
  (List.range 4).foldl (fun (q : Part) d =>
    let q := (q.put Fld.MEM_STATUS.HBM_RATE d (p.get Fld.MEM_STATUS.HBM_RATE d)).put Fld.DIE_IDENT.START_KIND d 1
    (q.modDie d (fun x => { x with suspects := p.homeSuspects d })).put Fld.FARRIER_STATUS.SUSPECTS d
      (p.get Fld.FARRIER_STATUS.SUSPECTS d)) q

/-- A warm start is abandoned to a cold start, which is not a failed start. -/
def Part.abandonWarm (p : Part) (x : StartFacts) (step : Nat) (st : Status) : Part :=
  let p := p.coldStart x
  let p := (List.range 4).foldl (fun (p : Part) d => p.put Fld.DIE_IDENT.START_KIND d 2) p
  let p := p.put Fld.START_STATUS.ABANDONED_WARM 0 1
  if p.run = .failed then p
  else (p.put Fld.START_STATUS.STOP_STEP 0 step).put Fld.START_STATUS.STOP_STATUS 0 st.code

/-- The digest that the warden of die `d` sends at W2: CRC-64 over its die number, MIRRORED and its retained map (R46; the
widths of the first two are the model's, log entry 71). -/
def Part.mapDigest (p : Part) (d : Nat) : Word :=
  crc64 (leBytes 1 d ++ leBytes 1 (p.get Fld.DIE_IDENT.MIRRORED d) ++
    (List.range 1088).flatMap (fun i => leBytes 8 (p.rd .REPAIR_MAP (1088 * d + i)).toNat))

/-- A sample of a burst that is not what the retained entry makes of PRBS-15 (R48; seeded as idle frames are, log entry
70). -/
def Part.burstBad (p : Part) (b : BurstSample) : Bool :=
  let e := p.repairEntry b.die b.index
  (logicalOf e b.wire).isSome && b.value != driveWire e (fun i => prbsBit (i + 1) b.ui) b.wire

/-- W2: digests and maps are confirmed; bundles that fail their burst are retired. The spec names no status for a warm start
that is abandoned here: CHECK_MISMATCH is the model's (log entry 72). -/
def Part.stepW2 (p : Part) (x : StartFacts) : Part × Status :=
  if x.digests.any (fun y => y.2 != p.mapDigest y.1) || (List.range 4).any (fun d => !p.mapLogged d) then (p, .checkMismatch)
  else ((x.bursts.filter p.burstBad).foldl (fun (p : Part) b => p.retireBundle b.die b.index x.flashOk) p, .ok)

/-- Whether every warden's retained image may restart (R541). -/
def Part.keepsImage (p : Part) (x : StartFacts) : Bool :=
  (List.range 4).all (fun d => (Tab.find? p.flash.retained d).any (fun r => r.1 == p.flash.imageWrites)) &&
    !Nat.blt p.flash.boot.1.pending 2 && x.retainedOk

/-- W3: the retained image restarts, or the full choice is made; then the grade record. -/
def Part.stepW3 (p : Part) (x : StartFacts) : Part × Status :=
  let chosen := if p.keepsImage x then (p, Status.ok) else
    (match p.startMain x with
      | (p, .ok) => p.spreadImage x
      | y => y)
  match chosen with
  | (p, .ok) =>
    let serials := (List.range 8).map (fun i =>
      let d := (p.dieAt (i % 4)).getD 0
      if i < 4 then p.rd .COMPUTE_SERIAL d else p.rd .BASE_SERIAL d)
    match p.checkGrade x.gradeSig serials with
    | (p, .ok) => (p.loadTables, .ok)
    | y => y
  | y => y

/-- W4, as far as the links. -/
def Part.stepW4 (p : Part) (_ : StartFacts) : Part × Status := (p.allDomains, .ok)

/-- A warm start up to where it waits for the links. -/
def Part.warmStart (p : Part) (x : StartFacts) : Part :=
  let q := p.warmBase.startSteps x [(11, fun p _ => (p, .ok)), (12, Part.stepW2), (13, Part.stepW3), (14, Part.stepW4)]
  if q.run = .failed then
    p.abandonWarm x (q.get Fld.START_STATUS.STOP_STEP 0) (Status.ofCode (q.get Fld.START_STATUS.STOP_STATUS 0))
  else q

/-! ### Reset and timeouts (R523 to R525, R543) -/

/-- RESET_N is asserted. An update under way leaves the slot without a valid header and nothing pending (R543). -/
def execResetNAssert (s : State) : Host.Outcome State Fault Refusal :=
  s.run (fun p =>
    let f := match p.flash.update with
      | none => p.flash
      | some u =>
        let b := p.flash.boot.1
        let f := if b.pending = u.2 then p.flash.setBoot b.dropPending else p.flash
        { f.erase (slotBase u.2) 0x1000 with update := none }
    { Part.reset with host := p.host, flash := f, pins := { p.pins with resetN := false }, draw := p.draw })

/-- RESET_N is released, with every clock stable (R523): a cold start (R524). THERMTRIP_N stays asserted, and the clocks stopped, unless every sensor is below
100 °C (R564). -/
def execResetNRelease (x : StartFacts) (s : State) : Host.Outcome State Fault Refusal :=
  whenWf (Instr.wf (.resetNRelease x)) <|
  s.run (fun p =>
    if p.pins.resetN then p
    else if !p.pins.thermtripN && !x.cool then { p with run := .dead, pins := { p.pins with resetN := true } }
    else ({ p with pins := { p.pins with refPkg := true, refSd := true, refPcie := (true, true) } } : Part).coldStart x)

/-- A start step passes its limit: TIMEOUT, or a warm start is abandoned (R525, R528). -/
def execStartStepTimeout (x : StartFacts) (s : State) : Host.Outcome State Fault Refusal :=
  whenWf (Instr.wf (.startStepTimeout x)) <|
  s.run (fun p =>
    match p.run with
    | .starting n =>
      if p.safeMode ∨ n < 2 then p else if 11 ≤ n then p.abandonWarm x n .timeout else p.stopStart n .timeout
    | _ => p)

/-- PERST_N of a port is deasserted, its reference clock running (R523): its link may train. -/
def execPerstDeassert (port : Fin 2) (s : State) : Host.Outcome State Fault Refusal :=
  s.run (fun p =>
    if p.pins.resetN then
      { p with pins := { p.pins with
        perstN := if port = 0 then (true, p.pins.perstN.2) else (p.pins.perstN.1, true)
        refPcie := if port = 0 then (true, p.pins.refPcie.2) else (p.pins.refPcie.1, true) } }
    else p)

end Sys2Proof.Machine
end

