-- ==== Sys2Proof/Machine/Firmware.lean ====
section
/-! DEFINITION. Firmware and signed objects in service: slot updates (R542, R543), the flash counters (R544), key certificates
(R537), REINSTATE and DEBUG objects (R54, R549, R550). -/

namespace Sys2Proof.Machine

/-! ### Slot updates (R542, R543) -/

def Part.updating (p : Part) : Bool := p.get Fld.FW_STATUS.UPDATE_STATE 0 == 1

/-- The refusals of GO, for the word written to FW_UPDATE (R543). -/
def Part.fwUpdateCheck (p : Part) (w : Word) : Status :=
  if p.updating then .busy
  else if Fld.FW_UPDATE.TARGET.of w = p.get Fld.FW_STATUS.RUNNING_SLOT 0 then .conflict
  else if p.safeMode then (match whereIs (4096 * Fld.FW_UPDATE.SRC.of w) with | .host 0 _ => .ok | _ => .range)
  else .ok

/-- GO starts an update. -/
def Part.fwUpdateGo (p : Part) : Part :=
  let u := (4096 * p.get Fld.FW_UPDATE.SRC 0, p.get Fld.FW_UPDATE.TARGET 0)
  let p := ((p.put Fld.FW_STATUS.UPDATE_STATE 0 1).put Fld.FW_STATUS.UPDATE_STATUS 0 0).put Fld.FW_STATUS.UPDATE_KIB 0 0
  { p with flash := { p.flash with update := some u } }

/-- An update ends. -/
def Part.updateEnds (p : Part) (st : Status) : Part :=
  let p := (p.put Fld.FW_STATUS.UPDATE_STATE 0 (if st = .ok then 2 else 3)).put Fld.FW_STATUS.UPDATE_STATUS 0 st.code
  { p with flash := { p.flash with update := none } }

/-- Write an image into a slot: PENDING_SLOT cleared if it names the slot, body first, header last (R542). -/
def FlashSt.writeSlot (f : FlashSt) (slot : Nat) (image : List Byte) : FlashSt :=
  let b := f.boot.1
  let f := if b.pending = slot then f.setBoot { b with pending := 0xFF } else f
  let a := slotBase slot
  let f := ((f.erase a 0x80_0000).write (a + 0x1000) (image.drop 0x1000)).write a (image.take 0x1000)
  { f with imageWrites := f.imageWrites + 1 }

/-- The warden's five steps end: the image as verified, and the slot as read back. -/
def Part.updateImage (p : Part) (image : List Byte) (slot : Nat) (x back : ImageFacts) : Part :=
  let kind := if slot = 2 then 2 else 1
  match p.flash.verify (bytesAt image 0 0x80) kind x with
  | .ok =>
    let n := 0x1000 + imgLength image
    let p : Part := { p.put Fld.FW_STATUS.UPDATE_KIB 0 (n / 1024) with flash := p.flash.writeSlot slot (bytesAt image 0 n) }
    match p.flash.verify (p.flash.header slot) kind back with
    | .ok => (if slot = 2 then p else { p with flash := p.flash.setBoot { p.flash.boot.1 with pending := slot } }).updateEnds .ok
    | st => p.updateEnds st
  | st => p.updateEnds st

/-- An update from an image in memory, read through the link of its host port (R274) or from HBM under the check code (R270). -/
def Part.updateSlot (p : Part) (src slot : Nat) (x back : ImageFacts) : Part :=
  let n := 0x1000 + imgLength (p.bytes src 0x80)
  match whereIs src with
  | .host port _ => if p.linkUp port then p.updateImage (p.bytes src n) slot x back else p.updateEnds .timeout
  | .hbm _ =>
    match p.checkRange src n with
    | (p, none) => p.updateImage (p.bytes src n) slot x back
    | (p, some _) => p.updateEnds .uncorrectable
  | _ => p.updateImage (p.bytes src n) slot x back

/-- The part runs an image: in service, or the recovery image (R531). -/
def Part.alive (p : Part) : Bool := p.ready || p.safeMode

/-- FW_UPDATE_COMPLETE (R542). -/
def execFwUpdateComplete (x back : ImageFacts) (s : State) : Host.Outcome State Fault Refusal :=
  s.run (fun p =>
    match p.flash.update with
    | some u => if p.alive then p.updateSlot u.1 u.2 x back else p
    | none => p)

/-! ### The counters (R544) -/

/-- Header of the running image. -/
def Part.runningHeader (p : Part) : List Byte := p.flash.header (p.get Fld.FW_STATUS.RUNNING_SLOT 0)

def Part.rollbackCheck (p : Part) : Status := if p.get Fld.FW_STATUS.RUNNING_SLOT 0 = 2 then .conflict else .ok

/-- ROLLBACK_COMMIT: the floor rises to the running image's ROLLBACK. -/
def Part.rollbackCommit (p : Part) : Part :=
  { p with flash := { p.flash with rollbackFloor := max p.flash.rollbackFloor (imgRollback p.runningHeader) } }

/-- Roots that what is in use rests on. -/
def Part.rootsInUse (p : Part) : List Nat :=
  let b := p.flash.boot.1
  let grade := p.flash.read (0x5_0000 + 0x1000 * p.flash.gradeCopy) 0xA0
  let certs := ((List.range 16).map p.flash.cert).filter (fun c => certPresent c && certUsage c / 2 % 4 != 0)
  [imgRoot p.runningHeader, imgRoot (p.flash.header 2), certRoot (p.flash.cert (fieldAt grade 0x90 4))] ++
    (if b.pending < 2 then [imgRoot (p.flash.header b.pending)] else []) ++ certs.map certRoot

def Part.rootCheck (p : Part) (root : Nat) : Status :=
  if root ≤ p.flash.rootFloor ∨ 3 < root then .range else if p.rootsInUse.any (· < root) then .conflict else .ok

/-- ROOT_RETIRE. -/
def Part.rootRetire (p : Part) (root : Nat) : Part := { p with flash := { p.flash with rootFloor := root } }

/-! ### Signed objects (R549, R550) -/

/-- The bytes of SIGNED_WINDOW. -/
def Part.signedWindow (p : Part) (n : Nat) : List Byte :=
  (List.range ((n + 7) / 8)).flatMap (fun i => leBytes 8 (p.rd .SIGNED_WINDOW i).toNat)

/-- Whether the certificate an object names carries it (R537): usage bit 1 REINSTATE, 2 DEBUG. -/
def Part.objectSigned (p : Part) (l : List Byte) (usage : Nat) (x : CertFacts) : Bool :=
  p.flash.itemVerifies (fieldAt l 6 2) usage (p.rd .PKG_SERIAL 0).toNat x

/-- MAGIC, package serial and TYPE of an object. -/
def Part.objectFor (p : Part) (l : List Byte) (type : Nat) : Bool :=
  l.take 4 == [0x47, 0x4C, 0x44, 0x53] && fieldAt l 4 2 == type && fieldAt l 8 8 == (p.rd .PKG_SERIAL 0).toNat

/-- A fresh nonce (R550). -/
def Part.freshNonce (p : Part) : Part :=
  { p with
    mgmt := { p.mgmt with nonce := (BitVec.ofNat 64 (Config.freeNat p.draw), BitVec.ofNat 64 (Config.freeNat (p.draw + 1))) }
    draw := p.draw + 2 }

/-- An attempt to unlock debug: status, the open networks, and the attempts that failed. -/
def Part.debugUnlock (p : Part) (l : List Byte) (x : CertFacts) : Part × Status :=
  let nonce := p.mgmt.nonce.1.toNat + p.mgmt.nonce.2.toNat * 2 ^ 64
  let good := p.objectFor l 2 && fieldAt l 0x10 16 == nonce && p.objectSigned l 2 x && Nat.blt p.mgmt.unlockFails 3
  let p := p.freshNonce
  if good then
    let scope := fieldAt l 0x20 4 % 8
    ({ (p.put Fld.START_STATUS.DEBUG_OPEN 0 1).put Fld.START_STATUS.DEBUG_SCOPE 0 scope with
        mgmt := { p.mgmt with debugNets := scope } }, .ok)
  else ({ p with mgmt := { p.mgmt with unlockFails := p.mgmt.unlockFails + 1 } }, .sigFail)

/-- A REINSTATE object: its entry is appended (R54, R549). -/
def Part.reinstate (p : Part) (l : List Byte) (x : CertFacts) : Part × Status :=
  if !(p.objectFor l 1 && fieldAt l 0x10 16 == 0 && p.objectSigned l 1 x) then (p, .sigFail)
  else if Nat.ble 4096 p.flash.log.2.2 then (p, .range)
  else
    let es := p.flash.log.1
    match es.find? (fun e => e.seq == fieldAt l 0x20 4 && e.crc == fieldAt l 0x24 8 && e.action == 1) with
    | none => (p, .conflict)
    | some e =>
      if es.any (fun y => Nat.blt e.seq y.seq && y.ty == e.ty && y.unit == e.unit) then (p, .conflict)
      else ({ p with flash := (p.flash.append 2 e.ty e.cause e.unit p.time.raw).1 }, .ok)

/-- SUBMIT acts on SIGNED_WINDOW; SIGNED_STATUS holds the result. -/
def Part.submit (p : Part) (x : CertFacts) : Part :=
  let l := p.signedWindow 0x40
  let r := if fieldAt l 4 2 = 1 then p.reinstate l x else p.debugUnlock l x
  r.1.put Fld.SIGNED_CTRL.SIGNED_STATUS 0 r.2.code

end Sys2Proof.Machine
end

