-- ==== Sys2Proof/Machine/Order.lean ====
section
/-! DEFINITION. What a write of BAR0 must pass: the bits it covers (R15), the values its fields take (R16), the checks of each
field (R495, R500, and the chapters), and the idleness of units (R17, R507). -/

namespace Sys2Proof.Machine

/-- A write of a register element by a port: the bits it covers and their value. -/
structure BarWr where
  port : Nat
  r : Reg
  i : Nat
  mask : Nat
  val : Nat
  deriving DecidableEq, Repr

def lowHalf : Nat := 2 ^ 32 - 1

/-- Bits a write covers, and their value (R15). -/
def barMask : BarData → Nat
  | .full _ => 2 ^ 64 - 1
  | .low _ => lowHalf
  | .high _ => lowHalf * 2 ^ 32

def barVal : BarData → Nat
  | .full v => v.toNat
  | .low v => v.toNat
  | .high v => v.toNat * 2 ^ 32

/-- Whether a write covers every bit of [hi:lo]. -/
def BarWr.covers (w : BarWr) (hi lo : Nat) : Bool :=
  let m := (2 ^ (hi - lo + 1) - 1) * 2 ^ lo
  (m &&& w.mask) == m

def BarWr.has (w : BarWr) (f : Fld) : Bool := w.covers f.hi f.lo

/-- The value a write gives a field it covers, 0 for another. -/
def BarWr.of (w : BarWr) (f : Fld) : Nat := if w.has f then f.of (BitVec.ofNat 64 w.val) else 0

/-- The present word with the covered fields replaced as written: what a write asks for. -/
def Part.asked (p : Part) (w : BarWr) : Word :=
  w.r.info.fields.foldl (fun x f =>
    if w.covers f.hi f.lo then
      let g : Fld := ⟨w.r, f.hi, f.lo⟩
      g.into x (g.of (BitVec.ofNat 64 w.val))
    else x) (p.rd w.r w.i)

/-! ### Values that a field stores (R16) -/

def clampNat (lo hi v : Nat) : Nat := max lo (min hi v)

/-- The value stored for a value written to the RW field at bit `lo`: some fields store a nearer limit. -/
def normalise (r : Reg) (lo v old : Nat) : Nat :=
  match r with
  | .ME_CTRL => if lo = 16 then clampNat 32 4096 v else v
  | .RAMP_CTRL => if lo = 0 then min 50 v else v
  | .MEM_ERR_CTRL => if lo = 32 then max 1 v else v
  | .MOVER_CTRL => min 2048 v
  | .UPD_RING => if lo = 1 then clampNat 4 12 v else v
  | .STREAM_RING => if lo = 1 then clampNat 4 15 v else v
  | .EVQ_BASE => if lo = 0 then min 8 v else v
  | .E2E_CTRL => max (if lo = 48 then 20 else if lo = 16 then 20 else if lo = 8 then 10 else 1) v
  | .ARB_STARVE => if lo = 0 then max 16 v else v
  | .TIME_CTRL => if lo = 32 then max 1 v else v
  | .TANDEM_CTRL => if lo = 32 then max 1 v else if lo = 16 then clampNat 1 4096 v else v
  | .RECOVERY_CTRL => if lo = 16 then max 1 v else v
  | .PARTNER_CTRL => if lo = 32 then max 1 v else v
  | .FARRIER_CTRL => if lo = 0 then v else max 1 v
  | .POWER_CTRL => if lo = 32 then clampNat 600 1500 v else clampNat 4 16 v
  | .THERM_CTRL => if lo = 8 then clampNat 70 95 v else clampNat 70 105 v
  | .TRACE_CTRL => if lo = 16 then v ||| 0x18 else v
  | .DCACHE_CTRL => if v = 3 then old else v
  | _ => v

/-- The word a register holds after a write that is applied, before the effects of its fields. -/
def Part.stored (p : Part) (w : BarWr) : Word :=
  w.r.info.fields.foldl (fun x f =>
    let g : Fld := ⟨w.r, f.hi, f.lo⟩
    let v := g.of (BitVec.ofNat 64 w.val)
    if !w.covers f.hi f.lo then x
    else match f.access with
      | .rw => g.into x (normalise w.r f.lo v (g.of x))
      | .w1c => g.into x (g.of x &&& (v ^^^ (2 ^ g.width - 1)))
      | _ => x) (p.rd w.r w.i)

/-! ### Checks of fields (R500) -/

/-- Fields that are refused on their own rules, as bit position and status. -/
abbrev Refusals := List (Nat × Status)

/-- A refusal at a bit, when it applies. -/
def refuseIf (c : Bool) (pos : Nat) (st : Status) : Refusals := if c then [(pos, st)] else []

/-- A refusal at a bit, unless the status is OK. -/
def refuseAs (pos : Nat) (st : Status) : Refusals := if st = .ok then [] else [(pos, st)]

/-- LEASE_ACTION by port `q` (R504). -/
def Part.leaseCheck (p : Part) (q a : Nat) : Status :=
  let mine := p.holdsLease q
  let other := p.get Fld.LEASE_STATUS.HOLDER 0 != 3 && !mine && !p.leaseExpired
  if a = 1 then (if other then .conflict else .ok) else if a = 0 ∨ mine then .ok else .notOwner

/-- Die, bank and first node of a ROUTE word (R368). -/
def routeDie (i : Nat) : Nat := i / 65536
def routeBank (i : Nat) : Nat := i / 32768 % 2

/-- FIRST and SECOND must be set in PRODUCTIVE of a valid entry (R368). -/
def routeEntryOk (e : Nat) : Bool :=
  !bit e 31 || (bit (bits e 29 24) (bits e 22 20) && bit (bits e 29 24) (bits e 18 16))

/-- The checks of a write to ROUTE (R368, R387), highest field first in each entry. -/
def Part.routeRefusals (p : Part) (w : BarWr) : Refusals :=
  let hi := w.covers 63 32
  let lo := w.covers 31 0
  let v := (p.asked w).toNat
  (if p.bankState (routeDie w.i) (routeBank w.i) = 2 then
    refuseIf hi 63 .epochPending ++ refuseIf lo 31 .epochPending
  else refuseIf (hi && !routeEntryOk (v / 2 ^ 32)) 54 .range ++ refuseIf (lo && !routeEntryOk (v % 2 ^ 32)) 22 .range)

/-- Whether another enabled record of the die has the CIRCUIT_ID and ROLE of an enabled word (R404). -/
def Part.circuitClash (p : Part) (i : Nat) (v : Word) : Bool :=
  let same := fun (j : Nat) =>
    j != i && p.get Fld.CIRCUIT.ENABLE j == 1 && p.get Fld.CIRCUIT.ROLE j == Fld.CIRCUIT.ROLE.of v &&
      p.get Fld.CIRCUIT.CIRCUIT_ID j == Fld.CIRCUIT.CIRCUIT_ID.of v
  let lo := Reg.off .CIRCUIT (i / 1024 * 1024)
  Fld.CIRCUIT.ENABLE.of v == 1 && ((p.regs.filter (fun x => lo ≤ x.1 && x.1 < lo + 0x2000)).any (fun x => same (i / 1024 * 1024 + (x.1 - lo) / 8)))

/-- The checks of GAIT_CTRL (R355). -/
def Part.gaitRefusals (p : Part) (w : BarWr) : Refusals :=
  let v := p.asked w
  refuseIf (w.has Fld.GAIT_CTRL.PAIR_TASKS && Fld.GAIT_CTRL.PAIR_TASKS.of v == 0) 39 .range ++
    refuseIf (w.has Fld.GAIT_CTRL.WARMUP && (Fld.GAIT_CTRL.WARMUP.of v == 0 || Nat.blt (Fld.GAIT_CTRL.MB_COUNT.of v) (Fld.GAIT_CTRL.WARMUP.of v))) 31 .range ++
    refuseIf (w.has Fld.GAIT_CTRL.MB_COUNT && Fld.GAIT_CTRL.MB_COUNT.of v == 0) 15 .range

/-- The checks of TIME_CTRL (R430, R447). -/
def Part.timeRefusals (p : Part) (w : BarWr) : Refusals :=
  refuseIf (Nat.blt 23 (w.of Fld.TIME_CTRL.PARENT_PORT)) 12 .range ++
    (if w.of Fld.TIME_CTRL.GO = 1 then refuseAs 2 p.surveyCheck else []) ++
    refuseIf (w.of Fld.TIME_CTRL.ROLE == 3) 1 .range

/-- The checks of START_CTRL (R543, R544, R553). -/
def Part.startRefusals (p : Part) (w : BarWr) : Refusals :=
  let a := w.of Fld.START_CTRL.ACTION
  refuseAs 2 (if a = 1 then (if p.safeMode then .conflict else if p.updating then .busy else .ok)
    else if a = 2 then (if p.safeMode then .ok else .conflict)
    else if a = 3 then p.rollbackCheck
    else if a = 4 then p.rootCheck (w.of Fld.START_CTRL.ROOT)
    else .ok)

/-- The masks of a LIVE bank do not change (R387, R400). -/
def Part.maskRefusals (p : Part) (w : BarWr) : Refusals :=
  let no := fun (f : Fld) (b : Nat) => w.has f && w.of f != p.get f w.i && p.bankState w.i b == 2
  refuseIf (no Fld.RT_CTRL.BANK1_PORTS 1) 13 .epochPending ++ refuseIf (no Fld.RT_CTRL.BANK0_PORTS 0) 5 .epochPending

/-- A pool that holds frames lies wholly within the HBM of its die (R297). -/
def Part.poolRefusals (p : Part) (w : BarWr) : Refusals :=
  let v := p.asked w
  let base := Fld.PAGER_POOL.BASE.of v * 2 ^ 21
  let size := Fld.PAGER_POOL.SIZE_2M.of v * 2 ^ 21
  refuseIf (w.has Fld.PAGER_POOL.SIZE_2M && size != 0 &&
    (Nat.blt base (w.i * 0x30_0000_0000) || Nat.blt ((w.i + 1) * 0x30_0000_0000) (base + size)))
    (if w.has Fld.PAGER_POOL.BASE then 47 else 20) .range

/-- Fields of a write that are refused by their own rules, reserved bits apart. -/
def Part.fieldRefusals (p : Part) (w : BarWr) : Refusals :=
  match w.r with
  | .LEASE_ACTION => refuseAs 1 (p.leaseCheck w.port (w.of Fld.LEASE_ACTION.ACTION))
  | .LEASE_CTRL =>
    refuseIf (w.has Fld.LEASE_CTRL.PERIOD_MS && (Nat.blt (w.of Fld.LEASE_CTRL.PERIOD_MS) 5 || Nat.blt 60000 (w.of Fld.LEASE_CTRL.PERIOD_MS))) 15 .range
  | .RAMP_CTRL =>
    refuseIf (w.has Fld.RAMP_CTRL.I_STEP_MA && (w.of Fld.RAMP_CTRL.I_STEP_MA == 0 || Nat.blt 1000 (w.of Fld.RAMP_CTRL.I_STEP_MA))) 31 .range ++
      refuseIf (w.has Fld.RAMP_CTRL.THRESHOLD_A && w.of Fld.RAMP_CTRL.THRESHOLD_A == 0) 5 .range
  | .JOB_OFFSET => refuseIf (w.has Fld.JOB_OFFSET.OFFSET && p.get Fld.TIME_CTRL.ROLE 0 != 1) 63 .conflict
  | .TIME_CTRL => p.timeRefusals w
  | .TANDEM_CTRL =>
    refuseIf (w.of Fld.TANDEM_CTRL.ENABLE == 1 && Fld.TANDEM_CTRL.PEER_NODE.of (p.asked w) == 0xFFFF) 0 .range
  | .GAIT_CTRL => p.gaitRefusals w
  | .PAIR_CTRL => if w.has Fld.PAIR_CTRL.CLUSTER_B then refuseAs 5 (p.pairCheck (w.i / 4) (w.i % 4) (p.asked w)) else []
  | .EPOCH_FLIP_AT => if w.has Fld.EPOCH_FLIP_AT.FLIP_AT then refuseAs 63 (p.flipCheck w.val) else []
  | .RT_CTRL => p.maskRefusals w
  | .ROUTE => p.routeRefusals w
  | .CIRCUIT =>
    refuseIf (p.circuitClash w.i (p.asked w)) (if w.has Fld.CIRCUIT.ENABLE then 39 else 31) .conflict ++
      refuseIf (Nat.blt 5 (w.of Fld.CIRCUIT.PORT)) 37 .range
  | .SECURE_TABLE => refuseIf (Nat.blt 64 (w.of Fld.SECURE_TABLE.RANGES)) 62 .range
  | .TRACE_CTRL => refuseIf (w.of Fld.TRACE_CTRL.ENABLE == 1 && p.get Fld.TRACE_SIZE.SIZE_4K w.i == 0) 0 .range
  | .COUNTER_SNAP => refuseIf (w.of Fld.COUNTER_SNAP.GO == 1 && p.get Fld.COUNTER_SNAP.PENDING 0 == 1) 0 .busy
  | .DBG_CTRL =>
    let a := w.of Fld.DBG_CTRL.ACTION
    refuseIf ((a == 2 || a == 3) && !p.isHalted w.i) 2 .conflict
  | .DBG_SNAP => refuseIf (w.of Fld.DBG_SNAP.GO == 1 && !p.isHalted w.i) 0 .conflict
  | .START_CTRL => p.startRefusals w
  | .FW_UPDATE => if w.of Fld.FW_UPDATE.GO = 1 then refuseAs 0 (p.fwUpdateCheck (p.asked w)) else []
  | .TOKEN_POKE =>
    refuseIf (!p.domainOn (clusterOf w.i)) 7 .busy
  | .PAGER_POOL => p.poolRefusals w
  | .PORT_CTRL => refuseIf (w.of Fld.PORT_CTRL.ENABLE == 1 && p.retiredPorts.contains w.i) 0 .retiredUnit
  | .ARB_COMMIT => if w.of Fld.ARB_COMMIT.GO = 1 then refuseAs 0 (p.commitGo (w.i / 81) (w.i % 81)).2 else []
  | _ => []

/-- Reserved bits that a write sets (R15), each refused with RANGE. -/
def BarWr.reservedSet (w : BarWr) : Refusals :=
  ((List.range 64).filter (fun k => bit w.val k && bit w.mask k && !bit w.r.fieldBits k)).map (fun k => (k, .range))

/-- The refusal at the highest bit, OK without one. -/
def Refusals.first (l : Refusals) : Status :=
  (l.foldl (fun (m : Nat × Status) x => if m.2 = .ok ∨ m.1 < x.1 then x else m) (0, .ok)).2

/-! ### Idleness of units (R17, R507) -/

/-- Whether a slot of the clusters named is RUNNING. -/
def Part.slotRuns (p : Part) (ks : List Nat) : Bool := ks.any (fun k => (p.liveSlots k).any (fun x => x.2.st == .running))

def clustersOf (d : Nat) : List Nat := (List.range 8).map (fun i => 8 * d + i)

/-- The die's clusters run tasks, or its mover has transfers outstanding (R256, R290). -/
def Part.dieBusy (p : Part) (d : Nat) : Bool := p.slotRuns (clustersOf d) || p.outstanding d != 0

/-- A stream with a command in progress, or enabled (R511). -/
def Part.streamBusy (p : Part) (i : Nat) : Bool :=
  p.get Fld.STREAM_RING.ENABLE i == 1 || !(p.stream (i / 4096) (i % 4096)).busy.isEmpty

/-- The update unit of a die: a pass runs, or the enabled ring is not empty (R356 heading). -/
def Part.updateBusy (p : Part) (d : Nat) : Bool :=
  (p.die d).pass.isSome || (p.get Fld.UPD_RING.ENABLE d == 1 &&
    (match (p.ringHeader d).2 with | some (.ok x) => x.1 != x.2 | _ => false))

/-- Whether the unit of a register's STATIC fields is busy, for a write from word `old` to word `new`. -/
def Part.unitBusy (p : Part) (r : Reg) (i : Nat) (old new : Word) : Bool :=
  match r with
  | .EVQ_BASE => p.get Fld.EVQ_BASE.ENABLE i == 1
  | .STREAM_RING | .STREAM_CPL => p.streamBusy i
  | .TIME_CTRL => p.get Fld.TIME_STATUS.SURVEY_BUSY 0 == 1
  | .TANDEM_CTRL => p.slotRuns (List.range 32) || p.dies.any (fun x => x.2.pass.isSome)
  | .PARTNER_CTRL | .SECURE_TABLE | .SECURE_DEST | .SECURE_SLOT => p.get Fld.PARTNER_CTRL.ENABLE 0 == 1 || p.copying
  | .PD_CTRL => p.pdBusy old new
  | .DIST_CTRL | .GAIT_CTRL => p.slotRuns [i]
  | .ME_CTRL => !p.unitIdle (i / 2) (if i % 2 = 0 then .me0 else .me1)
  | .VE_CTRL => !p.unitIdle i .ve
  | .RELAY_CTRL => p.slotRuns [i] || p.relayFlight i != 0
  | .DCACHE_CTRL => p.dieBusy i
  | .XLATE_ROOT => p.dieBusy i || !(p.die i).bar2Wait.isEmpty
  | .PAGER_ARENA | .PAGER_POOL => !(p.handlesOf i).isEmpty
  | .UPD_RING => p.updateBusy i
  | .PAIR_CTRL =>
    let k := fun (f : Fld) (w : Word) => 8 * (i / 4) + f.of w
    p.slotRuns [k Fld.PAIR_CTRL.CLUSTER_A old, k Fld.PAIR_CTRL.CLUSTER_B old, k Fld.PAIR_CTRL.CLUSTER_A new, k Fld.PAIR_CTRL.CLUSTER_B new]
  | .RECOVERY_AREA => (p.die i).testing.isSome || ((List.range 64).any (fun n =>
      let x := p.core (64 * i + n)
      x.helperFor.isSome || x.decision.isSome || x.span.any (fun y => y.replaying)))
  | .REMOUNT_SRC | .REMOUNT_CTRL => p.get Fld.REMOUNT_STATUS.BUSY i == 1
  | .FAB_NODE => (List.range 24).any (fun q => p.portState q == 4)
  | .PORT_CTRL => p.portState i != 0
  | .TRACE_CTRL | .TRACE_BASE | .TRACE_SIZE => p.get Fld.TRACE_CTRL.ENABLE i == 1
  | _ => false

/-- Whether a write changes a STATIC field of a busy unit. -/
def Part.staticBusy (p : Part) (w : BarWr) : Bool :=
  let old := p.rd w.r w.i
  let new := p.stored w
  (w.r.info.fields.any (fun f => f.cls == .static && (⟨w.r, f.hi, f.lo⟩ : Fld).of old != (⟨w.r, f.hi, f.lo⟩ : Fld).of new)) &&
    p.unitBusy w.r w.i old new

/-- The status of a write's fields (R500 step 3). -/
def Part.orderStatus (p : Part) (w : BarWr) : Status :=
  match (w.reservedSet ++ p.fieldRefusals w).first with
  | .ok => if p.staticBusy w then .busy else .ok
  | st => st

/-! ### Ownership (R496) -/

/-- The port that owns the data registers: its stream, event-queue and view registers. -/
def ownPort (r : Reg) (i : Nat) : Option Nat :=
  match r with
  | .VIEW_SEL | .EVQ_BASE | .EVQ_HEAD | .EVQ_STATUS => some i
  | .STREAM_RING | .STREAM_CPL | .STREAM_STATUS => some (i / 4096)
  | _ => none

/-- Whether port `q` may write a register now: data registers of its own, POST_WINDOW and TOKEN_POKE without the lease,
LEASE_ACTION by R504, all else with the lease. -/
def Part.mayWrite (p : Part) (q : Nat) (r : Reg) (i : Nat) : Bool :=
  match r with
  | .POST_WINDOW | .TOKEN_POKE | .LEASE_ACTION => true
  | _ => match ownPort r i with
    | some o => o == q
    | none => p.holdsLease q

end Sys2Proof.Machine
end

