-- ==== Sys2Proof/Machine/Write.lean ====
section
/-! DEFINITION. Writes of BAR0 (R495 to R504): what each register's write does, the order serializer's result registers, the
lease, and the commands that are writes of one register. -/

namespace Sys2Proof.Machine

/-! ### The lease (R504) -/

def Part.leaseEvent (p : Part) : Part :=
  p.event .lease .ok (unitWord 0xFF 0 0xFF) (p.get Fld.LEASE_STATUS.GEN 0 + p.get Fld.LEASE_STATUS.HOLDER 0 * 2 ^ 32)

/-- The holder changes: GEN rises, and both ports hear of it. -/
def Part.leaseTo (p : Part) (holder : Nat) : Part :=
  (((p.put Fld.LEASE_STATUS.HOLDER 0 holder).put Fld.LEASE_STATUS.EXPIRED 0 0).put Fld.LEASE_STATUS.GEN 0
    (p.get Fld.LEASE_STATUS.GEN 0 + 1)).leaseEvent

/-- EXPIRES = now + PERIOD_MS. -/
def Part.extend (p : Part) : Part :=
  p.put Fld.LEASE_EXPIRES.EXPIRES 0 (p.time.raw + 1000000 * p.get Fld.LEASE_CTRL.PERIOD_MS 0)

/-- LEASE_ACTION that was not refused. -/
def Part.leaseAct (p : Part) (q a : Nat) : Part :=
  if a = 0 then p
  else if a = 3 then p.leaseTo 3
  else if p.holdsLease q then p.extend
  else (p.extend).leaseTo q

/-- An expiry is announced once, at an order boundary (R501, R504). -/
def Part.leaseTick (p : Part) : Part :=
  if p.leaseExpired && p.get Fld.LEASE_STATUS.EXPIRED 0 == 0 then (p.put Fld.LEASE_STATUS.EXPIRED 0 1).leaseEvent else p

/-- LEASE_EXPIRY: the raw meridian reaches EXPIRES. -/
def execLeaseExpiry (s : State) : Host.Outcome State Fault Refusal :=
  s.run (fun p =>
    if !p.alive || p.get Fld.LEASE_STATUS.HOLDER 0 = 3 then p
    else (p.advanceTo (p.get Fld.LEASE_EXPIRES.EXPIRES 0)).leaseTick)

/-! ### Effects of single registers -/

/-- DIST_CTRL: idle cores take their CORE_MASK bit at once; GAIT_EN from 0 to 1 begins step 0 (R94, R354). -/
def Part.distWritten (p : Part) (k : Nat) (old : Word) : Part :=
  let p := (coresOf k).foldl (fun (p : Part) c => if (p.core c).phase = .idle then p.applyMask c else p) p
  if Fld.DIST_CTRL.GAIT_EN.of old = 0 ∧ p.gaitOn k then
    p.setCluster k { p.cluster k with pairIdx := 0, pulled := 0, updDone := 0, step := 0 }
  else p

/-- GAIT_CTRL changed while GAIT_EN is 1: the step begins again at its first warm-up pair (R354). -/
def Part.gaitWritten (p : Part) (k : Nat) (old : Word) : Part :=
  if p.gaitOn k ∧ old ≠ p.rd .GAIT_CTRL k then
    p.setCluster k { p.cluster k with pairIdx := 0, pulled := 0, updDone := 0 }
  else p

/-- Drop the cached translations of one die that meet `[base, base + n)`, or all (R279). -/
def Part.dropOn (p : Part) (d base n : Nat) (all : Bool) : Part :=
  p.modDie d (fun x => { x with
    tlb := if all then [] else x.tlb.filter (fun l => l.base + l.size ≤ base || base + n ≤ l.base) })

/-- GO of XLATE_INVAL, ignored while BUSY (R279, R291). -/
def Part.invalidate (p : Part) (d : Nat) (old : Word) : Part :=
  if Fld.XLATE_INVAL.BUSY.of old = 1 then p
  else
    let base := p.get Fld.XLATE_INVAL.BASE d * pageBytes
    let n := p.get Fld.XLATE_INVAL.COUNT d
    let dies := if p.get Fld.XLATE_INVAL.ALL_DIES d = 1 then List.range 4 else [d]
    (dies.foldl (fun (p : Part) x => p.dropOn x base (n * pageBytes) (n == 0)) p).put Fld.XLATE_INVAL.BUSY d 1

/-- REMOTE_MODE changed: dirty lines are written back and the cache is invalidated (R256). A domain that switches on is announced
on LSA (R570). -/
def Part.modeWritten (p : Part) (d : Nat) (old : Word) : Part :=
  if old = p.rd .DCACHE_CTRL d then p
  else
    let p := (p.flushCache d).put Fld.MEM_STATUS.MODE_BUSY d 1
    if Fld.DCACHE_CTRL.REMOTE_MODE.of old = 2 then p.assertLsa d else p

/-- ENABLE of a stream (R511, R516, R517): OFF at 0, RUNNING at 1, unless ABANDONED or STOPPED holds it. -/
def Part.streamWritten (p : Part) (i old new : Nat) : Part :=
  let st := p.get Fld.STREAM_STATUS.STATE i
  if new = 0 then (if st = 3 then p else p.put Fld.STREAM_STATUS.STATE i 0)
  else if old = 0 ∨ st = 3 then p.put Fld.STREAM_STATUS.STATE i 1
  else p

/-- ENABLE of a die's trace written 1 (R591). -/
def Part.traceEnabled (p : Part) (d : Nat) : Part :=
  ((p.put Fld.TRACE_STATUS.FULL d 0).put Fld.TRACE_STATUS.FAILED d 0).put Fld.TRACE_HEAD.HEAD d 0

/-- GO of COUNTER_SNAP: the first multiple of 1,024 at least 2,048 after application (R586). -/
def Part.snapGo (p : Part) : Part :=
  { p.put Fld.COUNTER_SNAP.PENDING 0 1 with snapAt := ceilDiv (p.time.raw + 2048) 1024 * 1024 }

/-- HALT (R593): at once, unless an instruction of the sequencer is under way or a fault awaits its decision (R595); on a core
without a task before its next one. -/
def Part.haltOrder (p : Part) (c : Nat) : Part :=
  let x := p.core c
  if p.isHalted c then p
  else match x.phase with
    | .running _ => if x.hold = .none then p.halt c 1 else p.setCore c { x with haltReq := true }
    | _ => p.setCore c { x with haltReq := true }

/-- A halted core dispatches again: one instruction, or until it halts for another reason (R593, R594). -/
def Part.resumeOrder (p : Part) (c : Nat) (one : Bool) : Part :=
  (p.wr .DBG_STATUS c 0).modCore c (fun x => { x with stepping := one, passBreak := true })

/-- ACTION of DBG_CTRL. -/
def Part.debugAction (p : Part) (c a : Nat) : Part :=
  if a = 1 then p.haltOrder c else if a = 2 then p.resumeOrder c true else if a = 3 then p.resumeOrder c false else p

/-- The record of a snapshot (R596). -/
def Part.snapshot (p : Part) (c : Nat) : List Byte :=
  let x := p.core c
  let cr := fun (n : Nat) => leBytes 8 ((p.crRead c n).getD 0).toNat
  (List.range 32).flatMap (fun i => leBytes 8 (x.gr i).toNat) ++ (List.range 32).flatMap (fun i => leBytes 16 (x.tdr i).toNat) ++
    (List.range 64).flatMap (fun t => leBytes 2 (x.token t)) ++ cr 2 ++ cr 3 ++ cr 4 ++ cr 8 ++ leBytes 8 x.pc ++
    leBytes 8 (p.rd .SEQ_FAULT c).toNat ++ leBytes 8 p.time.raw ++ List.replicate 72 0

/-- GO of DBG_SNAP on a halted core (R596); a write that would have to wait is not made (log entry 30). -/
def Part.snapWrite (p : Part) (c : Nat) : Part :=
  let a := p.get Fld.DBG_SNAP.ADDR c * 1024
  match p.writeWake (dieOf c) .moverWr a (p.snapshot c) with
  | (p, .ok _) => p
  | (p, .fail st) => p.event .delivery st (unitWord (dieOf c) c 0xFF) a
  | (p, .wait _) => p.event .delivery .busy (unitWord (dieOf c) c 0xFF) a

/-- The masks written and the banks confirmed by RT_CTRL (R387, R400). -/
def Part.banksWritten (p : Part) (d : Nat) (old : Word) (confirm : Nat) : Part :=
  let p := if Fld.RT_CTRL.BANK0_PORTS.of old = p.get Fld.RT_CTRL.BANK0_PORTS d then p else p.bankWritten d 0
  let p := if Fld.RT_CTRL.BANK1_PORTS.of old = p.get Fld.RT_CTRL.BANK1_PORTS d then p else p.bankWritten d 1
  let p := if bit confirm 0 then p.confirmBank d 0 else p
  if bit confirm 1 then p.confirmBank d 1 else p

/-- TANDEM_CTRL (R441, R450). -/
def Part.tandemWritten (p : Part) (old : Word) (release : Bool) : Part :=
  let p := p.tandemEnable (Fld.TANDEM_CTRL.ENABLE.of old) (p.get Fld.TANDEM_CTRL.ENABLE 0)
  if release then p.tandemRelease else p

/-- RETRY leaves safe mode by a cold start with FAIL_COUNT cleared (R532). -/
def Part.retryStart (p : Part) (x : StartFacts) : Part :=
  ({ p with flash := p.flash.setBoot { p.flash.boot.1 with fails := 0 } } : Part).coldStart x

/-- ACTION of START_CTRL (R528, R532, R544). -/
def Part.startAction (p : Part) (a root : Nat) (x : StartFacts) : Part :=
  if a = 1 then p.warmStart x
  else if a = 2 then p.retryStart x
  else if a = 3 then p.rollbackCommit
  else if a = 4 then p.rootRetire root
  else p

/-- A write of POST_WINDOW word `i` (R81): element 64 d + 8 cluster + word. -/
def Part.windowWrite (p : Part) (w : BarWr) : Part :=
  let lo := if w.mask = lowHalf * 2 ^ 32 then 4 else 0
  let n := if w.mask = 2 ^ 64 - 1 then 8 else 4
  (p.stageWrite (w.i / 8) (256 + w.port) (8 * (w.i % 8) + lo) (leBytes n (w.val / 2 ^ (8 * lo)))).1

/-- ACTION of FARRIER_ORDER (R471). -/
def Part.farrierAction (p : Part) (d a n : Nat) : Part :=
  if a = 1 then p.orderTest d n else if a = 2 then p.orderDefer d n else p

/-! ### A write that passed its checks -/

/-- What the fields of an applied write do, after the register holds its new word; `old` is the word before. -/
def Part.effects (p : Part) (w : BarWr) (old : Word) (x : Env) : Part :=
  match w.r with
  | .LEASE_ACTION => p.leaseAct w.port (w.of Fld.LEASE_ACTION.ACTION)
  | .JOB_OFFSET => if w.has Fld.JOB_OFFSET.OFFSET then (p.wr .JOB_OFFSET 0 old).referenceOffset w.val else p
  | .TIME_CTRL =>
    let p := p.timeCtrlChanged old
    if w.of Fld.TIME_CTRL.GO = 1 then p.startSurvey else p
  | .TANDEM_CTRL => p.tandemWritten old (w.of Fld.TANDEM_CTRL.RELEASE == 1)
  | .PARTNER_CTRL =>
    if w.has Fld.PARTNER_CTRL.ENABLE then p.partnerEnable (Fld.PARTNER_CTRL.ENABLE.of old) (w.of Fld.PARTNER_CTRL.ENABLE) else p
  | .COUNTER_SNAP => if w.of Fld.COUNTER_SNAP.GO = 1 then p.snapGo else p
  | .START_CTRL => p.startAction (w.of Fld.START_CTRL.ACTION) (w.of Fld.START_CTRL.ROOT) x.start
  | .FW_UPDATE => if w.of Fld.FW_UPDATE.GO = 1 then p.fwUpdateGo else p
  | .SIGNED_CTRL => if w.of Fld.SIGNED_CTRL.SUBMIT = 1 then p.submit x.cert else p
  | .PD_CTRL => p.pdSwitch old (p.rd .PD_CTRL 0)
  | .DIST_CTRL => p.distWritten w.i old
  | .GAIT_CTRL => p.gaitWritten w.i old
  | .POST_WINDOW => p.windowWrite w
  | .SYNC_STATUS => if w.of Fld.SYNC_STATUS.TOKEN_SATURATED = 1 then p.put Fld.SYNC_STATUS.SAT_TOKEN w.i 0 else p
  | .TOKEN_POKE =>
    if w.of Fld.TOKEN_POKE.AMOUNT = 0 then p else p.tokAdd w.i (w.of Fld.TOKEN_POKE.TOKEN) (w.of Fld.TOKEN_POKE.AMOUNT)
  | .DCACHE_CTRL => p.modeWritten w.i old
  | .XLATE_ROOT => -- cached translations come from the old root (log entry 10)
    if p.rd .XLATE_ROOT w.i = old then p else p.modDie w.i (fun y => { y with tlb := [] })
  | .XLATE_INVAL => if w.of Fld.XLATE_INVAL.GO = 1 then p.invalidate w.i old else p
  | .UPD_RING =>
    (if Fld.UPD_RING.ENABLE.of old = 0 ∧ p.get Fld.UPD_RING.ENABLE w.i = 1 then p.put Fld.UPD_STATUS.RING_STOPPED w.i 0 else p).wakeRing w.i
  | .ARB_COMMIT => if w.of Fld.ARB_COMMIT.GO = 1 then (p.commitGo (w.i / 81) (w.i % 81)).1 else p
  | .ARB_STATUS => if w.of Fld.ARB_STATUS.STARVED = 0 then p else p.clearStarved w.i (w.of Fld.ARB_STATUS.STARVED)
  | .PAIR_CTRL =>
    if Fld.PAIR_CTRL.ENABLE.of old = 0 ∧ p.get Fld.PAIR_CTRL.ENABLE w.i = 1 then p.pairEnabled (w.i / 4) (w.i % 4) else p
  | .FARRIER_ORDER => p.farrierAction w.i (w.of Fld.FARRIER_ORDER.ACTION) (w.of Fld.FARRIER_ORDER.CORE)
  | .REMOUNT_CTRL => if w.of Fld.REMOUNT_CTRL.GO = 1 then p.remountGo w.i else p
  | .FAB_NODE => p.activatePorts
  | .EPOCH_FLIP_AT => if w.has Fld.EPOCH_FLIP_AT.FLIP_AT then p.flipSet w.val else p
  | .PORT_CTRL =>
    if w.has Fld.PORT_CTRL.ENABLE then p.portEnable w.i (Fld.PORT_CTRL.ENABLE.of old) (w.of Fld.PORT_CTRL.ENABLE) else p
  | .RT_CTRL => p.banksWritten w.i old (w.of Fld.RT_CTRL.CONFIRM)
  | .ROUTE => p.bankWritten (routeDie w.i) (routeBank w.i)
  | .STREAM_RING =>
    if w.has Fld.STREAM_RING.ENABLE then p.streamWritten w.i (Fld.STREAM_RING.ENABLE.of old) (w.of Fld.STREAM_RING.ENABLE) else p
  | .TRACE_CTRL => if w.of Fld.TRACE_CTRL.ENABLE = 1 then p.traceEnabled w.i else p
  | .DBG_CTRL => p.debugAction w.i (w.of Fld.DBG_CTRL.ACTION)
  | .DBG_SNAP => if w.of Fld.DBG_SNAP.GO = 1 then p.snapWrite w.i else p
  | _ => p

/-- Check a write and apply it whole or not at all (R500). A refused commit still reads in COMMIT_STATUS (R415). -/
def Part.takeWrite (p : Part) (w : BarWr) (x : Env) : Part × Status :=
  match p.orderStatus w with
  | .ok => ((p.wr w.r w.i (p.stored w)).effects w (p.rd w.r w.i) x, .ok)
  | st =>
    if w.r = .ARB_COMMIT ∧ w.of Fld.ARB_COMMIT.GO = 1 ∧ w.reservedSet.isEmpty then ((p.commitGo (w.i / 81) (w.i % 81)).1, st)
    else (p, st)

/-- The lease or ownership, then what the part serves, then the fields (R496, R500, R531). -/
def Part.writeReg (p : Part) (w : BarWr) (x : Env) : Part × Status :=
  if !p.mayWrite w.port w.r w.i then (p, .notOwner)
  else if !p.serves w.r then (p, .range)
  else p.takeWrite w x

/-- ORDER_RESULT of a port (R503): `off` is the BAR0 offset of the write. -/
def Part.result (p : Part) (port off : Nat) (st : Status) : Part :=
  let p := p.put Fld.ORDER_RESULT.LAST_STATUS port st.code
  if st = .ok then p
  else
    let n := p.get Fld.ORDER_RESULT.FAIL_COUNT port
    let p := if n = 0 then (p.put Fld.ORDER_RESULT.FAIL_STATUS port st.code).put Fld.ORDER_RESULT.FAIL_OFFSET port (off / 8) else p
    p.bump Fld.ORDER_RESULT.FAIL_COUNT port 1

/-- A write of a register element by a port, with its result. -/
def Part.regWrite (p : Part) (port : Nat) (r : Reg) (i : Nat) (d : BarData) (x : Env) : Part :=
  if !p.barServed port then p
  else
    let y := (p.leaseTick).writeReg ⟨port, r, i, barMask d, barVal d⟩ x
    y.1.result port (r.off i) y.2

/-- A write of `n` bytes at a BAR0 offset (R495): a hole is refused as any order without the lease, else with RANGE. -/
def Part.barWrite (p : Part) (port off n : Nat) (v : BitVec 64) (x : Env) : Part :=
  if !p.barServed port then p
  else if !barAligned off n then (p.leaseTick).result port off .range
  else
    match Reg.decode (off / 8 * 8) with
    | none =>
      let p := p.leaseTick
      p.result port off (if p.holdsLease port then .range else .notOwner)
    | some (r, i) =>
      p.regWrite port r i (if n = 8 then .full v else if off % 8 = 0 then .low (v.setWidth 32) else .high (v.setWidth 32)) x

/-- An environment for writes whose register starts nothing: no row that uses it reaches a start or a signed object. -/
def Env.none : Env where
  start := {
    cool := false, overrun := Option.none, straps := 0, tries := [], clocks := 0, sidebands := 0, conflict := false
    unassigned := false, imageA := ⟨false, false, false, false⟩, imageB := ⟨false, false, false, false⟩
    imageR := ⟨false, false, false, false⟩, gradeSig := (⟨false, false, false⟩, ⟨false, false, false⟩), ports := [], wires := []
    bodies := 0, flashOk := false, hbmFast := [], hbmSlow := [], digests := [], bursts := [], retainedOk := false }
  cert := ⟨false, false, false⟩

/-! ### Commands that are a write of one register -/

/-- A write of a register by a port, in service. -/
def State.runWrite (s : State) (port : Nat) (r : Reg) (i : Nat) (v : BarData) : Host.Outcome State Fault Refusal :=
  s.run (fun p => p.regWrite port r i v Env.none)

/-- REGISTER_WRITE (R495, R500). -/
def execRegisterWrite (port : Fin 2) (off n : Nat) (v : BitVec 64) (x : Env) (s : State) : Host.Outcome State Fault Refusal :=
  whenWf (Instr.wf (.registerWrite port off n v x)) <|
  s.run (fun p => p.barWrite port off n v x)

/-- POST_WINDOW_WRITE (R81). -/
def execPostWindowWrite (port : Fin 2) (k : Fin 32) (w : Fin 8) (v : BarData) (s : State) : Host.Outcome State Fault Refusal :=
  s.runWrite port .POST_WINDOW (8 * k.val + w.val) v

/-- TOKEN_POKE (R101). -/
def execTokenPoke (port : Fin 2) (c : Fin 256) (v : BarData) (s : State) : Host.Outcome State Fault Refusal :=
  s.runWrite port .TOKEN_POKE c v

/-- SLOT_RELEASE: the host's release order (R84), a management order that no register is given for. -/
def execSlotRelease (port : Fin 2) (k : Fin 32) (slot : Fin 256) (s : State) : Host.Outcome State Fault Refusal :=
  s.runPort port (fun p =>
    let p := p.leaseTick
    let y := if p.holdsLease port then p.releaseSlot k slot else (p, .notOwner)
    y.1.put Fld.ORDER_RESULT.LAST_STATUS port y.2.code)

/-- GAIT_CTRL_WRITE (R354, R355). -/
def execGaitCtrlWrite (port : Fin 2) (k : Fin 32) (v : BarData) (s : State) : Host.Outcome State Fault Refusal :=
  s.runWrite port .GAIT_CTRL k v

/-- A 64-bit write of a word with a bit set: the GO, ENABLE or CONFIRM that names the row. -/
def withBit (v : BitVec 64) (n : Nat) : BarData := .full (v ||| BitVec.ofNat 64 (2 ^ n))

/-- A 64-bit write of a number. -/
def wordOf (n : Nat) : BarData := .full (BitVec.ofNat 64 n)

/-- XLATE_INVAL_GO (R279). -/
def execXlateInvalGo (port : Fin 2) (d : Fin 4) (v : BitVec 64) (s : State) : Host.Outcome State Fault Refusal :=
  s.runWrite port .XLATE_INVAL d (withBit v 0)

/-- REMOTE_MODE_WRITE (R256). -/
def execRemoteModeWrite (port : Fin 2) (d : Fin 4) (mode : Fin 4) (s : State) : Host.Outcome State Fault Refusal :=
  s.runWrite port .DCACHE_CTRL d (wordOf mode)

/-- PORT_ENABLE (R392) and PORT_DISABLE (R360): a write of PORT_CTRL with its LANE_MODE. -/
def execPortEnable (port : Fin 2) (q : Fin 24) (mode : Fin 4) (s : State) : Host.Outcome State Fault Refusal :=
  s.runWrite port .PORT_CTRL q (wordOf (2 * mode.val + 1))

def execPortDisable (port : Fin 2) (q : Fin 24) (mode : Fin 4) (s : State) : Host.Outcome State Fault Refusal :=
  s.runWrite port .PORT_CTRL q (wordOf (2 * mode.val))

/-- BANK_CONFIRM of bank `b` (R387, R400), with the masks the word carries. -/
def execBankConfirm (port : Fin 2) (d : Fin 4) (b : Fin 2) (v : BitVec 64) (s : State) : Host.Outcome State Fault Refusal :=
  s.runWrite port .RT_CTRL d (withBit v (16 + b.val))

/-- EPOCH_FLIP_AT_WRITE (R389). -/
def execEpochFlipAtWrite (port : Fin 2) (m : BitVec 64) (s : State) : Host.Outcome State Fault Refusal :=
  s.runWrite port .EPOCH_FLIP_AT 0 (.full m)

/-- SURVEY_GO (R430). -/
def execSurveyGo (port : Fin 2) (v : BitVec 64) (s : State) : Host.Outcome State Fault Refusal :=
  s.runWrite port .TIME_CTRL 0 (withBit v 2)

/-- JOB_OFFSET_WRITE (R430). -/
def execJobOffsetWrite (port : Fin 2) (v : BitVec 64) (s : State) : Host.Outcome State Fault Refusal :=
  s.runWrite port .JOB_OFFSET 0 (.full v)

/-- TANDEM_RELEASE (R450). -/
def execTandemRelease (port : Fin 2) (v : BitVec 64) (s : State) : Host.Outcome State Fault Refusal :=
  s.runWrite port .TANDEM_CTRL 0 (withBit v 1)

/-- PAIR_ENABLE (R443, R452). -/
def execPairEnable (port : Fin 2) (d i : Fin 4) (v : BitVec 64) (s : State) : Host.Outcome State Fault Refusal :=
  s.runWrite port .PAIR_CTRL (4 * d.val + i.val) (withBit v 16)

/-- TEST_NOW and DEFER of a local core (R471): writes of FARRIER_ORDER. -/
def execTestNow (port : Fin 2) (d : Fin 4) (n : Fin 64) (s : State) : Host.Outcome State Fault Refusal :=
  s.runWrite port .FARRIER_ORDER d (wordOf (0x100 + n.val))

def execDefer (port : Fin 2) (d : Fin 4) (n : Fin 64) (s : State) : Host.Outcome State Fault Refusal :=
  s.runWrite port .FARRIER_ORDER d (wordOf (0x200 + n.val))

/-- PARTNER_PAIRING (R479). -/
def execPartnerPairing (port : Fin 2) (v : BitVec 64) (s : State) : Host.Outcome State Fault Refusal :=
  s.runWrite port .PARTNER_CTRL 0 (withBit v 0)

/-- REMOUNT_GO (R481). -/
def execRemountGo (port : Fin 2) (d : Fin 4) (v : BitVec 64) (s : State) : Host.Outcome State Fault Refusal :=
  s.runWrite port .REMOUNT_CTRL d (withBit v 0)

/-- ARB_COMMIT_GO (R415). -/
def execArbCommitGo (port : Fin 2) (d : Fin 4) (g : Fin 81) (s : State) : Host.Outcome State Fault Refusal :=
  s.runWrite port .ARB_COMMIT (81 * d.val + g.val) (wordOf 1)

/-- LEASE_CLAIM, LEASE_RENEW and LEASE_RELEASE (R504): writes of LEASE_ACTION. -/
def execLeaseClaim (port : Fin 2) (s : State) : Host.Outcome State Fault Refusal := s.runWrite port .LEASE_ACTION 0 (wordOf 1)

def execLeaseRenew (port : Fin 2) (s : State) : Host.Outcome State Fault Refusal := s.runWrite port .LEASE_ACTION 0 (wordOf 2)

def execLeaseRelease (port : Fin 2) (s : State) : Host.Outcome State Fault Refusal := s.runWrite port .LEASE_ACTION 0 (wordOf 3)

/-- START_CTRL: WARM_START (R528), RETRY (R532), ROLLBACK_COMMIT and ROOT_RETIRE (R544). -/
def execWarmStart (port : Fin 2) (x : StartFacts) (s : State) : Host.Outcome State Fault Refusal :=
  whenWf (Instr.wf (.warmStart port x)) <|
  s.run (fun p => p.regWrite port .START_CTRL 0 (wordOf 1) { Env.none with start := x })

def execRetry (port : Fin 2) (x : StartFacts) (s : State) : Host.Outcome State Fault Refusal :=
  whenWf (Instr.wf (.retry port x)) <|
  s.run (fun p => p.regWrite port .START_CTRL 0 (wordOf 2) { Env.none with start := x })

def execRollbackCommit (port : Fin 2) (s : State) : Host.Outcome State Fault Refusal := s.runWrite port .START_CTRL 0 (wordOf 3)

def execRootRetire (port : Fin 2) (root : BitVec 8) (s : State) : Host.Outcome State Fault Refusal :=
  s.runWrite port .START_CTRL 0 (wordOf (4 + 256 * root.toNat))

/-- FW_UPDATE_GO (R542, R543). -/
def execFwUpdateGo (port : Fin 2) (v : BitVec 64) (s : State) : Host.Outcome State Fault Refusal :=
  s.runWrite port .FW_UPDATE 0 (withBit v 0)

/-- SUBMIT (R549). -/
def execSubmit (port : Fin 2) (x : CertFacts) (s : State) : Host.Outcome State Fault Refusal :=
  s.run (fun p => p.regWrite port .SIGNED_CTRL 0 (wordOf 1) { Env.none with cert := x })

/-- PD_SWITCH (R570, R580). -/
def execPdSwitch (port : Fin 2) (v : BarData) (s : State) : Host.Outcome State Fault Refusal := s.runWrite port .PD_CTRL 0 v

/-- COUNTER_SNAP_GO (R586). -/
def execCounterSnapGo (port : Fin 2) (s : State) : Host.Outcome State Fault Refusal := s.runWrite port .COUNTER_SNAP 0 (wordOf 1)

/-- HALT, STEP and RESUME (R593): a write of DBG_CTRL with its BRK_ARM. -/
def execHalt (port : Fin 2) (c : Fin 256) (arm : Fin 2) (s : State) : Host.Outcome State Fault Refusal :=
  s.runWrite port .DBG_CTRL c (wordOf (8 * arm.val + 1))

def execStep (port : Fin 2) (c : Fin 256) (arm : Fin 2) (s : State) : Host.Outcome State Fault Refusal :=
  s.runWrite port .DBG_CTRL c (wordOf (8 * arm.val + 2))

def execResume (port : Fin 2) (c : Fin 256) (arm : Fin 2) (s : State) : Host.Outcome State Fault Refusal :=
  s.runWrite port .DBG_CTRL c (wordOf (8 * arm.val + 3))

/-- DBG_SNAP_GO (R596). -/
def execDbgSnapGo (port : Fin 2) (c : Fin 256) (v : BitVec 64) (s : State) : Host.Outcome State Fault Refusal :=
  s.runWrite port .DBG_SNAP c (withBit v 0)

end Sys2Proof.Machine
end

