-- ==== Sys2Proof/Machine/Host.lean ====
section
/-! DEFINITION. The hosts beyond BAR0 writes: BAR2 (R491), streams and their commands (R511 to R517), links and their loss (R482,
R489, R494), what ends in the memory system at a host's order (R256, R272, R279), counters (R586), configuration and DOE
discovery (R493, R526). -/

namespace Sys2Proof.Machine

/-- The die a host port belongs to. -/
def portDie (port : Nat) : Nat := 2 * port

/-! ### BAR2 (R491) -/

/-- What a BAR2 access reaches: a range of DVAs or of physical addresses, or the refusal. -/
def Part.bar2Where (p : Part) (port off n : Nat) : Except Status (Bool × Nat) :=
  let a := p.get Fld.BAR2_CTRL.BASE port * 2 ^ 30 + off
  if p.get Fld.BAR2_CTRL.ENABLE port = 0 ∨ 2 ^ 48 < a + n then .error .range
  else if p.get Fld.BAR2_CTRL.PHYSICAL port = 1 then (if a + n ≤ 0xC0_0000_0000 then .ok (true, a) else .error .range)
  else .ok (false, a)

/-- A MEMORY event about a BAR2 access, to its port only. -/
def Part.bar2Event (p : Part) (port off : Nat) (st : Status) : Part :=
  p.eventOn [port] .memory st (unitWord (portDie port) 0 0xFF) (2 ^ 63 + off)

/-- Read physical lines in order for a requester of die `d`. -/
def Part.readPhys (p : Part) (d : Nat) (ls : List (Nat × Nat)) : Part × Acc (List Byte) :=
  match ls with
  | [] => (p, .ok [])
  | (a, n) :: rest =>
    if p.heldBack d .barRd a n then (p, .wait 65537)
    else match p.readLine d a n .remote with
      | (p, .ok l) =>
        match p.readPhys d rest with
        | (p, .ok m) => (p, .ok (l ++ m))
        | x => x
      | (p, .fail st) => (p, .fail st)
      | (p, .wait h) => (p, .wait h)

/-- Write physical lines in order. -/
def Part.writePhys (p : Part) (d : Nat) (ls : List (Nat × Nat)) (data : List Byte) : Part × Acc Unit :=
  match ls with
  | [] => (p, .ok ())
  | (a, n) :: rest =>
    match p.writeLine d a (data.take n) false with
    | (p, .ok _) => p.writePhys d rest (data.drop n)
    | x => x

/-- The lines of a BAR2 write as physical ranges, checked before any byte is written. -/
def Part.bar2Lines (p : Part) (d : Nat) (phys : Bool) (ls : List (Nat × Nat)) : Part × Acc (List (Nat × Nat)) :=
  match ls with
  | [] => (p, .ok [])
  | (a, n) :: rest =>
    match (if phys then (p, Acc.ok a) else p.translate d .barWr a) with
    | (p, .fail st) => (p, .fail st)
    | (p, .wait h) => (p, .wait h)
    | (p, .ok pa) =>
      let go := fun (_ : Unit) => match p.bar2Lines d phys rest with
        | (p, .ok m) => (p, .ok ((pa, n) :: m))
        | x => x
      if p.heldBack d .barWr pa n then (p, .wait 65537)
      else match whereIs pa with
        | .reserved _ => (p, .fail .range)
        | .mmio | .hole => (p, .fail .xlateFault)
        | .host q _ => if p.linkUp q then go () else (p, .fail .timeout)
        | .tile c x => if p.guardHit c x n then (p, .fail .protFault) else go ()
        | .window k _ => if ((p.bank k).st).allows true then go () else (p, .wait 65536)
        | .hbm _ => go ()

/-- Note whether a BAR2 access of a port waits on a held range or a bank window; it is in flight until the same access, sent
again, ends (R260, R290, log entry 31). -/
def Part.bar2InFlight (p : Part) (port : Nat) (x : Nat × Bool) (waits : Bool) : Part :=
  if (p.die (portDie port)).bar2Wait.contains x = waits then p
  else p.modDie (portDie port) (fun y => { y with bar2Wait := if waits then y.bar2Wait ++ [x] else y.bar2Wait.erase x })

/-- BAR2_READ of `n` bytes at offset `off`. An access that waits is sent again (log entry 31). -/
def execBar2Read (port : Fin 2) (off n : Nat) (s : State) : Host.Outcome State Fault Refusal :=
  whenWf (Instr.wf (.bar2Read port off n)) <|
  s.run (fun p =>
    if !p.linkUp port then p
    else if !p.ready then (if p.barServed port then { p with reply := .completion 1 } else p)
    else
      let bad := fun (p : Part) (st : Status) => ({ p with reply := .completion 4 } : Part).bar2Event port off st
      match p.bar2Where port off n with
      | .error st => bad p st
      | .ok (phys, a) =>
        match (if phys then p.readPhys (portDie port) (linesOf a n) else p.readDva (portDie port) .barRd a n) with
        | (p, .ok l) => { p.bar2InFlight port (off, false) false with reply := .bytes l }
        | (p, .fail st) => bad (p.bar2InFlight port (off, false) false) st
        | (_, .wait _) => p.bar2InFlight port (off, false) true)

/-- Rings whose PRODUCER word lies in physical ranges are looked at (R334). -/
def Part.wakePhys (p : Part) (ls : List (Nat × Nat)) : Part :=
  (List.range 4).foldl (fun (p : Part) d =>
    match (p.translate d .updRd (p.ringBase d)).2 with
    | .ok pa => if ls.any (fun x => meets x.1 x.2 pa 4) then p.wakeRing d else p
    | _ => p) p

/-- BAR2_WRITE. -/
def execBar2Write (port : Fin 2) (off : Nat) (data : List Byte) (s : State) : Host.Outcome State Fault Refusal :=
  whenWf (Instr.wf (.bar2Write port off data)) <|
  s.run (fun p =>
    let n := data.length
    if !p.ready || !p.linkUp port then p
    else
      match p.bar2Where port off n with
      | .error st => p.bar2Event port off st
      | .ok (phys, a) =>
        match p.bar2Lines (portDie port) phys (linesOf a n) with
        | (p, .fail st) => (p.bar2InFlight port (off, true) false).bar2Event port off st
        | (_, .wait h) => if h < 65536 then p.bar2Event port off .busy else p.bar2InFlight port (off, true) true
        | (p, .ok ls) =>
          match (p.bar2InFlight port (off, true) false).writePhys (portDie port) ls data with
          | (p, .ok _) => p.wakePhys ls
          | (p, .fail st) => p.bar2Event port off st
          | (p, .wait _) => p)

/-! ### Streams (R511 to R517) -/

/-- Index of a stream among the registers of R511. -/
def streamIdx (port s : Nat) : Nat := 4096 * port + s

def Part.streamSize (p : Part) (i : Nat) : Nat := 2 ^ p.get Fld.STREAM_RING.SIZE_LOG2 i

/-- A stream stops with a status (R512, R516). -/
def Part.stopStream (p : Part) (port s : Nat) (st : Status) : Part :=
  let i := streamIdx port s
  ((p.put Fld.STREAM_STATUS.STATE i 2).put Fld.STREAM_STATUS.STOP_STATUS i st.code).eventOn [port] .stream st
    (unitWord 0xFF port 0xFF) s

/-- STREAM_DOORBELL: PRODUCER is written; one too far beyond CONSUMER stops the stream (R512). -/
def execStreamDoorbell (port : Fin 2) (s : Fin 4096) (v : BitVec 32) (st : State) : Host.Outcome State Fault Refusal :=
  st.runPort port (fun p =>
    let i := streamIdx port s
    if p.get Fld.STREAM_RING.ENABLE i = 0 then p
    else
      let p := p.setStream port s { p.stream port s with producer := v.toNat }
      if p.get Fld.STREAM_STATUS.STATE i = 1 ∧ p.streamSize i < (v.toNat + 2 ^ 32 - p.get Fld.STREAM_STATUS.CONSUMER i) % 2 ^ 32 then
        p.stopStream port s .range
      else p)

/-- How a command ends: status, DETAIL, VALUE and FAULT of its record. -/
structure CmdEnd where
  st : Status
  detail : Nat
  value : Nat
  fault : Nat
  deriving DecidableEq, Repr

def CmdEnd.of (st : Status) : CmdEnd := ⟨st, 0, 0, 0⟩

/-- Write the completion record of command `i` of a stream and raise its interrupt; an ABANDONED stream writes none
(R515, R517). -/
def Part.streamRecord (p : Part) (port s i : Nat) (cmd : List Byte) (e : CmdEnd) : Part :=
  let x := streamIdx port s
  if p.get Fld.STREAM_STATUS.STATE x = 3 ∨ !p.linkUp port then p
  else
    let n := p.streamSize x
    let r := bytesAt cmd 4 4 ++ leBytes 4 i ++ leBytes 2 e.st.code ++ leBytes 1 e.detail ++ leBytes 1 ((i / n + 1) % 2) ++ [0, 0, 0, 0] ++
      leBytes 8 e.value ++ leBytes 8 e.fault
    let p := p.setHostBytes port (p.get Fld.STREAM_CPL.ADDR x * 4096 + 32 * (i % n)) r
    if bit (fieldAt cmd 1 1) 1 ∧ p.get Fld.STREAM_CPL.IRQ_EN x = 1 then
      { p with msix := p.msix ++ [(port, p.get Fld.STREAM_CPL.VECTOR x)] }
    else p

/-- Bytes of a command that no field of its layout takes are reserved: `named` lists offset and size of the fields, the
header's among them (log entry 33). -/
def unnamedSet (cmd : List Byte) (named : List (Nat × Nat)) : Bool :=
  (List.range 64).any (fun k => fieldAt cmd k 1 != 0 && !named.any (fun x => x.1 ≤ k && k < x.1 + x.2))

/-- Header fields that any command carries. -/
def headerNamed : List (Nat × Nat) := [(0, 1), (1, 1), (4, 4)]

/-- Take the next command of a stream for the row of opcode `op`: the command is fetched, CONSUMER advances, and an unknown
OPCODE or reserved bits end it (R512, R513, R516). `body` answers the end of the command, or none while it goes on. -/
def Part.streamStep (p : Part) (port s op : Nat) (named : List (Nat × Nat)) (body : Part → Nat → List Byte → Part × Option CmdEnd) : Part :=
  let x := streamIdx port s
  let i := p.get Fld.STREAM_STATUS.CONSUMER x
  let st := p.stream port s
  if p.get Fld.STREAM_RING.ENABLE x = 0 ∨ p.get Fld.STREAM_STATUS.STATE x ≠ 1 ∨ i = st.producer then p
  else
    let cmd := p.hostBytes port (p.get Fld.STREAM_RING.ADDR x * 4096 + 64 * (i % p.streamSize x)) 64
    let c := fieldAt cmd 0 1
    let known := 1 ≤ c && c ≤ 5
    if (known && c != op) || (bit (fieldAt cmd 1 1) 0 && !st.busy.isEmpty) then p
    else
      let p := p.put Fld.STREAM_STATUS.CONSUMER x (i + 1)
      if !known then p.streamRecord port s i cmd (.of .unsupported)
      else if bits (fieldAt cmd 1 1) 7 3 ≠ 0 ∨ unnamedSet cmd (headerNamed ++ named) then p.streamRecord port s i cmd ⟨.range, 1 * bnat (op == 2), 0, 0⟩
      else match body p i cmd with
        | (p, some e) => p.streamRecord port s i cmd e
        | (p, none) => p.setStream port s { p.stream port s with busy := i :: (p.stream port s).busy }

/-! ### LAUNCH -/

/-- Post descriptors in order; `err` is the one whose read ends with an error completion, `late` with which status. -/
def Part.postAll (p : Part) (port k a n : Nat) (err : Option Nat) (late : Status) (fuel posted first last : Nat) : Part × CmdEnd :=
  let value := posted * 2 ^ 16 + last * 2 ^ 8 + first
  match fuel with
  | 0 => (p, ⟨.ok, 0, value, 0⟩)
  | f + 1 =>
    if err = some posted then (p, ⟨late, 0, value, 0⟩)
    else
      match p.stageWrite k (256 + port) 0 (p.hostBytes port (a + 64 * posted) 64) with
      | (q, some (.ok, slot)) =>
        ({ q with postRes := p.postRes } : Part).postAll port k a n err late f (posted + 1) (if posted = 0 then slot else first) slot
      | (q, some (st, _)) => ({ q with postRes := p.postRes }, ⟨st, 0, value, 0⟩)
      | (q, none) => (q, ⟨.ok, 0, value, 0⟩)

def launchNamed : List (Nat × Nat) := [(8, 2), (10, 2), (0x10, 8)]

def Part.launchBody (p : Part) (port : Nat) (err : Option Nat) (late : Status) (cmd : List Byte) : Part × Option CmdEnd :=
  let k := fieldAt cmd 8 2
  let n := fieldAt cmd 10 2
  let a := fieldAt cmd 0x10 8
  if 31 < k ∨ n = 0 ∨ 256 < n ∨ a % 64 ≠ 0 then (p, some (.of .range))
  else
    let r := p.postAll port k a n err late n 0 0 0
    (r.1, some r.2)

/-- LAUNCH. -/
def execLaunch (port : Fin 2) (s : Fin 4096) (err : Option (Fin 256)) (st : State) : Host.Outcome State Fault Refusal :=
  st.runPort port (fun p => p.streamStep port s 1 launchNamed (fun p _ c => p.launchBody port (err.map (·.val)) .uncorrectable c))

/-! ### COPY -/

structure CopyCmd where
  toHost : Bool
  host : Nat
  dva : Nat
  len : Nat
  completion : Nat
  deriving DecidableEq, Repr

def copyOf (cmd : List Byte) : CopyCmd :=
  ⟨fieldAt cmd 8 1 == 1, fieldAt cmd 0x10 8, fieldAt cmd 0x18 6, fieldAt cmd 0x20 8, fieldAt cmd 0x28 8⟩

/-- The field checks of COPY, with the DETAIL of R305. -/
def copyCheck (cmd : List Byte) : Option CmdEnd :=
  let x := copyOf cmd
  if 1 < fieldAt cmd 8 1 ∨ !completionOk x.completion then some ⟨.range, 1, 0, 0⟩
  else if x.len = 0 ∨ 2 ^ 44 < x.len then some ⟨.range, 2, 0, 0⟩
  else if 2 ^ 44 < x.host + x.len ∨ 2 ^ 48 < x.dva + x.len then some ⟨.range, 3, 0, 0⟩
  else none

def copyNamed : List (Nat × Nat) := [(8, 1), (0x10, 8), (0x18, 6), (0x20, 8), (0x28, 8)]

/-- COPY: the command asks the mover of the port's die for an entry. -/
def Part.copyBody (p : Part) (port s i : Nat) (cmd : List Byte) : Part × Option CmdEnd :=
  match copyCheck cmd with
  | some e => (p, some e)
  | none => (p.modDie (portDie port) (fun x => { x with waiting := x.waiting ++ [.stream port s i cmd] }), none)

def execCopy (port : Fin 2) (s : Fin 4096) (st : State) : Host.Outcome State Fault Refusal :=
  st.runPort port (fun p => p.streamStep port s 2 copyNamed (fun p i c => p.copyBody port s i c))

/-- Blocks of a COPY: parts of the destination within aligned 256-byte lines, as offset and size (R307). -/
def CopyCmd.blocks (x : CopyCmd) : List (Nat × Nat) :=
  let d := if x.toHost then x.host else x.dva
  (linesOf d x.len).map (fun y => (y.1 - d, y.2))

/-- How far the reading and checking of blocks came. -/
inductive CopyRead where
  | all (data : List (List Byte))
  | stop (data : List (List Byte)) (st : Status) (dva : Nat)
  | wait (h : Nat) (at_ : Stuck)
  deriving DecidableEq, Repr

/-- Read and check the blocks of a COPY in order from number `k` (R312 to R314); `given` is where a wait that was given up stopped
it, with its status. -/
def Part.copyRead (p : Part) (d port : Nat) (x : CopyCmd) (given : Option (Stuck × Status)) (k : Nat) (bs : List (Nat × Nat))
    (acc : List (List Byte)) : Part × CopyRead :=
  match bs with
  | [] => (p, .all acc.reverse)
  | (o, n) :: rest =>
    match given.filter (fun g => g.1.block == k) with
    | some g => (p, .stop acc.reverse g.2 g.1.dva)
    | none =>
      if !p.linkUp port then (p, .stop acc.reverse .timeout (x.dva + o))
      else if x.toHost then
        match p.readDva d .moverRd (x.dva + o) n with
        | (p, .ok l) => p.copyRead d port x given (k + 1) rest (l :: acc)
        | (p, .fail st) => (p, .stop acc.reverse st (p.lowestBad d .moverRd [(x.dva + o, n)]))
        | (p, .wait h) => (p, .wait h ⟨k, false, p.lowestBad d .moverRd [(x.dva + o, n)]⟩)
      else
        match p.probe d .moverWr [(x.dva + o, n)] with
        | (p, .ok _) => p.copyRead d port x given (k + 1) rest (p.hostBytes port (x.host + o) n :: acc)
        | (p, .fail st) => (p, .stop acc.reverse st (p.lowestOff d .moverWr [(x.dva + o, n)]))
        | (p, .wait h) => (p, .wait h ⟨k, true, p.lowestOff d .moverWr [(x.dva + o, n)]⟩)

/-- Write blocks in order: blocks and bytes written, and what stopped it. -/
def Part.copyWrite (p : Part) (d port : Nat) (x : CopyCmd) (bs : List (Nat × Nat)) (data : List (List Byte)) (n bytes : Nat) :
    Part × Nat × Nat × Option (Status × Nat) :=
  match bs, data with
  | (o, len) :: rest, l :: ls =>
    if x.toHost then (p.setHostBytes port (x.host + o) l).copyWrite d port x rest ls (n + 1) (bytes + len)
    else match p.writeWake d .moverWr (x.dva + o) l with
      | (p, .ok _) => p.copyWrite d port x rest ls (n + 1) (bytes + len)
      | (p, .fail st) => (p, n, bytes, some (st, p.lowestPartial d [(x.dva + o, len)]))
      | (p, .wait _) => (p, n, bytes, some (.busy, x.dva + o))
  | _, _ => (p, n, bytes, none)

/-- A COPY ends: counted and traced, its record, its token, its entry (R315, R515). -/
def Part.copyEnds (p : Part) (d : Nat) (t : Xfer) (port s i : Nat) (cmd : List Byte) (e : MoveEnd) : Part :=
  let p := (p.moveCount d .atBlock e.st).moveTrace d e
  let p := p.streamRecord port s i cmd ⟨e.st, e.detail, e.bytes, e.dva⟩
  let p := (p.dropXfer d t.id).setStream port s { p.stream port s with busy := (p.stream port s).busy.filter (· != i) }
  p.moveToken d none (copyOf cmd).completion

/-- Run a COPY to its end, or leave it waiting on a handle or a held range. -/
def Part.runCopy (p : Part) (d : Nat) (t : Xfer) (port s i : Nat) (cmd : List Byte) (bs : List (Nat × Nat)) (last : Option (Status × Nat)) : Part :=
  let x := copyOf cmd
  let fin := fun (r : Part × Nat × Nat × Option (Status × Nat)) (stop : Option (Status × Nat)) =>
    match r.2.2.2, stop with
    | some (st, a), _ | none, some (st, a) =>
      r.1.copyEnds d t port s i cmd ⟨st, 0, true, !x.toHost, false, 0, r.2.2.1, a, r.2.1, []⟩
    | none, none => r.1.copyEnds d t port s i cmd ⟨.ok, 0, true, false, false, 0, r.2.2.1, 0, r.2.1, []⟩
  match p.copyRead d port x t.given 0 bs [] with
  | (p, .wait h at_) => p.moveWaits d t.id h (some at_)
  | (p, .all data) => fin (p.copyWrite d port x bs data 0 0) last
  | (p, .stop data st a) => fin (p.copyWrite d port x bs data 0 0) (some (st, a))

/-- MOVER_TRANSFER_COMPLETE: an admitted transfer that does not wait on a handle or a bank window reaches its end. -/
def execMoverTransferComplete (d : Fin 4) (id : Nat) (s : State) : Host.Outcome State Fault Refusal :=
  s.runReady (fun p =>
    match (p.die d).active.find? (fun t => t.id == id) with
    | none => p
    | some t =>
      if t.waitHandle.any (· < 65537) then p
      else
        let p := p.modXfer d id (fun y => { y with waitHandle := none })
        let t := { t with waitHandle := none }
        match t.src with
        | .core c e => p.coreTransfer d t c e
        | .stream port st i cmd => p.runCopy d t port st i cmd (copyOf cmd).blocks none
        | .relay _ _ _ | .copy _ => p)

/-! ### RESERVE -/

def windowBase (port : Nat) : Nat := if port = 0 then 0x4000_0000_0000 else 0x5000_0000_0000

def reserveNamed : List (Nat × Nat) := [(8, 1), (0x10, 8), (0x18, 8)]

/-- RESERVE: the pager of a die sets PAGER_RESERVE (R285, R514). -/
def Part.reserveBody (p : Part) (port : Nat) (cmd : List Byte) : Part × Option CmdEnd :=
  let d := fieldAt cmd 8 1
  let a := fieldAt cmd 0x10 8
  let n := fieldAt cmd 0x18 8
  if 3 < d ∨ a % pageBytes ≠ 0 ∨ 2 ^ 20 ≤ n ∨ 2 ^ 44 < a + n * pageBytes then (p, some (.of .range))
  else if (p.handlesOf d).any (fun x => x.2.st == .offloading || x.2.st == .offloaded || x.2.st == .prefetching) then
    (p, some (.of .busy))
  else
    let p := (p.put Fld.PAGER_RESERVE.BASE d ((windowBase port + a) / pageBytes)).put Fld.PAGER_RESERVE.SIZE_2M d n
    (p.serveJobs d, some (.of .ok))

def execReserve (port : Fin 2) (s : Fin 4096) (st : State) : Host.Outcome State Fault Refusal :=
  st.runPort port (fun p => p.streamStep port s 3 reserveNamed (fun p _ c => p.reserveBody port c))

/-! ### MGMT and QUERY -/

/-- The value a port sees at an offset, without clearing anything. -/
def Part.peek (p : Part) (port off n : Nat) : Nat :=
  match Reg.decode (off / 8 * 8) with
  | none => 0
  | some (r, i) =>
    let w := (p.regWord port r i).toNat
    if n = 8 then w else if off % 8 = 0 then w % 2 ^ 32 else w / 2 ^ 32

/-- Whether a register is written without the lease (R496, R504). -/
def leaseFree (port : Nat) (r : Reg) (i : Nat) : Bool :=
  r == .POST_WINDOW || r == .TOKEN_POKE || r == .LEASE_ACTION || ownPort r i == some port

/-- MGMT: the lease with its GEN, the condition, then the fields (R500, R514). -/
def Part.mgmtOrder (p : Part) (port off n : Nat) (cmd : List Byte) (x : Env) : Part × Status :=
  let v := fieldAt cmd 0x10 8
  let gen := fieldAt cmd 0x18 8 == p.get Fld.LEASE_STATUS.GEN 0 && p.holdsLease port
  let cond := bit (fieldAt cmd 1 1) 2 &&
    (p.peek port off n &&& fieldAt cmd 0x28 8) != (fieldAt cmd 0x20 8 &&& fieldAt cmd 0x28 8)
  match Reg.decode (off / 8 * 8) with
  | none => (p, if !gen then .notOwner else if cond then .conflict else .range)
  | some (r, i) =>
    if !leaseFree port r i && !gen then (p, .notOwner)
    else if cond then (p, .conflict)
    else
      let d : BarData := if n = 8 then .full (BitVec.ofNat 64 v) else if off % 8 = 0 then .low (BitVec.ofNat 32 v) else .high (BitVec.ofNat 32 v)
      p.writeReg ⟨port, r, i, barMask d, barVal d⟩ x

def mgmtNamed : List (Nat × Nat) := [(8, 4), (12, 4), (0x10, 8), (0x18, 8), (0x20, 8), (0x28, 8)]

def Part.mgmtBody (p : Part) (port : Nat) (cmd : List Byte) (x : Env) : Part × Option CmdEnd :=
  let off := fieldAt cmd 8 4
  let n := fieldAt cmd 12 4
  if !barAligned off n then (p, some (.of .range))
  else
    let r := (p.leaseTick).mgmtOrder port off n cmd x
    (r.1, some ⟨r.2, 0, r.1.peek port off n, 0⟩)

def execMgmt (port : Fin 2) (s : Fin 4096) (x : Env) (st : State) : Host.Outcome State Fault Refusal :=
  whenWf (Instr.wf (.mgmt port s x)) <|
  st.runPort port (fun p => p.streamStep port s 4 mgmtNamed (fun p _ c => p.mgmtBody port c x))

def queryNamed : List (Nat × Nat) := [(8, 4), (12, 4)]

/-- QUERY: a read under R497. -/
def Part.queryBody (p : Part) (port : Nat) (cmd : List Byte) : Part × Option CmdEnd :=
  let off := fieldAt cmd 8 4
  let n := fieldAt cmd 12 4
  if !barAligned off n then (p, some (.of .range))
  else
    let q := p.barRead port off n
    ({ q with reply := .none }, some ⟨.ok, 0, p.peek port off n, 0⟩)

def execQuery (port : Fin 2) (s : Fin 4096) (st : State) : Host.Outcome State Fault Refusal :=
  st.runPort port (fun p => p.streamStep port s 5 queryNamed (fun p _ c => p.queryBody port c))

/-! ### Links (R482, R489, R494, R573) -/

/-- What the part does when a port's link goes down or its function is reset (R494). -/
def Part.portReset (p : Part) (port : Nat) : Part :=
  let p := (List.range 4096).foldl (fun (p : Part) s => p.put Fld.STREAM_STATUS.STATE (streamIdx port s) 3) p
  let p := (p.put Fld.EVQ_BASE.ENABLE port 0).wr .BAR2_CTRL port (Reg.reset .BAR2_CTRL port)
  let p := p.wr .VIEW_SEL port (Reg.reset .VIEW_SEL port)
  let p := if p.get Fld.LEASE_STATUS.HOLDER 0 = port then p.leaseTo 3 else p
  p.eventOn [1 - port] .link .ok (unitWord 0xFF port 0xFF) port

/-- A port's link goes down: also, handles with data in a reserve behind it are LOST (R285, R482). -/
def Part.linkDown (p : Part) (port : Nat) : Part :=
  if !p.linkUp port then p
  else
    let p := (p.wr .HOST_PORT_STATUS port 0).portReset port
    (List.range 4).foldl (fun (p : Part) d =>
      match whereIs (p.chunkPa d 0) with
      | .host q _ => if q = port then p.loseReserve d else p
      | _ => p) p

def execHostLinkDown (port : Fin 2) (s : State) : Host.Outcome State Fault Refusal :=
  s.run (fun p => if p.alive then p.linkDown port else p)

def execFunctionLevelReset (port : Fin 2) (s : State) : Host.Outcome State Fault Refusal :=
  s.run (fun p => if p.alive && p.linkUp port then p.portReset port else p)

/-- REFCLK_PCIE of a port is lost: its link goes down (R573). -/
def execRefclkPcieLoss (port : Fin 2) (s : State) : Host.Outcome State Fault Refusal :=
  s.run (fun p =>
    if p.alive then
      let c := p.pins.refPcie
      ({ p with pins := { p.pins with refPcie := if port = 0 then (false, c.2) else (c.1, false) } } : Part).linkDown port
    else p)

/-- Whether a DVA range of a die reaches the window of a host port whose link is up. -/
def Part.inHostWindow (p : Part) (d : Nat) (r : Req) (dva : Nat) : Bool :=
  match (p.translate d r dva).2 with
  | .ok pa => (match whereIs pa with | .host q _ => p.linkUp q | _ => false)
  | _ => false

/-- A block of a transfer gets no completion: the blocks before it are written, and the transfer ends with TIMEOUT. -/
def Part.blockTimeout (p : Part) (d id n : Nat) : Part :=
  match (p.die d).active.find? (fun t => t.id == id && t.waitHandle.isNone && t.result.isNone) with
  | none => p
  | some t =>
    match t.src with
    | .stream port s i cmd =>
      let x := copyOf cmd
      if x.toHost || x.blocks.length ≤ n then p
      else p.runCopy d t port s i cmd (x.blocks.take n) (some (.timeout, x.dva + (x.blocks.getD n (0, 0)).1))
    | .core c e =>
      let m := mdescOf t.desc
      let b := (m.blocks.getD n ⟨[], [], (0, 0, 0), 0, 0, 0, 0⟩)
      match (b.src.map (·.1)).find? (p.inHostWindow d .moverRd) with
      | none => p
      | some a =>
        if isAtomic e || m.post || p.toOther m then p
        else match p.runBlocks d m (some (⟨n, false, a⟩, .timeout)) with
          | .wait _ _ _ _ _ => p
          | .done p x => p.movdEnds d t c e .atBlock x
    | .relay _ _ _ | .copy _ => p

/-- HOST_COMPLETION_TIMEOUT: a request the part sent gets no completion within 50 ms (R489). -/
def execHostCompletionTimeout (port : Fin 2) (r : HostReq) (s : State) : Host.Outcome State Fault Refusal :=
  s.runPort port (fun p =>
    match r with
    | .fetch t =>
      let x := streamIdx port t
      if p.get Fld.STREAM_RING.ENABLE x = 0 ∨ p.get Fld.STREAM_STATUS.STATE x ≠ 1 ∨
          p.get Fld.STREAM_STATUS.CONSUMER x = (p.stream port t).producer then p
      else p.stopStream port t .timeout
    | .descriptor t i => p.streamStep port t 1 launchNamed (fun p _ c => p.launchBody port (some i) .timeout c)
    | .block d id n => p.blockTimeout d id n
    | .reserve h => if (p.handle h).st = .prefetching ∧ (p.handle h).entry then p.prefetchFails h .timeout else p)

/-! ### What ends in the memory system -/

/-- XLATE_INVAL_COMPLETE: BUSY reads 0 (R279). -/
def execXlateInvalComplete (d : Fin 4) (s : State) : Host.Outcome State Fault Refusal :=
  s.runReady (fun p => p.put Fld.XLATE_INVAL.BUSY d 0)

/-- REMOTE_MODE_CHANGE_COMPLETE: the cache is empty under its new placement, and domain PD32 + d follows (R254, R256). -/
def execRemoteModeChangeComplete (d : Fin 4) (s : State) : Host.Outcome State Fault Refusal :=
  s.runReady (fun p =>
    if p.get Fld.MEM_STATUS.MODE_BUSY d = 0 then p
    else
      let mode := p.get Fld.DCACHE_CTRL.REMOTE_MODE d
      (((p.flushCache d).modDie d (fun x => { x with cacheMode := mode })).put Fld.MEM_STATUS.MODE_BUSY d 0).setDomain (32 + d)
        (mode != 2))

/-- The key of a word of die `d` that a flip names, if its array holds that word. -/
def Part.flipKey (p : Part) (d : Nat) (f : Flip) : Option Nat :=
  let pa := 8 * f.word
  match f.src.val, whereIs pa with
  | 1, .hbm h => if h = d then some f.word else none
  | 2, .hbm h => if h = d ∧ p.hasLine pa then some (localKey pa) else none
  | 3, .hbm _ => if (Tab.find? (p.die d).rlines (pa / 256)).isSome then some (remoteKey d pa) else none
  | 4, .tile c _ => if dieOf c = d then some f.word else none
  | _, _ => none

/-- Bits of a stored word flip, or a word encoded for another address comes to stand in its place; a parity error drops an entry
of the translation cache, which is walked again (R264, R266, R272). -/
def Part.applyFlip (p : Part) (d : Nat) (f : Flip) : Part :=
  if f.src = 0 then p.modDie d (fun x => { x with tlb := x.tlb.eraseIdx f.word })
  else match p.flipKey d f with
    | none => p
    | some key =>
      let old := Tab.get ⟨0, 0, 0, 0⟩ p.upsets key
      let addr := match f.addr with | some v => v ^^^ p.wordAddr key | none => old.addr
      let u : Upset := ⟨old.data ^^^ f.data, old.check ^^^ f.check, addr, f.src⟩
      { p with upsets := if u.data = 0 ∧ u.check = 0 ∧ u.addr = 0 then Tab.del p.upsets key else Tab.put p.upsets key u }

/-- The die whose scrubber reads the word of a key. -/
def scrubDie (key : Nat) : Option Nat :=
  match keyArray key, whereIs (keyPa key) with
  | 0, .hbm h | 5, .hbm h => some h
  | 0, .tile c _ => some (dieOf c)
  | 0, _ | 5, _ => none
  | d, _ => some (d - 1)

/-- Keys of the stored words of a die that differ from their codewords. -/
def Part.upsetsOf (p : Part) (d : Nat) : List Nat := (p.upsets.filter (fun x => scrubDie x.1 == some d)).map (·.1)

/-- SCRUB_PASS: words flip, and the patrol scrubber of a new period corrects or reports what it reads (R272). -/
def execScrubPass (d : Fin 4) (flips : List Flip) (s : State) : Host.Outcome State Fault Refusal :=
  whenWf (Instr.wf (.scrubPass d flips)) <|
  s.runReady (fun p =>
    let p := flips.foldl (fun (p : Part) f => p.applyFlip d f) (p.modDie d (fun x => { x with ceScrub := 0 }))
    (p.upsetsOf d).foldl (fun (p : Part) k =>
      match p.checkWord k d with
      | (p, true) => p.event .memory .uncorrectable (unitWord d 0 0xFF) (keyPa k)
      | (p, false) => p) p)

/-! ### Counters (R586) -/

/-- COUNTER_LATCH: the raw meridian reaches T, and every counter is copied. -/
def execCounterLatch (s : State) : Host.Outcome State Fault Refusal :=
  s.runReady (fun p =>
    if p.get Fld.COUNTER_SNAP.PENDING 0 = 0 then p
    else
      let p := p.advanceTo p.snapAt
      let p := (List.range 52).foldl (fun (p : Part) i =>
        { p.wr .COUNTER_LATCHED i (p.regWord 0 .COUNTER i) with draw := p.draw + 1 }) p
      ((p.put Fld.SNAP_TIME.TIME 0 p.snapAt).put Fld.COUNTER_SNAP.PENDING 0 0).trace 0 3 4 (unitWord 0xFF 0 0xFF) (payload [(0, 8, p.snapAt)]))

/-! ### Configuration and DOE (R493, R526) -/

/-- CONFIG_REQUEST: Request Retry Status until C9; answered then, and on port 0 in safe mode. What it answers is left to
PCI Express. -/
def execConfigRequest (port : Fin 2) (s : State) : Host.Outcome State Fault Refusal :=
  s.run (fun p =>
    if !p.linkUp port then p
    else if p.barServed port then { p with reply := .data (Config.freeNat p.draw), draw := p.draw + 1 }
    else { p with reply := .completion 2 })

/-- DOE_DISCOVERY: the object that names discovery protocol `index` of the mailbox: DOE Discovery (0) and CMA/SPDM (1), the
last naming no next one; its encoding is PCI Express's (log entry 34). -/
def execDoeDiscovery (port : Fin 2) (index : Fin 256) (s : State) : Host.Outcome State Fault Refusal :=
  s.run (fun p =>
    if !p.barServed port then p
    else
      let kind : Nat := if index = 0 then 0 else if index = 1 then 1 else 0xFF
      let vendor : Nat := if kind = 0xFF then 0xFFFF else 1
      { p with reply := .bytes (leBytes 2 vendor ++ leBytes 1 kind ++ leBytes 1 (if index = 0 then 1 else 0)) })

end Sys2Proof.Machine
end

