-- ==== Sys2Proof/Machine/Mgmt.lean ====
section
/-! DEFINITION. The management interfaces: SPDM over DOE and SMBus (R545 to R548), MCTP control and PLDM (R531, R532, R574), the
SMBus alert and timeout (R568, R574), and the test access port (R550). Messages are DMTF's; a part of one that the spec does
not lay out is `Config.message` (log entry 35). -/

namespace Sys2Proof.Machine

/-! ### SPDM (R546 to R548) -/

/-- Whether a transport is served: 0 and 1 the DOE mailboxes of the ports, 2 MCTP on SMBus. -/
def Part.spdmServed (p : Part) (t : Nat) : Bool := if t < 2 then p.barServed t else p.alive

/-- The version a transport negotiated, 0 for none, and whether its algorithms are. -/
def Part.spdm (p : Part) (t : Nat) : Nat × Bool := Tab.get (0, false) p.mgmt.spdm t

def Part.setSpdm (p : Part) (t : Nat) (x : Nat × Bool) : Part :=
  { p with mgmt := { p.mgmt with spdm := Tab.set (0, false) p.mgmt.spdm t x } }

/-- The answer to a request that is not supported now. -/
def spdmError : Reply := .bytes (Config.message 0 [])

/-- Serve a request on a transport. -/
def State.runSpdm (s : State) (t : Nat) (f : Part → Part) : Host.Outcome State Fault Refusal :=
  s.run (fun p => if p.spdmServed t then f p else p)

/-- GET_VERSION: 1.2, 1.3 and 1.4; negotiation begins again. -/
def execGetVersion (t : Fin 3) (s : State) : Host.Outcome State Fault Refusal :=
  s.runSpdm t (fun p => { p.setSpdm t (0, false) with reply := .bytes [0x12, 0x13, 0x14] })

/-- GET_CAPABILITIES in version 1.2 + `v`: the connection takes that version. -/
def execGetCapabilities (t v : Fin 3) (s : State) : Host.Outcome State Fault Refusal :=
  s.runSpdm t (fun p => { p.setSpdm t (0x12 + v.val, false) with reply := .bytes (Config.message 1 [BitVec.ofNat 8 (0x12 + v.val)]) })

/-- NEGOTIATE_ALGORITHMS: SHA-384 is the one hash, so it must be offered. -/
def execNegotiateAlgorithms (t : Fin 3) (sha384 : Bool) (s : State) : Host.Outcome State Fault Refusal :=
  s.runSpdm t (fun p =>
    let v := (p.spdm t).1
    if v = 0 ∨ !sha384 then { p with reply := spdmError }
    else { p.setSpdm t (v, true) with reply := .bytes (Config.message 2 [BitVec.ofNat 8 v]) })

/-- Certificate slots offered: 0 the Ed25519 chain, and 1 the ML-DSA-65 chain when 1.4 is negotiated (R547). -/
def Part.spdmSlots (p : Part) (t : Nat) : List Nat := if (p.spdm t).1 = 0x14 then [0, 1] else [0]

/-- The chain of a slot (R546): from the identity certificate region, completed by the alias certificate, which changes with the
image body (R545). -/
def Part.certChain (p : Part) (slot : Nat) : List Byte :=
  Config.message 3 (BitVec.ofNat 8 slot :: p.flash.read 0x6_0000 0x2_0000 ++ imgDigest p.runningHeader)

/-- A request after negotiation. -/
def Part.spdmAnswer (p : Part) (t : Nat) (ok : Bool) (f : Unit → List Byte) : Part :=
  { p with reply := if (p.spdm t).2 && ok then .bytes (f ()) else spdmError }

/-- GET_DIGESTS: SHA-384 of each chain offered. -/
def execGetDigests (t : Fin 3) (s : State) : Host.Outcome State Fault Refusal :=
  s.runSpdm t (fun p => p.spdmAnswer t true (fun _ => (p.spdmSlots t).flatMap (fun i => Config.sha384 (p.certChain i))))

/-- GET_CERTIFICATE: a portion of a chain. -/
def execGetCertificate (t : Fin 3) (slot : Fin 8) (off len : Fin 65536) (s : State) : Host.Outcome State Fault Refusal :=
  s.runSpdm t (fun p => p.spdmAnswer t ((p.spdmSlots t).contains slot.val) (fun _ => ((p.certChain slot).drop off).take len))

/-- The measurements (R548), 1 to 6. Index 6 lists its fields in order, floors as 4 bytes. -/
def Part.measurement (p : Part) (i : Nat) : List Byte :=
  let h := p.runningHeader
  let body := slotBase (p.get Fld.FW_STATUS.RUNNING_SLOT 0) + 0x1000
  match i with
  | 1 => Config.sha384 (Config.message 4 [])
  | 2 => Config.sha384 (imgDigest h ++ leBytes 4 (imgVersion h) ++ leBytes 4 (imgRollback h))
  | 3 => Config.sha384 (p.flash.read (0x5_0000 + 0x1000 * p.flash.gradeCopy) 3584)
  | 4 => Config.sha384 (p.flash.read (body + fieldAt h 0x18 4) (fieldAt h 0x1C 4))
  | 5 => Config.sha384 ((List.range 32).flatMap (fun k => leBytes 8 (p.rd .DISABLED_MAP k).toNat))
  | _ => [p.get Fld.FW_STATUS.RUNNING_SLOT 0, p.get Fld.START_STATUS.SAFE_MODE 0, p.get Fld.START_STATUS.DEBUG_OPEN 0,
      p.get Fld.START_STATUS.DEBUG_SCOPE 0].map (BitVec.ofNat 8) ++ leBytes 4 p.flash.rollbackFloor ++ leBytes 4 p.flash.rootFloor

/-- The measurements asked for: 0 none, 1 to 6 one, 255 all. -/
def Part.measured (_ : Part) (i : Nat) : List Nat := if i = 255 then [1, 2, 3, 4, 5, 6] else if 1 ≤ i ∧ i ≤ 6 then [i] else []

/-- CHALLENGE: digest of the chain, the measurements and the nonce, signed with the alias key of the slot. -/
def execChallenge (t : Fin 3) (slot : Fin 8) (nonce : List Byte) (s : State) : Host.Outcome State Fault Refusal :=
  whenWf (Instr.wf (.challenge t slot nonce)) <|
  s.runSpdm t (fun p => p.spdmAnswer t ((p.spdmSlots t).contains slot.val) (fun _ =>
    let m := Config.sha384 (p.certChain slot) ++ Config.sha384 ((p.measured 255).flatMap p.measurement) ++ nonce
    m ++ Config.sign (BitVec.ofNat 8 slot.val :: imgDigest p.runningHeader) m))

/-- GET_MEASUREMENTS, signed when a nonce comes with it. -/
def execGetMeasurements (t : Fin 3) (index : Fin 256) (nonce : Option (List Byte)) (s : State) : Host.Outcome State Fault Refusal :=
  whenWf (Instr.wf (.getMeasurements t index nonce)) <|
  s.runSpdm t (fun p => p.spdmAnswer t (index == 0 || !(p.measured index).isEmpty) (fun _ =>
    let m := if index = 0 then [6] else (p.measured index).flatMap p.measurement
    match nonce with
    | none => m
    | some n => m ++ n ++ Config.sign (0 :: imgDigest p.runningHeader) (m ++ n)))

/-! ### MCTP control and PLDM on SMBus (R531, R532, R574) -/

/-- Mask ROM answers in a C4 that failed in safe mode, for slot R alone (R531). -/
def Part.romAnswers (p : Part) : Bool :=
  p.run == .failed && p.get Fld.START_STATUS.SAFE_MODE 0 == 1 && p.get Fld.START_STATUS.STOP_STEP 0 == 4

/-- MCTP_CONTROL: the bus owner may assign the endpoint number (R574). -/
def execMctpControl (eid : Option (Fin 256)) (s : State) : Host.Outcome State Fault Refusal :=
  s.run (fun p =>
    if !p.alive && !p.romAnswers then p
    else
      let e := (eid.map (·.val)).getD p.mgmt.eid
      { p with mgmt := { p.mgmt with eid := e }, reply := .bytes (Config.message 5 [BitVec.ofNat 8 e]) })

/-- PLDM_FIRMWARE_UPDATE: an image for a component, slots A (0) and B (1) in safe mode, slot R (2) before mask ROM. -/
def execPldmFirmwareUpdate (slot : Fin 3) (image : List Byte) (x back : ImageFacts) (s : State) :
    Host.Outcome State Fault Refusal :=
  s.run (fun p =>
    if (p.safeMode && slot != 2) || (p.romAnswers && slot == 2) then
      let q := if p.updating then p else p.updateImage image slot x back
      { q with reply := .data (if p.updating then Status.busy.code else q.get Fld.FW_STATUS.UPDATE_STATUS 0) }
    else p)

/-- ACTIVATE_FIRMWARE: FAIL_COUNT is cleared and a cold start begins (R532). -/
def execActivateFirmware (x : StartFacts) (s : State) : Host.Outcome State Fault Refusal :=
  whenWf (Instr.wf (.activateFirmware x)) <|
  s.run (fun p => if p.safeMode || p.romAnswers then p.retryStart x else p)

/-- The sensors of R574: 0 package power; 1 + 3 r + k rail r's voltage, current or power; 49 the hottest cluster; 50 to 53 base
dies; 54 to 65 stacks; 66 the lowest cluster level; 67 the throttle reasons (log entry 36). -/
def Part.sensor (p : Part) (n : Nat) : Nat :=
  if n = 0 then p.get Fld.POWER_STATUS.PKG_POWER_W 0
  else if n ≤ 48 then
    let r := (n - 1) / 3
    let v := p.get Fld.RAIL_STATUS.VOLTAGE r
    let i := p.get Fld.RAIL_STATUS.CURRENT r
    if (n - 1) % 3 = 0 then v else if (n - 1) % 3 = 1 then i else v * i
  else if n = 49 then (List.range 32).foldl (fun m k => max m (p.get Fld.CLUSTER_POWER.TEMP k)) 0
  else if n ≤ 53 then p.get Fld.DIE_TEMP.BASE_TEMP (n - 50)
  else if n ≤ 65 then bits (p.rd .DIE_TEMP ((n - 54) / 3)).toNat (16 * ((n - 54) % 3) + 31) (16 * ((n - 54) % 3) + 16)
  else if n = 66 then (List.range 32).foldl (fun m k => min m (p.level k)) 16
  else p.reasons

/-- PLDM_PLATFORM_MONITORING: a sensor is read. -/
def execPldmPlatformMonitoring (n : Fin 68) (s : State) : Host.Outcome State Fault Refusal :=
  s.runReady (fun p => { p with reply := .data (p.sensor n) })

/-- ALERT_RESPONSE_READ: the part answers with its address, and SMB_ALERT_N clears (R574). -/
def execAlertResponseRead (s : State) : Host.Outcome State Fault Refusal :=
  s.run (fun p => if p.pins.smbAlertN then p else { p with pins := { p.pins with smbAlertN := true }, reply := .data 0x4A })

/-- SMBUS_CLOCK_TIMEOUT: the bus is released and its interface reset (R568); between commands it holds nothing to lose. -/
def execSmbusClockTimeout (s : State) : Host.Outcome State Fault Refusal := s.run (fun p => p)

/-! ### The test access port (R550) -/

/-- The TAP takes an instruction. -/
def Part.tap (p : Part) (n : Nat) : Part := { p with mgmt := { p.mgmt with tapInstr := n } }

/-- UNLOCK_INSTRUMENT: a DEBUG object is shifted in. -/
def execUnlockInstrument (obj : List Byte) (x : CertFacts) (s : State) : Host.Outcome State Fault Refusal :=
  s.run (fun p =>
    let p := p.tap 4
    if !p.alive then p
    else
      let r := p.debugUnlock obj x
      { r.1 with reply := .data r.2.code })

/-- BYPASS. -/
def execBypass (s : State) : Host.Outcome State Fault Refusal := s.run (fun p => p.tap 1)

/-- IDCODE: the 32-bit code is shifted out. -/
def execIdcode (s : State) : Host.Outcome State Fault Refusal :=
  s.run (fun p => { p.tap 0 with reply := .data Config.idcode.toNat })

/-- SAMPLE/PRELOAD: what the boundary register samples is not laid out. -/
def execSamplePreload (s : State) : Host.Outcome State Fault Refusal :=
  s.run (fun p => { p.tap 2 with reply := .data (Config.freeNat p.draw), draw := p.draw + 1 })

/-- EXTEST, accepted only while RESET_N is low. -/
def execExtest (s : State) : Host.Outcome State Fault Refusal := s.run (fun p => if p.pins.resetN then p else p.tap 3)

end Sys2Proof.Machine
end

