-- ==== Sys2Proof/Machine/Dispatch.lean ====
section
/-! DEFINITION. The meaning of every command: one arm per constructor, each one call of its meaning. -/

namespace Sys2Proof.Machine

/-- The effect of a command on everything but the queue of commands. -/
def exec (i : Instr) (s : State) : Host.Outcome State Fault Refusal :=
  match i with
  | .nop c => Sys2Proof.Machine.execNop c s
  | .add c => Sys2Proof.Machine.execAdd c s
  | .sub c => Sys2Proof.Machine.execSub c s
  | .and c => Sys2Proof.Machine.execAnd c s
  | .or c => Sys2Proof.Machine.execOr c s
  | .xor c => Sys2Proof.Machine.execXor c s
  | .shl c => Sys2Proof.Machine.execShl c s
  | .shr c => Sys2Proof.Machine.execShr c s
  | .sra c => Sys2Proof.Machine.execSra c s
  | .mul c => Sys2Proof.Machine.execMul c s
  | .slt c => Sys2Proof.Machine.execSlt c s
  | .sltu c => Sys2Proof.Machine.execSltu c s
  | .addi c => Sys2Proof.Machine.execAddi c s
  | .ori c => Sys2Proof.Machine.execOri c s
  | .lih c => Sys2Proof.Machine.execLih c s
  | .ld c => Sys2Proof.Machine.execLd c s
  | .st c => Sys2Proof.Machine.execSt c s
  | .beq c => Sys2Proof.Machine.execBeq c s
  | .bne c => Sys2Proof.Machine.execBne c s
  | .blt c => Sys2Proof.Machine.execBlt c s
  | .bge c => Sys2Proof.Machine.execBge c s
  | .jal c => Sys2Proof.Machine.execJal c s
  | .jr c => Sys2Proof.Machine.execJr c s
  | .tdLd c => Sys2Proof.Machine.execTdLd c s
  | .tdSt c => Sys2Proof.Machine.execTdSt c s
  | .tdAdv c => Sys2Proof.Machine.execTdAdv c s
  | .crRd c => Sys2Proof.Machine.execCrRd c s
  | .crWr c => Sys2Proof.Machine.execCrWr c s
  | .brk c => Sys2Proof.Machine.execBrk c s
  | .mtxMac c => Sys2Proof.Machine.execMtxMac c s
  | .mtxL1 c => Sys2Proof.Machine.execMtxL1 c s
  | .mtxL2s c => Sys2Proof.Machine.execMtxL2s c s
  | .mtxMinp c => Sys2Proof.Machine.execMtxMinp c s
  | .mtxMaxp c => Sys2Proof.Machine.execMtxMaxp c s
  | .mtxEqc c => Sys2Proof.Machine.execMtxEqc c s
  | .mtxGtc c => Sys2Proof.Machine.execMtxGtc c s
  | .accClr c => Sys2Proof.Machine.execAccClr c s
  | .accLd c => Sys2Proof.Machine.execAccLd c s
  | .accDrain c => Sys2Proof.Machine.execAccDrain c s
  | .relaySend c => Sys2Proof.Machine.execRelaySend c s
  | .relayRecv c => Sys2Proof.Machine.execRelayRecv c s
  | .vAdd c => Sys2Proof.Machine.execVAdd c s
  | .vSub c => Sys2Proof.Machine.execVSub c s
  | .vMul c => Sys2Proof.Machine.execVMul c s
  | .vFma c => Sys2Proof.Machine.execVFma c s
  | .vAbs c => Sys2Proof.Machine.execVAbs c s
  | .vNeg c => Sys2Proof.Machine.execVNeg c s
  | .vMin c => Sys2Proof.Machine.execVMin c s
  | .vMax c => Sys2Proof.Machine.execVMax c s
  | .vCmp c => Sys2Proof.Machine.execVCmp c s
  | .vSel c => Sys2Proof.Machine.execVSel c s
  | .vCvt c => Sys2Proof.Machine.execVCvt c s
  | .vRsum c => Sys2Proof.Machine.execVRsum c s
  | .vRmax c => Sys2Proof.Machine.execVRmax c s
  | .vRmin c => Sys2Proof.Machine.execVRmin c s
  | .vAmax c => Sys2Proof.Machine.execVAmax c s
  | .vExp2 c => Sys2Proof.Machine.execVExp2 c s
  | .vLog2 c => Sys2Proof.Machine.execVLog2 c s
  | .vRcp c => Sys2Proof.Machine.execVRcp c s
  | .vRsqrt c => Sys2Proof.Machine.execVRsqrt c s
  | .vSin c => Sys2Proof.Machine.execVSin c s
  | .vCos c => Sys2Proof.Machine.execVCos c s
  | .movD c => Sys2Proof.Machine.execMovD c s
  | .movFadd c => Sys2Proof.Machine.execMovFadd c s
  | .movIadd c => Sys2Proof.Machine.execMovIadd c s
  | .pgAlloc c => Sys2Proof.Machine.execPgAlloc c s
  | .pgFree c => Sys2Proof.Machine.execPgFree c s
  | .pgOffload c => Sys2Proof.Machine.execPgOffload c s
  | .pgPrefetch c => Sys2Proof.Machine.execPgPrefetch c s
  | .pgPin c => Sys2Proof.Machine.execPgPin c s
  | .wait c => Sys2Proof.Machine.execWait c s
  | .sig c => Sys2Proof.Machine.execSig c s
  | .fenceAcq c => Sys2Proof.Machine.execFenceAcq c s
  | .fenceRel c => Sys2Proof.Machine.execFenceRel c s
  | .spanBegin c => Sys2Proof.Machine.execSpanBegin c s
  | .spanCommit c => Sys2Proof.Machine.execSpanCommit c s
  | .taskEnd c => Sys2Proof.Machine.execTaskEnd c s
  | .warm c => Sys2Proof.Machine.execWarm c s
  | .launchAt c => Sys2Proof.Machine.execLaunchAt c s
  | .queueIssue c u => Sys2Proof.Machine.execQueueIssue c u s
  | .instructionComplete c u idx err ferr => Sys2Proof.Machine.execInstructionComplete c u idx err ferr s
  | .relayWaitTimeout c e idx => Sys2Proof.Machine.execRelayWaitTimeout c e idx s
  | .bankWindowAccess a => Sys2Proof.Machine.execBankWindowAccess a s
  | .keeperWindowExpiry e => Sys2Proof.Machine.execKeeperWindowExpiry e s
  | .keeperLaneFall e => Sys2Proof.Machine.execKeeperLaneFall e s
  | .keeperLaneRise e => Sys2Proof.Machine.execKeeperLaneRise e s
  | .governorHoldRelease d => Sys2Proof.Machine.execGovernorHoldRelease d s
  | .lsaRelease d => Sys2Proof.Machine.execLsaRelease d s
  | .engineParityFault e => Sys2Proof.Machine.execEngineParityFault e s
  | .veParityFault c => Sys2Proof.Machine.execVeParityFault c s
  | .postWindowWrite port k w v => Sys2Proof.Machine.execPostWindowWrite port k w v s
  | .watchReport c idx => Sys2Proof.Machine.execWatchReport c idx s
  | .taskPull c => Sys2Proof.Machine.execTaskPull c s
  | .taskStart c => Sys2Proof.Machine.execTaskStart c s
  | .slotRelease port k slot => Sys2Proof.Machine.execSlotRelease port k slot s
  | .tokenPoke port c v => Sys2Proof.Machine.execTokenPoke port c v s
  | .gaitCtrlWrite port k v => Sys2Proof.Machine.execGaitCtrlWrite port k v s
  | .xlateInvalGo port d v => Sys2Proof.Machine.execXlateInvalGo port d v s
  | .xlateInvalComplete d => Sys2Proof.Machine.execXlateInvalComplete d s
  | .remoteModeWrite port d mode => Sys2Proof.Machine.execRemoteModeWrite port d mode s
  | .remoteModeChangeComplete d => Sys2Proof.Machine.execRemoteModeChangeComplete d s
  | .scrubPass d flips => Sys2Proof.Machine.execScrubPass d flips s
  | .pagerOffloadComplete h => Sys2Proof.Machine.execPagerOffloadComplete h s
  | .pagerPrefetchComplete h => Sys2Proof.Machine.execPagerPrefetchComplete h s
  | .demandLimitExpiry a => Sys2Proof.Machine.execDemandLimitExpiry a s
  | .moverAdmit d => Sys2Proof.Machine.execMoverAdmit d s
  | .moverTransferComplete d id => Sys2Proof.Machine.execMoverTransferComplete d id s
  | .updatePassStart d => Sys2Proof.Machine.execUpdatePassStart d s
  | .updateRoundWrite d parity => Sys2Proof.Machine.execUpdateRoundWrite d parity s
  | .updatePassComplete d => Sys2Proof.Machine.execUpdatePassComplete d s
  | .routerFrame d ins bad => Sys2Proof.Machine.execRouterFrame d ins bad s
  | .bounceHoldExpiry d idx => Sys2Proof.Machine.execBounceHoldExpiry d idx s
  | .writePacket d => Sys2Proof.Machine.execWritePacket d s
  | .relayPacket d => Sys2Proof.Machine.execRelayPacket d s
  | .sigPacket d => Sys2Proof.Machine.execSigPacket d s
  | .postPacket d id => Sys2Proof.Machine.execPostPacket d id s
  | .ack d => Sys2Proof.Machine.execAck d s
  | .nack d => Sys2Proof.Machine.execNack d s
  | .releasePacket d => Sys2Proof.Machine.execReleasePacket d s
  | .probe q node far crcOk fecOk => Sys2Proof.Machine.execProbe q node far crcOk fecOk s
  | .timesync m => Sys2Proof.Machine.execTimesync m s
  | .ackDelayExpiry idx => Sys2Proof.Machine.execAckDelayExpiry idx s
  | .gapWaitExpiry idx j => Sys2Proof.Machine.execGapWaitExpiry idx j s
  | .resendTimeout d idx => Sys2Proof.Machine.execResendTimeout d idx s
  | .releaseWaitExpiry d idx => Sys2Proof.Machine.execReleaseWaitExpiry d idx s
  | .recordHoldExpiry d idx => Sys2Proof.Machine.execRecordHoldExpiry d idx s
  | .portEnable port q mode => Sys2Proof.Machine.execPortEnable port q mode s
  | .portDisable port q mode => Sys2Proof.Machine.execPortDisable port q mode s
  | .portTrainingComplete q lanes delay => Sys2Proof.Machine.execPortTrainingComplete q lanes delay s
  | .portTestComplete q => Sys2Proof.Machine.execPortTestComplete q s
  | .portDown q => Sys2Proof.Machine.execPortDown q s
  | .bankConfirm port d b v => Sys2Proof.Machine.execBankConfirm port d b v s
  | .epochFlipAtWrite port m => Sys2Proof.Machine.execEpochFlipAtWrite port m s
  | .epochFlip => Sys2Proof.Machine.execEpochFlip s
  | .epochBankReopen => Sys2Proof.Machine.execEpochBankReopen s
  | .bundleRetireLive d idx => Sys2Proof.Machine.execBundleRetireLive d idx s
  | .retirementNoticeAck d idx flashOk => Sys2Proof.Machine.execRetirementNoticeAck d idx flashOk s
  | .meridianDieCompare behind d1 d2 d3 => Sys2Proof.Machine.execMeridianDieCompare behind d1 d2 d3 s
  | .pllLocked => Sys2Proof.Machine.execPllLocked s
  | .holdoverEntry => Sys2Proof.Machine.execHoldoverEntry s
  | .surveyGo port v => Sys2Proof.Machine.execSurveyGo port v s
  | .timesyncRetry => Sys2Proof.Machine.execTimesyncRetry s
  | .surveyTimeout => Sys2Proof.Machine.execSurveyTimeout s
  | .jobOffsetWrite port v => Sys2Proof.Machine.execJobOffsetWrite port v s
  | .slewEnd => Sys2Proof.Machine.execSlewEnd s
  | .digestRecordReceive d => Sys2Proof.Machine.execDigestRecordReceive d s
  | .tandemWaitExpiry idx => Sys2Proof.Machine.execTandemWaitExpiry idx s
  | .mismatchNotice d => Sys2Proof.Machine.execMismatchNotice d s
  | .tandemRelease port v => Sys2Proof.Machine.execTandemRelease port v s
  | .pairEnable port d idx v => Sys2Proof.Machine.execPairEnable port d idx v s
  | .replayDecision c => Sys2Proof.Machine.execReplayDecision c s
  | .coreExchange c => Sys2Proof.Machine.execCoreExchange c s
  | .helperWaitExpiry c => Sys2Proof.Machine.execHelperWaitExpiry c s
  | .decisionDrainCompare c => Sys2Proof.Machine.execDecisionDrainCompare c s
  | .pairMismatchDecision c => Sys2Proof.Machine.execPairMismatchDecision c s
  | .farrierTestDue c => Sys2Proof.Machine.execFarrierTestDue c s
  | .farrierTestStart d => Sys2Proof.Machine.execFarrierTestStart d s
  | .farrierTestEnd d fails => Sys2Proof.Machine.execFarrierTestEnd d fails s
  | .dueWindowExpiry c => Sys2Proof.Machine.execDueWindowExpiry c s
  | .testNow port d n => Sys2Proof.Machine.execTestNow port d n s
  | .defer port d n => Sys2Proof.Machine.execDefer port d n s
  | .partnerCopyStart => Sys2Proof.Machine.execPartnerCopyStart s
  | .partnerCopyComplete d => Sys2Proof.Machine.execPartnerCopyComplete d s
  | .partnerCopyFail d => Sys2Proof.Machine.execPartnerCopyFail d s
  | .partnerPairing port v => Sys2Proof.Machine.execPartnerPairing port v s
  | .partnerPeerTimeout => Sys2Proof.Machine.execPartnerPeerTimeout s
  | .remountGo port d v => Sys2Proof.Machine.execRemountGo port d v s
  | .remountComplete d => Sys2Proof.Machine.execRemountComplete d s
  | .bar2Read port off n => Sys2Proof.Machine.execBar2Read port off n s
  | .bar2Write port off data => Sys2Proof.Machine.execBar2Write port off data s
  | .streamDoorbell port k v => Sys2Proof.Machine.execStreamDoorbell port k v s
  | .launch port k err => Sys2Proof.Machine.execLaunch port k err s
  | .copy port k => Sys2Proof.Machine.execCopy port k s
  | .reserve port k => Sys2Proof.Machine.execReserve port k s
  | .mgmt port k x => Sys2Proof.Machine.execMgmt port k x s
  | .query port k => Sys2Proof.Machine.execQuery port k s
  | .registerWrite port off n v x => Sys2Proof.Machine.execRegisterWrite port off n v x s
  | .registerReadClear port off n => Sys2Proof.Machine.execRegisterReadClear port off n s
  | .arbCommitGo port d g => Sys2Proof.Machine.execArbCommitGo port d g s
  | .arbSetApply d g => Sys2Proof.Machine.execArbSetApply d g s
  | .starvationDetect d g inst req => Sys2Proof.Machine.execStarvationDetect d g inst req s
  | .leaseClaim port => Sys2Proof.Machine.execLeaseClaim port s
  | .leaseRenew port => Sys2Proof.Machine.execLeaseRenew port s
  | .leaseRelease port => Sys2Proof.Machine.execLeaseRelease port s
  | .leaseExpiry => Sys2Proof.Machine.execLeaseExpiry s
  | .hostLinkDown port => Sys2Proof.Machine.execHostLinkDown port s
  | .functionLevelReset port => Sys2Proof.Machine.execFunctionLevelReset port s
  | .hostCompletionTimeout port r => Sys2Proof.Machine.execHostCompletionTimeout port r s
  | .resetNRelease x => Sys2Proof.Machine.execResetNRelease x s
  | .startStepTimeout x => Sys2Proof.Machine.execStartStepTimeout x s
  | .resetNAssert => Sys2Proof.Machine.execResetNAssert s
  | .perstDeassert port => Sys2Proof.Machine.execPerstDeassert port s
  | .warmStart port x => Sys2Proof.Machine.execWarmStart port x s
  | .retry port x => Sys2Proof.Machine.execRetry port x s
  | .rollbackCommit port => Sys2Proof.Machine.execRollbackCommit port s
  | .rootRetire port root => Sys2Proof.Machine.execRootRetire port root s
  | .fwUpdateGo port v => Sys2Proof.Machine.execFwUpdateGo port v s
  | .fwUpdateComplete x back => Sys2Proof.Machine.execFwUpdateComplete x back s
  | .submit port x => Sys2Proof.Machine.execSubmit port x s
  | .getVersion t => Sys2Proof.Machine.execGetVersion t s
  | .getCapabilities t v => Sys2Proof.Machine.execGetCapabilities t v s
  | .negotiateAlgorithms t sha384 => Sys2Proof.Machine.execNegotiateAlgorithms t sha384 s
  | .getDigests t => Sys2Proof.Machine.execGetDigests t s
  | .getCertificate t slot off len => Sys2Proof.Machine.execGetCertificate t slot off len s
  | .challenge t slot nonce => Sys2Proof.Machine.execChallenge t slot nonce s
  | .getMeasurements t index nonce => Sys2Proof.Machine.execGetMeasurements t index nonce s
  | .mctpControl eid => Sys2Proof.Machine.execMctpControl eid s
  | .pldmFirmwareUpdate slot image x back => Sys2Proof.Machine.execPldmFirmwareUpdate slot image x back s
  | .activateFirmware x => Sys2Proof.Machine.execActivateFirmware x s
  | .pldmPlatformMonitoring n => Sys2Proof.Machine.execPldmPlatformMonitoring n s
  | .alertResponseRead => Sys2Proof.Machine.execAlertResponseRead s
  | .smbusClockTimeout => Sys2Proof.Machine.execSmbusClockTimeout s
  | .unlockInstrument obj x => Sys2Proof.Machine.execUnlockInstrument obj x s
  | .bypass => Sys2Proof.Machine.execBypass s
  | .idcode => Sys2Proof.Machine.execIdcode s
  | .samplePreload => Sys2Proof.Machine.execSamplePreload s
  | .extest => Sys2Proof.Machine.execExtest s
  | .levelStep d announce => Sys2Proof.Machine.execLevelStep d announce s
  | .capLoop early => Sys2Proof.Machine.execCapLoop early s
  | .thermalSample temps => Sys2Proof.Machine.execThermalSample temps s
  | .avsbusPoll readings => Sys2Proof.Machine.execAvsbusPoll readings s
  | .avsbusTimeout r => Sys2Proof.Machine.execAvsbusTimeout r s
  | .droopAssert d => Sys2Proof.Machine.execDroopAssert d s
  | .droopDeassert d => Sys2Proof.Machine.execDroopDeassert d s
  | .droopStretchEnd d => Sys2Proof.Machine.execDroopStretchEnd d s
  | .droopStuck d => Sys2Proof.Machine.execDroopStuck d s
  | .throttleAssert => Sys2Proof.Machine.execThrottleAssert s
  | .throttleRelease => Sys2Proof.Machine.execThrottleRelease s
  | .throttleStuck => Sys2Proof.Machine.execThrottleStuck s
  | .refclkPcieLoss port => Sys2Proof.Machine.execRefclkPcieLoss port s
  | .refclkSdLoss => Sys2Proof.Machine.execRefclkSdLoss s
  | .refclkPkgLoss => Sys2Proof.Machine.execRefclkPkgLoss s
  | .pdSwitch port v => Sys2Proof.Machine.execPdSwitch port v s
  | .pdPowerUpComplete n => Sys2Proof.Machine.execPdPowerUpComplete n s
  | .tileStoreClearComplete k => Sys2Proof.Machine.execTileStoreClearComplete k s
  | .counterSnapGo port => Sys2Proof.Machine.execCounterSnapGo port s
  | .counterLatch => Sys2Proof.Machine.execCounterLatch s
  | .halt port c arm => Sys2Proof.Machine.execHalt port c arm s
  | .step port c arm => Sys2Proof.Machine.execStep port c arm s
  | .resume port c arm => Sys2Proof.Machine.execResume port c arm s
  | .dbgSnapGo port c v => Sys2Proof.Machine.execDbgSnapGo port c v s
  | .jobTimeReached c => Sys2Proof.Machine.execJobTimeReached c s
  | .hostLinkUp port speed width patternOk tests => Sys2Proof.Machine.execHostLinkUp port speed width patternOk tests s
  | .configRequest port => Sys2Proof.Machine.execConfigRequest port s
  | .doeDiscovery port index => Sys2Proof.Machine.execDoeDiscovery port index s
  | .droopStuckClear d => Sys2Proof.Machine.execDroopStuckClear d s
  | .peerPairingAnswer feed => Sys2Proof.Machine.execPeerPairingAnswer feed s

end Sys2Proof.Machine
end

