-- ==== Sys2Proof/Safety.lean ====
section
/-! DEFINITION. What the statements mean by a safe state (every byte table in canonical form), by a core that dispatches an
instruction, and by an instruction that has completed at its core. -/

namespace Sys2Proof.Machine

/-- Memory (device and host bytes) in canonical form: addresses rising strictly, no entry equal to what an unlisted address
reads as. -/
def Memory.wf (p : Part) : Bool := Tab.wf 0 p.mem && Tab.wf 0 p.host

/-- The part a command meets: the answer of the last command is gone. -/
def State.met (s : State) : Part := { s.part with reply := .none }

/-- The outcome of a command that leaves the part `t` and the queue as it was. -/
def State.after (s : State) (t : Part) : Host.Outcome State Fault Refusal := .next { s with part := t }

/-- A command answers a next state: the queue as it was, and a part with the property `post`. -/
def Answers (i : Instr) (s : State) (post : Part → Prop) : Prop := ∃ t, exec i s = s.after t ∧ post t

/-- Registers hold what they held, but for the elements named. -/
def RegsBut (p t : Part) (l : List (Reg × Nat)) : Prop :=
  ∀ r i, r.off i ∉ l.map (fun x => x.1.off x.2) → t.rd r i = p.rd r i

/-- A write `d` of element `i` of register `r` reaches the part behind `port` and passes the checks of an order: the port may
write the register, the part serves it, no field is refused (R496, R500). No expiry of the lease is waiting to be announced. -/
structure Accepted (p : Part) (port : Nat) (r : Reg) (i : Nat) (d : BarData) : Prop where
  served : p.barServed port = true
  calm : p.leaseTick = p
  mine : p.mayWrite port r i = true
  shown : p.serves r = true
  sound : p.orderStatus ⟨port, r, i, barMask d, barVal d⟩ = .ok

/-- The outcome of an accepted write: LAST_STATUS of the port reads OK. -/
def Taken (t : Part) (port : Nat) : Prop := t.get Fld.ORDER_RESULT.LAST_STATUS port = 0

/-- Core `c` of a part in service is free to dispatch, fetches the word `w` at its program counter, which leaves the part
`q` (a corrected word, a cached translation), halts for nothing before it, and `w` is a legal instruction (R218, R225, R594). -/
structure Dispatches (p : Part) (c : Nat) (w : Word) (q : Part) : Prop where
  ready : p.ready = true
  free : p.canDispatch c = true
  fetched : p.fetch c = (q, .ok w)
  runs : p.haltsBefore c w = none
  legal : illegal w = false

/-- The rules of an open span let `w` be dispatched (R459), the wait of `w`, if any, is satisfied (R67), and the core is not
single-stepped (a stepped core halts after the instruction, R593). -/
structure MayBegin (q : Part) (c : Nat) (w : Word) : Prop where
  span : q.spanCheck c w 0 = none
  waited : q.waitOk c w = true
  free : (q.core c).stepping = false

/-- Count of counter `k` of a core after an instruction took its wait and gave its signal (R67 to R69): a signal to a core
counter inside an open span is held (R459). -/
def tokenAfter (x : CoreSt) (w : Word) (k : Nat) : Nat :=
  let took := if waitEn w ∧ k = waitTok w then x.token k - 1 else x.token k
  if sigEn w ∧ k = sigTok w ∧ ¬ (x.span.isSome ∧ 32 ≤ k) then min (took + 1) 0xFFFF else took

/-- Nothing but the instruction itself happens at its completion: the counter it signals does not saturate. -/
def Quiet (q : Part) (c : Nat) (w : Word) : Prop := sigEn w = true → (q.core c).token (sigTok w) < 0xFFFF

/-- A sequencer instruction `w` of core `c` completed from `q`, with `x` what its own effect makes of the core and `pc` the
next program counter: its registers are those of `x`, its counters follow R67 to R69, no other core changes, and when
nothing else happens at its completion nothing but the core changed; no wait of its sequencer on a handle is left (R286). -/
structure SeqDone (q t : Part) (c : Nat) (w : Word) (x : CoreSt) (pc : Nat) : Prop where
  g : (t.core c).g = x.g
  td : (t.core c).td = x.td
  controls : (t.core c).seed = x.seed ∧ (t.core c).step = x.step ∧ (t.core c).deny = x.deny
  queues : (t.core c).q = x.q ∧ (t.core c).fly = x.fly
  phase : (t.core c).phase = x.phase
  pc : (t.core c).pc = pc % 2 ^ 48
  order : (t.core c).order = x.order + 1
  tokens : ∀ k, (t.core c).token k = tokenAfter (q.core c) w k
  others : ∀ e, e ≠ c → t.core e = q.core e
  frame : Quiet q c w → t = { q.setSeqWait c SeqWait.reset with cores := t.cores }

/-- Core `c` dispatched the queued instruction `w` (R62, R63, R222): its queue `u` ends with the word, its DVA and the operands
captured now, the program counter moves on, and no wait is taken, no other core and nothing outside the cores changes; no wait of
the sequencer on a handle is left (R286). -/
structure Enqueued (q t : Part) (c : Nat) (w : Word) (u : EUnit) (tds gs : List Nat) : Prop where
  entry : ∃ e, (t.core c).queue u = (q.core c).queue u ++ [e] ∧ e.word = w ∧ e.pc = (q.core c).pc ∧
    e.tds = tds.map (q.core c).tdr ∧ e.gs = gs.map (q.core c).gr ∧ e.seed = (q.core c).seed ∧ e.step = (q.core c).step
  queues : ∀ v, v ≠ u → (t.core c).queue v = (q.core c).queue v
  registers : (t.core c).g = (q.core c).g ∧ (t.core c).td = (q.core c).td ∧ (t.core c).tc = (q.core c).tc
  pc : (t.core c).pc = ((q.core c).pc + 8) % 2 ^ 48
  others : ∀ e, e ≠ c → t.core e = q.core e
  frame : t = { q.setSeqWait c SeqWait.reset with cores := t.cores }

/-- Core `c`, which worked on slot `n`, took a fault with status `st` at `pc` (R245 to R248): it stops, its queues are empty,
its slot is FAULTED with the status, SEQ_FAULT holds the first fault, its registers and every other core's phase stay. -/
structure TookFault (q t : Part) (c n pc : Nat) (st : Status) : Prop where
  phase : (t.core c).phase = .faulted n
  queues : (t.core c).q = []
  registers : (t.core c).g = (q.core c).g ∧ (t.core c).td = (q.core c).td ∧ (t.core c).tc = (q.core c).tc
  slot : (t.slot (clusterOf c) n).st = .faulted ∧ (t.slot (clusterOf c) n).status = st.code ∧
    (t.slot (clusterOf c) n).core = c % 8
  shown : t.get Fld.SEQ_FAULT.VALID c = 1
  first : q.get Fld.SEQ_FAULT.VALID c = 0 →
    t.get Fld.SEQ_FAULT.STATUS c = st.code ∧ t.rd .SEQ_FAULT_PC c = BitVec.ofNat 64 pc
  others : ∀ e, e ≠ c → (t.core e).phase = (q.core e).phase

/-- Command `i` of stream `k` of a port is fetched next and may begin: the stream runs, `cmd` is its 64 bytes with OPCODE `op`
and no reserved bit set, `named` being the fields of its layout, and no BARRIER waits for an earlier one (R512, R513). -/
structure Heads (p : Part) (port k op i : Nat) (cmd : List Byte) (named : List (Nat × Nat)) : Prop where
  ready : p.ready = true
  up : p.linkUp port = true
  on : p.get Fld.STREAM_RING.ENABLE (streamIdx port k) = 1
  runs : p.get Fld.STREAM_STATUS.STATE (streamIdx port k) = 1
  next : p.get Fld.STREAM_STATUS.CONSUMER (streamIdx port k) = i
  more : (p.stream port k).producer ≠ i
  bytes : p.hostBytes port (p.get Fld.STREAM_RING.ADDR (streamIdx port k) * 4096 + 64 * (i % p.streamSize (streamIdx port k))) 64 = cmd
  opcode : fieldAt cmd 0 1 = op
  flags : bits (fieldAt cmd 1 1) 7 3 = 0
  barrier : bit (fieldAt cmd 1 1) 0 = false ∨ (p.stream port k).busy = []
  clean : unnamedSet cmd (headerNamed ++ named) = false

/-- Command `i` was taken and its completion record written (R515): TAG, index, status and VALUE. -/
structure Recorded (p t : Part) (port k i : Nat) (cmd : List Byte) (st : Status) (value : Nat) : Prop where
  taken : t.get Fld.STREAM_STATUS.CONSUMER (streamIdx port k) = (i + 1) % 2 ^ 32
  tag : fieldAt (t.hostBytes port (p.get Fld.STREAM_CPL.ADDR (streamIdx port k) * 4096 + 32 * (i % p.streamSize (streamIdx port k))) 32) 0 4 =
    fieldAt cmd 4 4
  index : fieldAt (t.hostBytes port (p.get Fld.STREAM_CPL.ADDR (streamIdx port k) * 4096 + 32 * (i % p.streamSize (streamIdx port k))) 32) 4 4 = i
  status : fieldAt (t.hostBytes port (p.get Fld.STREAM_CPL.ADDR (streamIdx port k) * 4096 + 32 * (i % p.streamSize (streamIdx port k))) 32) 8 2 =
    st.code
  value : fieldAt (t.hostBytes port (p.get Fld.STREAM_CPL.ADDR (streamIdx port k) * 4096 + 32 * (i % p.streamSize (streamIdx port k))) 32) 16 8 =
    value

end Sys2Proof.Machine
end

