-- ==== Sys2Proof/Certificates/Slice0/Obligations.lean ====
section
/-! DEFINITION. The statements for the provers: what each command does when it completes, what it leaves alone, where it stops,
and rules over the whole machine. `Answers i s post` says that exec answers a next state whose part has the property `post`
and whose queue is the one before; `s.met` is the part the command meets. -/

open Sys2Proof Sys2Proof.Machine

/-- One step takes the command at the front of the queue: it is exec of that command on the state with the queue's rest.
With nothing waiting one nanosecond of the raw meridian passes (the model's choice, log entry 2). -/
def Obligations.StepRunsTheFrontCommand : Prop :=
  ∀ (i : Instr) (rest : List Instr) (p : Part),
    step ⟨p, i :: rest⟩ = exec i ⟨p, rest⟩ ∧ step ⟨p, []⟩ = .next ⟨p.tick, []⟩ ∧
    (p.run = .dead → p.tick = p) ∧ (p.pins.resetN = true → p.pins.refPkg = true → p.run ≠ .dead →
      p.tick.time.raw = (p.time.raw + 1) % 2 ^ 64)

/-- R16, R524: under reset every register holds its Reset column (or, where that gives none, the model's choice, log entry
3), nothing is queued, no memory byte is listed, banks are EMPTY, slots FREE, cores idle with empty queues and counters, and
no port holds the lease. -/
def Obligations.ResetLeavesTheResetColumn : Prop :=
  let p := State.reset.part
  State.reset.pending = [] ∧ p.run = .reset ∧ Memory.wf p = true ∧ (∀ r i, p.rd r i = r.reset i) ∧
    (∀ a, p.byte a = 0) ∧ (∀ c, (p.core c).phase = .idle ∧ (p.core c).q = [] ∧ ∀ t, (p.core c).token t = 0) ∧
    (∀ b, (p.bank b).st = .empty) ∧ (∀ k n, (p.slot k n).st = .free) ∧ (∀ q : Fin 2, p.holdsLease q = false) ∧
    p.get Fld.LEASE_STATUS.HOLDER 0 = 3

/-- Every well-formed command completes: with well-formed commands waiting, a step takes the first one, answers a next state
and leaves the others waiting, so no fault and no refusal ever ends a run; an ill-formed command is refused by name (the
model's choice, log entry 8). -/
def Obligations.EveryWaitingCommandCompletes : Prop :=
  ∀ (s : State),
    ((∀ i ∈ s.pending, Instr.wf i = true) →
      ∃ t, step s = .next t ∧ t.pending = s.pending.tail ∧ ∀ i ∈ t.pending, Instr.wf i = true) ∧
    (∀ i r, s.pending = i :: r → Instr.wf i = false → step s = .refused .illFormed)

/-- R564, R573: a part that lost its clocks stays lost: until RESET_N moves, no command reaches its registers, its memory,
its cores or anything else but the pins, the reply, the management bus and the count of free values drawn. -/
def Obligations.ALostPartStaysLost : Prop :=
  ∀ (i : Instr) (s : State), Instr.wf i = true → s.met.run = .dead → i ≠ .resetNAssert → (∀ x, i ≠ .resetNRelease x) →
    ∃ t, exec i s = s.after t ∧ t = { s.met with pins := t.pins, mgmt := t.mgmt, reply := t.reply, draw := t.draw }

/-- R251: memory stays in canonical form (the model's own form of it): reads and writes of a host through BAR2, whatever
they meet, domains that power up, the clearing of tile stores, scrubbing and reset keep it. -/
def Obligations.MemoryKeepsItsCanonicalForm : Prop :=
  ∀ (s : State), Memory.wf s.met = true →
    let keeps := fun (i : Instr) => Instr.wf i = true → Answers i s fun t => Memory.wf t = true
    (∀ port off l, keeps (.bar2Write port off l)) ∧ (∀ port off n, keeps (.bar2Read port off n)) ∧
    (∀ n, keeps (.pdPowerUpComplete n)) ∧ (∀ k, keeps (.tileStoreClearComplete k)) ∧ (∀ d l, keeps (.scrubPass d l)) ∧
    keeps .resetNAssert

/-- R174, R175: the group sum is that of the table: special values first, then the exact sum of the live terms, each cut to
26 bits below the leading bit of the largest; the order of the terms does not matter. -/
def Obligations.GroupSumsFollowTheTable : Prop :=
  ∀ (ts us : List FVal),
    (ts.Perm us → groupSum ts = groupSum us) ∧
    (ts.any FVal.isNan = true ∨ (.inf false ∈ ts ∧ .inf true ∈ ts) → (groupSum ts).isNan = true) ∧
    (ts.any FVal.isNan = false → .inf false ∈ ts → .inf true ∉ ts → groupSum ts = .inf false) ∧
    (ts.any FVal.isNan = false → .inf true ∈ ts → .inf false ∉ ts → groupSum ts = .inf true) ∧
    ((∀ t ∈ ts, ∃ e, t = .fin true 0 e) → groupSum ts = .fin true 0 0) ∧
    ((∀ t ∈ ts, ∃ s e, t = .fin s 0 e) → (∃ t ∈ ts, ∃ e, t = .fin false 0 e) → groupSum ts = .fin false 0 0) ∧
    (∀ e, (∀ t ∈ ts, t.isFin = true) → (∃ t ∈ ts, t.live = true ∧ t.lead = e) → (∀ t ∈ ts, t.live = true → t.lead ≤ e) →
      groupSum ts = ofSigned ((ts.map (truncTo (e - 26))).sum) (e - 26) false)

/-- R268: errors of one or two stored bits are corrected and errors of three are reported; a word stored for an address that
differs in one or two bits is detected, alone or with one stored bit in error, and so is one that differs in three. -/
def Obligations.CheckCodeKeepsItsGuarantees : Prop :=
  ∀ (u : Upset),
    let n := (List.range 64).countP (fun k => u.data.getLsbD k) + (List.range 16).countP (fun k => u.check.getLsbD k)
    let m := (List.range 28).countP (fun k => u.addr.getLsbD k)
    let bad := ∃ b, eccDecode u = .bad b
    (m = 0 → n = 0 → eccDecode u = .clean) ∧ (m = 0 → 1 ≤ n → n ≤ 2 → eccDecode u = .corrected u.data) ∧
    (m = 0 → n = 3 → bad) ∧ (1 ≤ m → m ≤ 2 → n ≤ 1 → bad) ∧ (m = 3 → n = 0 → bad)

/-- R228: each register-register operation writes its result to RD (g0 discards it), whatever its wait and signal. -/
def Obligations.ScalarOperationsWriteTheirResult : Prop :=
  ∀ (c : Fin 256) (s : State) (w : Word) (q : Part), Dispatches s.met c w q → MayBegin q c w →
    let x := q.core c
    let a := x.gr (fB w)
    let b := x.gr (fC w)
    let sh := b.toNat % 64
    let done := fun (i : Instr) (v : Word) =>
      ∃ t, exec i s = s.after t ∧ SeqDone q t c w (x.setG (fA w) v) (x.pc + 8)
    (opOf w = 0x01 → done (.add c) (a + b)) ∧ (opOf w = 0x02 → done (.sub c) (a - b)) ∧
    (opOf w = 0x03 → done (.and c) (a &&& b)) ∧ (opOf w = 0x04 → done (.or c) (a ||| b)) ∧
    (opOf w = 0x05 → done (.xor c) (a ^^^ b)) ∧ (opOf w = 0x06 → done (.shl c) (a <<< sh)) ∧
    (opOf w = 0x07 → done (.shr c) (a >>> sh)) ∧ (opOf w = 0x08 → done (.sra c) (a.sshiftRight sh)) ∧
    (opOf w = 0x09 → done (.mul c) (BitVec.ofNat 64 (a.toNat * b.toNat))) ∧
    (opOf w = 0x0A → done (.slt c) (if a.toInt < b.toInt then 1 else 0)) ∧
    (opOf w = 0x0B → done (.sltu c) (if a.toNat < b.toNat then 1 else 0))

/-- R228: the operations with an immediate, which is sign-extended for ADDI, zero-extended for ORI and the high half of the
result for LIH; TD.ADV moves the base of a tile descriptor and nothing else of it. -/
def Obligations.ImmediateOperationsWriteTheirResult : Prop :=
  ∀ (c : Fin 256) (s : State) (w : Word) (q : Part), Dispatches s.met c w q → MayBegin q c w →
    let x := q.core c
    let a := x.gr (fB w)
    let done := fun (i : Instr) (y : CoreSt) => ∃ t, exec i s = s.after t ∧ SeqDone q t c w y (x.pc + 8)
    (opOf w = 0x0C → done (.addi c) (x.setG (fA w) (a + (BitVec.ofNat 32 (immOf w)).signExtend 64))) ∧
    (opOf w = 0x0D → done (.ori c) (x.setG (fA w) (a ||| BitVec.ofNat 64 (immOf w)))) ∧
    (opOf w = 0x0E → done (.lih c) (x.setG (fA w) (BitVec.ofNat 64 (immOf w) <<< 32 ||| (a.setWidth 32).setWidth 64))) ∧
    (opOf w = 0x19 → ∃ d, done (.tdAdv c) (x.setTd (fA w) d) ∧
      tdBase d = (tdBase (x.tdr (fA w)) + (a + (BitVec.ofNat 32 (immOf w)).signExtend 64).toNat) % 2 ^ 24 ∧
      d >>> 24 = x.tdr (fA w) >>> 24)

/-- R228: a branch goes to this instruction's DVA + 8 x OFF when RA compares with RB as named, else on to the next; JAL and
JR go where they name, JAL leaving its return address; a JR target that is not a multiple of 8 is a dispatch fault. -/
def Obligations.BranchesAndJumpsGoWhereTheyName : Prop :=
  ∀ (c : Fin 256) (s : State) (w : Word) (q : Part), Dispatches s.met c w q → MayBegin q c w →
    let x := q.core c
    let a := x.gr (fA w)
    let b := x.gr (fB w)
    let dest := branchTo x.pc (BitVec.ofNat 32 (immOf w)).toInt
    let goes := fun (i : Instr) (y : CoreSt) (pc : Nat) => ∃ t, exec i s = s.after t ∧ SeqDone q t c w y pc
    (opOf w = 0x11 → goes (.beq c) x (if a = b then dest else x.pc + 8)) ∧
    (opOf w = 0x12 → goes (.bne c) x (if a = b then x.pc + 8 else dest)) ∧
    (opOf w = 0x13 → goes (.blt c) x (if a.toInt < b.toInt then dest else x.pc + 8)) ∧
    (opOf w = 0x14 → goes (.bge c) x (if a.toInt < b.toInt then x.pc + 8 else dest)) ∧
    (opOf w = 0x15 → goes (.jal c) (x.setG (fA w) (BitVec.ofNat 64 ((x.pc + 8) % 2 ^ 48))) dest) ∧
    (opOf w = 0x16 → b.toNat % 8 = 0 → goes (.jr c) x b.toNat) ∧
    (opOf w = 0x16 → b.toNat % 8 ≠ 0 → exec (.jr c) s = s.after (q.dispatchFault c w (s.met.core c).pc .range false))

/-- R223, R228, R594: NOP and a BRK with breakpoints disarmed do nothing but their wait and signal; CR.RD reads and CR.WR
writes SR_SEED, SR_STEP ([31:0]) and DENY_ORDER_DEP; a number not in the table, and a write of any other register, is a
dispatch fault with RANGE. That CR.WR ignores the other bits of its operand is the model's choice (log entry 16). -/
def Obligations.NopAndControlRegisters : Prop :=
  (∀ (c : Fin 256) (s : State) (w : Word) (q : Part), Dispatches s.met c w q → MayBegin q c w →
     (opOf w = 0x00 → ∃ t, exec (.nop c) s = s.after t ∧ SeqDone q t c w (q.core c) ((q.core c).pc + 8)) ∧
     (opOf w = 0x1C → ∃ t, exec (.brk c) s = s.after t ∧ SeqDone q t c w (q.core c) ((q.core c).pc + 8))) ∧
  (∀ (c : Fin 256) (s : State) (w : Word) (q : Part), Dispatches s.met c w q → MayBegin q c w →
     let x := q.core c
     let n := bits w.toNat 11 0
     let v := x.gr (fB w)
     let done := fun (i : Instr) (y : CoreSt) => ∃ t, exec i s = s.after t ∧ SeqDone q t c w y (x.pc + 8)
     (opOf w = 0x1A → n = 2 → done (.crRd c) (x.setG (fA w) x.seed)) ∧
     (opOf w = 0x1A → n = 3 → done (.crRd c) (x.setG (fA w) (BitVec.ofNat 64 x.step))) ∧
     (opOf w = 0x1A → n = 4 → done (.crRd c) (x.setG (fA w) (if x.deny then 1 else 0))) ∧
     (opOf w = 0x1A → 8 < n → exec (.crRd c) s = s.after (q.dispatchFault c w (s.met.core c).pc .range false)) ∧
     (opOf w = 0x1B → n = 2 → done (.crWr c) { x with seed := v }) ∧
     (opOf w = 0x1B → n = 3 → done (.crWr c) { x with step := v.toNat % 2 ^ 32 }) ∧
     (opOf w = 0x1B → n = 4 → done (.crWr c) { x with deny := v.getLsbD 0 }) ∧
     (opOf w = 0x1B → n ≠ 2 → n ≠ 3 → n ≠ 4 → exec (.crWr c) s = s.after (q.dispatchFault c w (s.met.core c).pc .range false)))

/-- R566, R568: DROOP_N stretches the clusters of its die until 2,000 ns after it deasserts; a pin that is stuck is ignored,
with an alert, until it has been high again. That the end of the stretch is a command that lets the meridian reach its
moment is the model's choice (log entry 7). -/
def Obligations.DroopPinStretchesItsDie : Prop :=
  ∀ (d : Fin 4) (s : State), s.met.ready = true →
    let p := s.met
    let x := p.die d
    (Answers (.droopAssert d) s fun t =>
      Tab.get true t.pins.droopN d = false ∧ (t.die d).droop = (x.droop || !x.droopStuck) ∧
      (t.die d).stretch = (x.stretch || !x.droopStuck) ∧ t = { p with pins := t.pins, dies := t.dies }) ∧
    (Answers (.droopDeassert d) s fun t =>
      Tab.get true t.pins.droopN d = true ∧ (t.die d).droop = false ∧ (t.die d).stretch = x.stretch ∧
      (x.droop = true → (t.die d).lsa = true ∧ (t.die d).stretchAt = p.time.raw ∧
        (t.die d).lsaAt = (if x.lsa then x.lsaAt else p.time.raw)) ∧
      RegsBut p t [(.RAMP_STATUS, d)] ∧ t = { p with pins := t.pins, dies := t.dies, regs := t.regs }) ∧
    (x.stretch = true → x.droop = false → Answers (.droopStretchEnd d) s fun t =>
      (t.die d).stretch = false ∧ (x.stretchAt + 2000 < 2 ^ 64 → x.stretchAt + 2000 ≤ t.time.raw) ∧
      t.time.raw ≤ (t.die d).lsaEnd ∧ (t.die d).lsaAt = x.lsaAt ∧
      t = { p with dies := t.dies, time := t.time }) ∧
    (x.droop = true → Answers (.droopStuck d) s fun t =>
      (t.die d).droop = false ∧ (t.die d).droopStuck = true ∧ t.pins.smbAlertN = false ∧ t.cores = p.cores ∧ t.mem = p.mem) ∧
    (x.droopStuck = true → Tab.get true p.pins.droopN d = true → Answers (.droopStuckClear d) s fun t =>
      (t.die d).droopStuck = false ∧ t = { p with dies := t.dies })

/-- R560, R562, R567, R568: THROTTLE_N limits every cluster while it is low, and low for too long raises one event; a level
step moves each cluster of a die one level towards the level it is allowed, and none runs above the level whose voltage the
die requests; while mean package power exceeds POWER_CAP_W every die goes one level down, never below 4, below 97 % of it
each goes one up as far as MAX_LEVEL, and a die may go one down early on its own estimate. -/
def Obligations.LevelsFollowTheirLimits : Prop :=
  (∀ (s : State), s.met.ready = true →
     let p := s.met
     (Answers .throttleAssert s fun t =>
       t.pins.throttleN = false ∧ t = { p with pins := t.pins } ∧
       ∀ k, t.ownLevel k ≤ p.get Fld.POWER_CTRL.THROTTLE_LEVEL 0) ∧
     (Answers .throttleRelease s fun t =>
       t.pins.throttleN = true ∧ t.pins.throttleTold = false ∧ t = { p with pins := t.pins }) ∧
     (p.pins.throttleN = false → p.pins.throttleTold = false → Answers .throttleStuck s fun t =>
       t.pins.throttleTold = true ∧ t.pins.smbAlertN = false ∧ t.evSeq = (p.evSeq + 1) % 2 ^ 32 ∧ t.cores = p.cores ∧
       t.mem = p.mem)) ∧
  (∀ (d : Fin 4) (announce : Bool) (s : State), s.met.ready = true →
     let p := s.met
     Answers (.levelStep d announce) s fun t =>
       (∀ i : Fin 8,
         let l := p.get Fld.CLUSTER_POWER.LEVEL (8 * d + i)
         let goal := p.allowedLevel (8 * d + i)
         t.get Fld.CLUSTER_POWER.LEVEL (8 * d + i) = if l < goal then l + 1 else if goal < l then l - 1 else l) ∧
       (∀ i : Fin 8, t.get Fld.CLUSTER_POWER.LEVEL (8 * d + i) ≤ (t.die d).voltLevel) ∧
       t = { p with regs := t.regs, dies := t.dies }) ∧
  (∀ (s : State), s.met.ready = true →
     let p := s.met
     let cap := 1000 * p.get Fld.POWER_CTRL.POWER_CAP_W 0
     let most := p.get Fld.POWER_CTRL.MAX_LEVEL 0
     (∀ d : Fin 4, Answers (.capLoop (some d)) s fun t => (t.die d).capLevel = max 4 ((p.die d).capLevel - 1) ∧
       (∀ e : Fin 4, e ≠ d → (t.die e).capLevel = (p.die e).capLevel) ∧ t = { p with dies := t.dies }) ∧
     Answers (.capLoop none) s fun t =>
       (∀ d : Fin 4, (t.die d).capLevel =
         if cap < p.meanPower then max 4 ((p.die d).capLevel - 1)
         else if 100 * p.meanPower < 97 * cap ∧ (p.die d).capLevel < most then (p.die d).capLevel + 1
         else (p.die d).capLevel) ∧
       t = { p with dies := t.dies })

/-- R559, R568: a poll keeps at most ten sums of power and records the readings it accepts; a rail that gives no valid
response has its telemetry lost, with an ENVIRONMENT event. -/
def Obligations.RailTelemetryIsPolledAndLost : Prop :=
  ∀ (r : Fin 16) (mv da : BitVec 16) (s : State), s.met.ready = true →
    let p := s.met
    (p.readingOk r mv.toNat da.toNat = true → Answers (.avsbusPoll [(r, some (mv, da))]) s fun t =>
      t.get Fld.RAIL_STATUS.VOLTAGE r = mv.toNat ∧ t.get Fld.RAIL_STATUS.CURRENT r = da.toNat ∧
      t.get Fld.RAIL_STATUS.FIXED r = 0 ∧ t.get Fld.RAIL_STATUS.TELEMETRY_LOST r = 0 ∧
      t.get Fld.POWER_STATUS.PKG_POWER_W 0 = min (t.meanPower / 1000) 0xFFFF ∧
      p.get Fld.POWER_STATUS.PEAK_POWER_W 0 ≤ t.get Fld.POWER_STATUS.PEAK_POWER_W 0 ∧
      t.power.length ≤ 10 ∧ t = { p with regs := t.regs, power := t.power }) ∧
    (p.readingOk r mv.toNat da.toNat = false → Answers (.avsbusPoll [(r, some (mv, da))]) s fun t =>
      t.get Fld.RAIL_STATUS.VOLTAGE r = p.get Fld.RAIL_STATUS.VOLTAGE r ∧
      t.get Fld.RAIL_STATUS.CURRENT r = p.get Fld.RAIL_STATUS.CURRENT r) ∧
    (p.get Fld.RAIL_STATUS.TELEMETRY_LOST r = 0 → Answers (.avsbusTimeout r) s fun t =>
      t.get Fld.RAIL_STATUS.TELEMETRY_LOST r = 1 ∧ t.pins.smbAlertN = false ∧ t.evSeq = (p.evSeq + 1) % 2 ^ 32 ∧
      t.cores = p.cores ∧ t.mem = p.mem)

/-- R563, R564: a sample shows the temperature of each cluster; a junction at 120 °C or a stack at 105 °C trips the part,
which stops for good; else a cluster whose sensor is at its limit steps one level down, not below 4. -/
def Obligations.ThermalSampleStepsDownOrTrips : Prop :=
  ∀ (temps : List (BitVec 16)) (s : State), s.met.ready = true → temps.length = 48 →
    let p := s.met
    let hit := fun (n : Nat) => (if n < 36 then (1920 : Int) else 1680) ≤ (temps.getD n 0).toInt
    ((∃ n, n < 48 ∧ hit n) → Answers (.thermalSample temps) s fun t =>
      t.run = .dead ∧ t.pins.thermtripN = false ∧ ∃ n, t.trip = some n ∧ n < 48 ∧ hit n) ∧
    ((∀ n, n < 48 → ¬ hit n) → Answers (.thermalSample temps) s fun t =>
      t.run = .ready ∧ (∀ k : Fin 32, t.get Fld.CLUSTER_POWER.TEMP k = (temps.getD k 0).toNat) ∧
      (∀ k : Fin 32, 16 * (p.get Fld.THERM_CTRL.THROTTLE_C 0 : Int) ≤ (temps.getD k 0).toInt →
        t.thermalLevel k = max 4 (p.thermalLevel k - 1)) ∧
      t.cores = p.cores ∧ t.mem = p.mem)

/-- R92, R253, R570, R573: PD_CTRL switches an idle domain off at once and none while it is not idle; a domain switched on
is powered later, its cluster's tile stores then being cleared until the clearing ends; with REFCLK_PKG lost the part is
lost, with REFCLK_SD lost no fabric port carries traffic, and with REFCLK_PCIE lost its host link goes down. -/
def Obligations.DomainsSwitchOnlyWhenIdle : Prop :=
  (∀ (s : State), s.met.ready = true →
     let p := s.met
     (∀ (port : Fin 2) (v : BitVec 64), Accepted p port .PD_CTRL 0 (.full v) → Answers (.pdSwitch port (.full v)) s fun t =>
       Taken t port ∧ ∀ n : Fin 32,
         (bit (p.rd .PD_CTRL 0).toNat n = true → bit v.toNat n = false →
           p.mayGoOff n = true ∧ t.domainOn n = false ∧ ∀ i : Fin 8, (t.core (8 * n + i)).tc = []) ∧
         (bit (p.rd .PD_CTRL 0).toNat n = false → bit v.toNat n = true →
           (t.die (n / 8)).lsa = true ∧ t.domainOn n = p.domainOn n)) ∧
     (∀ n : Fin 40, (n.val < 32 ∨ 36 ≤ n.val) → p.domainOn n = false → bit (p.rd .PD_CTRL 0).toNat (pdBit n) = true →
       Answers (.pdPowerUpComplete n) s fun t =>
         t.domainOn n = true ∧ (n.val < 32 → (t.cluster n).clearing = true) ∧
         (n.val < 32 → ∀ i : Fin 8, ∀ a, a < 0xA0_0000 → t.byte (tileBase (8 * n + i) + a) = 0)) ∧
     (∀ k : Fin 32, p.domainOn k = true → Answers (.tileStoreClearComplete k) s fun t =>
       (t.cluster k).clearing = false ∧ t = { p with clusters := t.clusters })) ∧
  (∀ (s : State), s.met.ready = true →
     let p := s.met
     (Answers .refclkPkgLoss s fun t =>
       t.run = .dead ∧ t.pins.refPkg = false ∧ t.pins.smbAlertN = false ∧ t = { p with run := .dead, pins := t.pins }) ∧
     (Answers .refclkSdLoss s fun t =>
       t.pins.refSd = false ∧ ∀ q : Fin 24, t.portState q = 0) ∧
     (∀ port : Fin 2, p.linkUp port = true → Answers (.refclkPcieLoss port) s fun t => t.linkUp port = false))

/-- R504: a claim gives the lease to the port for PERIOD_MS and counts the change in GEN, a renewal extends it, a release
leaves no holder, and the lease of a holder that lets it lapse reads EXPIRED. -/
def Obligations.LeaseChangesHandsAndExpires : Prop :=
  ∀ (port : Fin 2) (s : State),
    let p := s.met
    let until_ := (p.time.raw + 1000000 * p.get Fld.LEASE_CTRL.PERIOD_MS 0) % 2 ^ 64
    let gen := p.get Fld.LEASE_STATUS.GEN 0
    (Accepted p port .LEASE_ACTION 0 (wordOf 1) → Answers (.leaseClaim port) s fun t =>
      t.get Fld.LEASE_STATUS.HOLDER 0 = port ∧ t.get Fld.LEASE_EXPIRES.EXPIRES 0 = until_ ∧
      t.get Fld.LEASE_STATUS.GEN 0 = (if p.holdsLease port then gen else (gen + 1) % 2 ^ 32) ∧ Taken t port ∧
      t.cores = p.cores ∧ t.mem = p.mem) ∧
    (Accepted p port .LEASE_ACTION 0 (wordOf 2) → Answers (.leaseRenew port) s fun t =>
      t.get Fld.LEASE_STATUS.HOLDER 0 = port ∧ t.get Fld.LEASE_EXPIRES.EXPIRES 0 = until_ ∧
      t.get Fld.LEASE_STATUS.GEN 0 = gen ∧ Taken t port ∧ t = { p with regs := t.regs }) ∧
    (Accepted p port .LEASE_ACTION 0 (wordOf 3) → Answers (.leaseRelease port) s fun t =>
      t.get Fld.LEASE_STATUS.HOLDER 0 = 3 ∧ t.get Fld.LEASE_STATUS.GEN 0 = (gen + 1) % 2 ^ 32 ∧ Taken t port ∧
      t.cores = p.cores ∧ t.mem = p.mem) ∧
    (p.alive = true → p.get Fld.LEASE_STATUS.HOLDER 0 ≠ 3 → Answers .leaseExpiry s fun t =>
      t.leaseExpired = true ∧ t.get Fld.LEASE_STATUS.EXPIRED 0 = 1 ∧ (∀ q : Fin 2, t.holdsLease q = false) ∧
      t.cores = p.cores ∧ t.mem = p.mem)

/-- R415, R500, R503: an order that is refused changes nothing of the part but the order results of its port (and, for a
refused commit of an arbiter, the COMMIT_STATUS of its register). -/
def Obligations.RefusedOrderChangesNothingElse : Prop :=
  ∀ (port : Fin 2) (off n : Nat) (v : BitVec 64) (x : Env) (s : State), Instr.wf (.registerWrite port off n v x) = true →
    let p := s.met
    p.barServed port = true → p.leaseTick = p → barAligned off n = true →
    ∀ r i, Reg.decode (off / 8 * 8) = some (r, i) →
      let d : BarData := if n = 8 then .full v else if off % 8 = 0 then .low (v.setWidth 32) else .high (v.setWidth 32)
      let st := if p.mayWrite port r i = false then Status.notOwner else if p.serves r = false then .range
        else p.orderStatus ⟨port, r, i, barMask d, barVal d⟩
      st ≠ .ok → Answers (.registerWrite port off n v x) s fun t =>
        t.get Fld.ORDER_RESULT.LAST_STATUS port = st.code ∧
        t.get Fld.ORDER_RESULT.FAIL_COUNT port = min (p.get Fld.ORDER_RESULT.FAIL_COUNT port + 1) 0xFF ∧
        (p.get Fld.ORDER_RESULT.FAIL_COUNT port = 0 → t.get Fld.ORDER_RESULT.FAIL_STATUS port = st.code ∧
          t.get Fld.ORDER_RESULT.FAIL_OFFSET port = off / 8) ∧
        (p.get Fld.ORDER_RESULT.FAIL_COUNT port ≠ 0 →
          t.get Fld.ORDER_RESULT.FAIL_STATUS port = p.get Fld.ORDER_RESULT.FAIL_STATUS port ∧
          t.get Fld.ORDER_RESULT.FAIL_OFFSET port = p.get Fld.ORDER_RESULT.FAIL_OFFSET port) ∧
        RegsBut p t (if r = .ARB_COMMIT then [(.ORDER_RESULT, port), (r, i)] else [(.ORDER_RESULT, port)]) ∧ t = { p with regs := t.regs }

/-- R15, R16, R495: an accepted write of one of seventeen registers without an action of their own stores what its fields
store and changes nothing else, and a read answers the register's word; a read of ORDER_RESULT by its port clears the count
it reads. -/
def Obligations.PlainRegistersAreWrittenAndRead : Prop :=
  ∀ (port : Fin 2) (i : Nat) (v : BitVec 64) (x : Env) (s : State) (r : Reg),
    let p := s.met
    let w : BarWr := ⟨port, r, i, barMask (.full v), barVal (.full v)⟩
    r ∈ [Reg.VIEW_SEL, .LEASE_CTRL, .EVQ_BASE, .REPRO_CTRL, .POWER_CTRL, .THERM_CTRL, .ME_CTRL, .VE_CTRL, .RAMP_CTRL,
      .RELAY_CTRL, .PAGER_CTRL, .MOVER_CTRL, .E2E_CTRL, .MEM_ERR_CTRL, .TRACE_BASE, .TRACE_SIZE, .DBG_BP] →
    Reg.decode (r.off i) = some (r, i) → Accepted p port r i (.full v) →
    Instr.wf (.registerWrite port (r.off i) 8 v x) = true →
    (Answers (.registerWrite port (r.off i) 8 v x) s fun t =>
      t.rd r i = p.stored w ∧ Taken t port ∧ RegsBut p t [(r, i), (.ORDER_RESULT, port)] ∧ t = { p with regs := t.regs }) ∧
    (Answers (.registerReadClear port (r.off i) 8) s fun t =>
      t.reply = .data (p.regWord port r i).toNat ∧ t.regs = p.regs ∧ t.mem = p.mem ∧ t.cores = p.cores) ∧
    (∀ q : Fin 2, p.barServed q = true → Answers (.registerReadClear q (Reg.off .ORDER_RESULT q) 8) s fun t =>
      t.reply = .data (p.rd .ORDER_RESULT q).toNat ∧ t.get Fld.ORDER_RESULT.FAIL_COUNT q = 0 ∧
      t.get Fld.ORDER_RESULT.LAST_STATUS q = p.get Fld.ORDER_RESULT.LAST_STATUS q)

/-- R81, R82, R96: words written to the post window stage a descriptor; the word that covers its last byte posts it, and a
posted descriptor takes the lowest free slot, READY when it names no precondition. -/
def Obligations.PostWindowStagesAndPosts : Prop :=
  ∀ (port : Fin 2) (k : Fin 32) (w : Fin 8) (v : BitVec 64) (s : State),
    let p := s.met
    let old := p.stage k (256 + port)
    let now := old.take (8 * w) ++ leBytes 8 v.toNat ++ old.drop (8 * w + 8)
    Accepted p port .POST_WINDOW (8 * k + w) (.full v) → old.length = 64 →
    (w.val < 7 → Answers (.postWindowWrite port k w (.full v)) s fun t =>
      t.stage k (256 + port) = now ∧ t.slots = p.slots ∧ t.clusters = p.clusters) ∧
    (w.val = 7 → ∀ n, p.postStatus k now = .ok → p.freeSlot k = some n →
      Answers (.postWindowWrite port k w (.full v)) s fun t =>
        t.stage k (256 + port) = List.replicate 64 0 ∧ (t.slot k n).desc = now ∧
        (t.slot k n).st = (if descPre now = 0 then .ready else .waiting) ∧
        (t.slot k n).seq = (p.cluster k).postCount ∧ Tab.get (0, 0) t.postRes (stagingKey k (256 + port)) = (0, n)) ∧
    (w.val = 7 → p.postStatus k now ≠ .ok → Answers (.postWindowWrite port k w (.full v)) s fun t =>
        t.slots = p.slots ∧ Tab.get (0, 0) t.postRes (stagingKey k (256 + port)) = ((p.postStatus k now).code, 0))

/-- R84, R101, R354: a poke adds to a counter of a core; a release frees a FAULTED slot and lets its core pull again, and is
a CONFLICT for another slot (the model's choice, log entry 21); a changed GAIT_CTRL begins the step again at its first pair.
-/
def Obligations.HostOrdersToTheDistributor : Prop :=
  ∀ (port : Fin 2) (c : Fin 256) (k : Fin 32) (n : Fin 256) (v : BitVec 64) (s : State),
    let p := s.met
    (Accepted p port .TOKEN_POKE c (.full v) → v.toNat % 256 ≠ 0 → Answers (.tokenPoke port c (.full v)) s fun t =>
      (t.core c).token (Fld.TOKEN_POKE.TOKEN.of v) =
        min ((p.core c).token (Fld.TOKEN_POKE.TOKEN.of v) + Fld.TOKEN_POKE.AMOUNT.of v) 0xFFFF ∧
      (∀ e, e ≠ c.val → t.core e = p.core e) ∧ t.mem = p.mem) ∧
    (p.ready = true → p.linkUp port = true → p.leaseTick = p → p.holdsLease port = true →
      ((p.slot k n).st = .faulted → Answers (.slotRelease port k n) s fun t =>
        (t.slot k n).st = .free ∧ Taken t port ∧
        (∀ i : Fin 8, (p.core (8 * k + i)).phase = .faulted n → (t.core (8 * k + i)).phase = .idle ∧
          (t.core (8 * k + i)).span = none)) ∧
      ((p.slot k n).st ≠ .faulted → Answers (.slotRelease port k n) s fun t =>
        t.get Fld.ORDER_RESULT.LAST_STATUS port = Status.conflict.code ∧ t.slots = p.slots ∧ t.cores = p.cores)) ∧
    (Accepted p port .GAIT_CTRL k (.full v) → Answers (.gaitCtrlWrite port k (.full v)) s fun t =>
      t.rd .GAIT_CTRL k = p.stored ⟨port, .GAIT_CTRL, k, 2 ^ 64 - 1, v.toNat⟩ ∧ Taken t port ∧
      (p.gaitOn k = true → t.rd .GAIT_CTRL k ≠ p.rd .GAIT_CTRL k →
        (t.cluster k).pairIdx = 0 ∧ (t.cluster k).pulled = 0 ∧ (t.cluster k).updDone = 0) ∧
      t = { p with regs := t.regs, clusters := t.clusters })

/-- R256, R279, R570: GO of XLATE_INVAL drops the cached leaves it names, on its die or on all, and is busy until it completes; a
change of REMOTE_MODE empties the cache of the die but for locked lines and is busy until it completes, when the portion is
used as it says; a domain that switches on is announced on LSA. -/
def Obligations.TranslationAndCacheOrders : Prop :=
  ∀ (port : Fin 2) (d : Fin 4) (v : BitVec 64) (mode : Fin 4) (s : State),
    let p := s.met
    (Accepted p port .XLATE_INVAL d (withBit v 0) → p.get Fld.XLATE_INVAL.BUSY d = 0 →
      Answers (.xlateInvalGo port d v) s fun t =>
        t.get Fld.XLATE_INVAL.BUSY d = 1 ∧ Taken t port ∧ t = { p with regs := t.regs, dies := t.dies } ∧
        ∀ e : Fin 4, (e = d ∨ t.get Fld.XLATE_INVAL.ALL_DIES d = 1) → ∀ l ∈ (t.die e).tlb,
          t.get Fld.XLATE_INVAL.COUNT d ≠ 0 ∧
          (l.base + l.size ≤ t.get Fld.XLATE_INVAL.BASE d * 2 ^ 21 ∨
            t.get Fld.XLATE_INVAL.BASE d * 2 ^ 21 + t.get Fld.XLATE_INVAL.COUNT d * 2 ^ 21 ≤ l.base)) ∧
    (p.ready = true → p.get Fld.XLATE_INVAL.BUSY d = 1 → Answers (.xlateInvalComplete d) s fun t =>
      t.get Fld.XLATE_INVAL.BUSY d = 0 ∧ RegsBut p t [(.XLATE_INVAL, d)]) ∧
    (Accepted p port .DCACHE_CTRL d (wordOf mode) → mode.val ≠ 3 → mode.val ≠ p.get Fld.DCACHE_CTRL.REMOTE_MODE d →
      Answers (.remoteModeWrite port d mode) s fun t =>
        t.get Fld.DCACHE_CTRL.REMOTE_MODE d = mode ∧ t.get Fld.MEM_STATUS.MODE_BUSY d = 1 ∧ (t.die d).rlines = [] ∧
        (∀ x ∈ t.lines, whereIs (256 * x.1) = .hbm d → p.isLocked x.1 = true) ∧
        (p.get Fld.DCACHE_CTRL.REMOTE_MODE d = 2 → (t.die d).lsa = true) ∧
        Taken t port ∧ (p.upsets = [] → t.mem = p.mem) ∧ t.cores = p.cores) ∧
    (p.ready = true → p.get Fld.MEM_STATUS.MODE_BUSY d = 1 → p.upsets = [] → Answers (.remoteModeChangeComplete d) s fun t =>
      t.get Fld.MEM_STATUS.MODE_BUSY d = 0 ∧ (t.die d).cacheMode = p.get Fld.DCACHE_CTRL.REMOTE_MODE d ∧
      t.domainOn (32 + d) = (p.get Fld.DCACHE_CTRL.REMOTE_MODE d != 2) ∧
      RegsBut p t [(.MEM_STATUS, d), (.PD_STATUS, 0)] ∧ t.mem = p.mem ∧ t.cores = p.cores)

/-- R586, R593, R596: GO sets the moment of a counter latch, which then takes place; HALT halts a core at its next dispatch,
STEP and RESUME let a halted core go on; a snapshot of a halted core is written to memory through the translation of its die
and changes no register of the core. -/
def Obligations.DebugAndCounterOrders : Prop :=
  ∀ (port : Fin 2) (c : Fin 256) (arm : Fin 2) (s : State),
    let p := s.met
    (Accepted p port .COUNTER_SNAP 0 (wordOf 1) → Answers (.counterSnapGo port) s fun t =>
      t.get Fld.COUNTER_SNAP.PENDING 0 = 1 ∧ t.snapAt % 1024 = 0 ∧ p.time.raw + 2048 ≤ t.snapAt ∧
      t.snapAt < p.time.raw + 3072 ∧ Taken t port) ∧
    (p.ready = true → p.get Fld.COUNTER_SNAP.PENDING 0 = 1 → Answers .counterLatch s fun t =>
      t.get Fld.COUNTER_SNAP.PENDING 0 = 0) ∧
    (Accepted p port .DBG_CTRL c (wordOf (8 * arm + 1)) → p.isHalted c = false → Answers (.halt port c arm) s fun t =>
      t.get Fld.DBG_CTRL.BRK_ARM c = arm ∧ Taken t port ∧
      ((∃ n, (p.core c).phase = .running n) → (p.core c).hold = .none → t.isHalted c = true) ∧
      ((p.core c).phase = .idle → (t.core c).haltReq = true)) ∧
    (Accepted p port .DBG_CTRL c (wordOf (8 * arm + 2)) → Answers (.step port c arm) s fun t =>
      t.isHalted c = false ∧ (t.core c).stepping = true ∧ (t.core c).passBreak = true ∧ Taken t port ∧ t.mem = p.mem) ∧
    (Accepted p port .DBG_CTRL c (wordOf (8 * arm + 3)) → Answers (.resume port c arm) s fun t =>
      t.isHalted c = false ∧ (t.core c).stepping = false ∧ (t.core c).passBreak = true ∧ Taken t port ∧ t.mem = p.mem) ∧
    (∀ v, Accepted p port .DBG_SNAP c (withBit v 0) → Answers (.dbgSnapGo port c v) s fun t =>
      Taken t port ∧ t.get Fld.DBG_SNAP.ADDR c = Fld.DBG_SNAP.ADDR.of v ∧ (t.core c).g = (p.core c).g ∧
      ∀ u k, let q := p.wr .DBG_SNAP c (p.stored ⟨port, .DBG_SNAP, c, barMask (withBit v 0), barVal (withBit v 0)⟩)
        let a := Fld.DBG_SNAP.ADDR.of v * 1024
        q.writeDva (dieOf c) .moverWr a (q.snapshot c) = (u, .ok k) →
          t.mem = (u.wakeBy a (q.snapshot c).length).mem ∧ t.cores = (u.wakeBy a (q.snapshot c).length).cores)

/-- R228, R229: LD reads 8 bytes and TD.LD 16 bytes at the tile-store address RA + IMM of the data region or of an
accumulator window, and either waits while the bank is FILLING (R116); an address that is not aligned, or lies outside the
data region and one window, is a fault with RANGE, a window of a STOPPED engine one with UNCORRECTABLE (R138). -/
def Obligations.LoadsReadTheTileStore : Prop :=
  ∀ (c : Fin 256) (s : State) (w : Word) (q : Part), Dispatches s.met c w q → MayBegin q c w →
    let x := q.core c
    let a := (x.gr (fB w) + (BitVec.ofNat 32 (immOf w)).signExtend 64).toNat
    let done := fun (i : Instr) (y : CoreSt) => ∃ t, exec i s = s.after t ∧ SeqDone q t c w y (x.pc + 8)
    (opOf w = 0x0F → a % 8 = 0 → a + 8 ≤ 0xA0_0000 → q.wordKeys (tileBase c + a) 8 = [] →
      done (.ld c) (x.setG (fA w) (BitVec.ofNat 64 (leNat (q.bytes (tileBase c + a) 8))))) ∧
    (opOf w = 0x17 → a % 16 = 0 → a + 16 ≤ 0xA0_0000 → q.wordKeys (tileBase c + a) 16 = [] →
      done (.tdLd c) (x.setTd (fA w) (BitVec.ofNat 128 (leNat (q.bytes (tileBase c + a) 16))))) ∧
    (let held := fun (i : Instr) => Answers i s fun t =>
        (t.core c).hold = .window w ∧ (t.core c).g = x.g ∧ (t.core c).td = x.td ∧ (t.core c).pc = x.pc ∧
        t = { q with cores := t.cores }
     (opOf w = 0x0F → a % 8 = 0 → ∀ k off, windowOf c a 8 = some (k, off) → (q.engine (q.engineOfBank k)).stopped = false →
       ((q.bank k).st ≠ .filling → done (.ld c) (x.setG (fA w) (BitVec.ofNat 64 (leNat ((q.bank k).bytes off 8))))) ∧
       ((q.bank k).st = .filling → held (.ld c))) ∧
     (opOf w = 0x17 → a % 16 = 0 → ∀ k off, windowOf c a 16 = some (k, off) → (q.engine (q.engineOfBank k)).stopped = false →
       ((q.bank k).st ≠ .filling → done (.tdLd c) (x.setTd (fA w) (BitVec.ofNat 128 (leNat ((q.bank k).bytes off 16))))) ∧
       ((q.bank k).st = .filling → held (.tdLd c)))) ∧
    (∀ n, x.phase = .running n →
      (∀ i m, (opOf w = 0x0F ∧ i = .ld c ∧ m = 8) ∨ (opOf w = 0x17 ∧ i = .tdLd c ∧ m = 16) →
        (a % m ≠ 0 ∨ (inData a m = false ∧ windowOf c a m = none) →
          Answers i s fun t => TookFault (q.takeWait c w) t c n (s.met.core c).pc .range) ∧
        (∀ k off, a % m = 0 → windowOf c a m = some (k, off) → (q.engine (q.engineOfBank k)).stopped = true →
          Answers i s fun t => TookFault (q.takeWait c w) t c n (s.met.core c).pc .uncorrectable)))

/-- R228, R229: ST writes 8 bytes and TD.ST 16 bytes at the tile-store address RA + IMM of the data region, and changes no
other byte of memory and no register; in an accumulator window it leaves the bank FULL with its status clear, or waits while
the bank is FILLING or DRAINING (R116); a guarded range of an open span refuses it (R457), and an address that is not aligned,
or lies outside, is a fault with RANGE. -/
def Obligations.StoresWriteTheTileStore : Prop :=
  ∀ (c : Fin 256) (s : State) (w : Word) (q : Part), Dispatches s.met c w q → MayBegin q c w → Quiet q c w →
    q.follower c = none →
    let x := q.core c
    let a := (x.gr (fB w) + (BitVec.ofNat 32 (immOf w)).signExtend 64).toNat
    let done := fun (i : Instr) (l : List Byte) => Answers i s fun t =>
      (∀ b, b < tileBase c + a ∨ tileBase c + a + l.length ≤ b → t.byte b = q.byte b) ∧
      t.bytes (tileBase c + a) l.length = l ∧
      (t.core c).g = x.g ∧ (t.core c).td = x.td ∧ (t.core c).pc = (x.pc + 8) % 2 ^ 48 ∧
      (∀ e, e ≠ c.val → t.core e = q.core e) ∧ t.regs = q.regs ∧ t.host = q.host
    (opOf w = 0x10 → a % 8 = 0 → a + 8 ≤ 0xA0_0000 → q.wordKeys (tileBase c + a) 8 = [] → q.guardHit c a 8 = false →
      done (.st c) (leBytes 8 (x.gr (fA w)).toNat)) ∧
    (opOf w = 0x18 → a % 16 = 0 → a + 16 ≤ 0xA0_0000 → q.wordKeys (tileBase c + a) 16 = [] → q.guardHit c a 16 = false →
      done (.tdSt c) (leBytes 16 (x.tdr (fA w)).toNat)) ∧
    (∀ i l, (opOf w = 0x10 ∧ i = .st c ∧ l = leBytes 8 (x.gr (fA w)).toNat) ∨
        (opOf w = 0x18 ∧ i = .tdSt c ∧ l = leBytes 16 (x.tdr (fA w)).toNat) →
      (∀ k off, a % l.length = 0 → windowOf c a l.length = some (k, off) → (q.engine (q.engineOfBank k)).stopped = false →
        ((q.bank k).st = .empty ∨ (q.bank k).st = .full → Answers i s fun t =>
          (t.bank k).bytes off l.length = l ∧ (t.bank k).st = .full ∧ (t.bank k).status = 0 ∧ (∀ j, j ≠ k → t.bank j = q.bank j) ∧
          (t.core c).g = x.g ∧ (t.core c).td = x.td ∧ (t.core c).pc = (x.pc + 8) % 2 ^ 48 ∧
          (∀ e, e ≠ c.val → t.core e = q.core e) ∧
          t = { q.setSeqWait c SeqWait.reset with cores := t.cores, banks := t.banks }) ∧
        ((q.bank k).st = .filling ∨ (q.bank k).st = .draining → Answers i s fun t =>
          (t.core c).hold = .window w ∧ (t.core c).g = x.g ∧ (t.core c).td = x.td ∧ (t.core c).pc = x.pc ∧
          t = { q with cores := t.cores })) ∧
      (∀ n, x.phase = .running n →
        (a % l.length ≠ 0 ∨ (inData a l.length = false ∧ windowOf c a l.length = none) → Answers i s fun t =>
          TookFault (q.takeWait c w) t c n (s.met.core c).pc .range) ∧
        (a % l.length = 0 → a + l.length ≤ 0xA0_0000 → q.guardHit c a l.length = true → Answers i s fun t =>
          TookFault (q.takeWait c w) t c n (s.met.core c).pc .protFault)))

/-- R62, R63, R222: every matrix, bank, relay, vector, mover, pager and WARM instruction is captured at the end of its queue
while the queue has room, without taking its wait. -/
def Obligations.QueuedInstructionsEnterTheirQueue : Prop :=
  ∀ (c : Fin 256) (s : State) (w : Word) (q : Part), Dispatches s.met c w q → (q.core c).stepping = false →
    (q.core c).span = none →
    let me : EUnit := if engOf w = 0 then .me0 else .me1
    let sr := fun (conv g : Nat) => if roundOf conv = 2 then [g, g + 1] else []
    let enters := fun (op : Nat) (i : Instr) (u : EUnit) (tds gs : List Nat) =>
      opOf w = op → ((q.core c).queue u).length < (if u = .mover then 64 else 32) →
        ∃ t, exec i s = s.after t ∧ Enqueued q t c w u tds gs
    (∀ x ∈ [(0x20, Instr.mtxMac c), (0x21, .mtxL1 c), (0x22, .mtxL2s c), (0x23, .mtxMinp c), (0x24, .mtxMaxp c),
        (0x25, .mtxEqc c), (0x26, .mtxGtc c)], enters x.1 x.2 me [tdA w, tdB w] []) ∧
    enters 0x30 (.accClr c) me [] [] ∧ enters 0x31 (.accLd c) me [tdA w] [] ∧
    ((roundOf (acConv w) = 2 → acSr w ≠ 31) →
      enters 0x32 (.accDrain c) me [tdA w, acTdC w] (acStat w :: sr (acConv w) (acSr w))) ∧
    enters 0x33 (.relaySend c) me [] [gPart w] ∧ enters 0x34 (.relayRecv c) me [] [gPart w] ∧
    ((roundOf (vConv w) = 2 → vGSr w ≠ 31) →
      ∀ x ∈ [(0x40, Instr.vAdd c), (0x41, .vSub c), (0x42, .vMul c), (0x43, .vFma c), (0x44, .vAbs c), (0x45, .vNeg c),
        (0x46, .vMin c), (0x47, .vMax c), (0x48, .vCmp c), (0x49, .vSel c), (0x4A, .vCvt c), (0x50, .vRsum c),
        (0x51, .vRmax c), (0x52, .vRmin c), (0x58, .vExp2 c), (0x59, .vLog2 c), (0x5A, .vRcp c), (0x5B, .vRsqrt c),
        (0x5C, .vSin c), (0x5D, .vCos c)],
        enters x.1 x.2 .ve [fA w, fB w, fC w, srcC w] ([fB w, fC w, srcC w, vGStat w] ++ sr (vConv w) (vGSr w))) ∧
    enters 0x53 (.vAmax c) .ve [fA w, fB w, fC w, srcC w] [fB w, fC w, srcC w, vGStat w] ∧
    enters 0x60 (.movD c) .mover [] [fA w] ∧
    (fB w ≠ 31 → enters 0x62 (.movIadd c) .mover [fA w] [fB w, fB w + 1]) ∧
    (fB w ≠ 31 → (q.core c).deny = false → q.get Fld.REPRO_CTRL.FORCE_DENY_ORDER_DEP 0 = 0 →
      enters 0x61 (.movFadd c) .mover [fA w] [fB w, fB w + 1]) ∧
    (∀ x ∈ [(0x68, Instr.pgAlloc c), (0x69, .pgFree c), (0x6A, .pgOffload c), (0x6B, .pgPrefetch c), (0x6C, .pgPin c)],
      enters x.1 x.2 .mover [] [fA w, fB w]) ∧
    enters 0x77 (.warm c) me [] []

/-- R64, R67, R70, R113, R201 to R205: the head of a queue issues once its wait is satisfied, with what the heads served
before it leave of its counter, and its unit allows it: the wait is taken, the entry leaves the queue and is in flight; an ACC.CLR leaves its bank FILLING, and its completion leaves the bank
cleared to its identity and FULL; an elementwise vector instruction on scalars writes its FP32 result, and nothing else. -/
def Obligations.QueueHeadsIssueAndComplete : Prop :=
  ∀ (c : Fin 256) (e : QEntry) (r : List QEntry) (s : State),
    let p := s.met
    let x := p.core c
    let w := e.word
    p.ready = true → x.deciding = false → p.follower c = none →
    (∀ u, x.queue u = e :: r → waitEn w = true → p.remainder c (waitTok w) u = 0 → exec (.queueIssue c u) s = s.after p) ∧
    (∀ v : Bool, let u : EUnit := if v then .me1 else .me0
      x.queue u = e :: r → opOf w = 0x30 → engOf w = bnat v → (p.engine (p.physEng c (bnat v))).stopped = false →
      p.waitOk c w = true → (waitEn w = true → p.remainder c (waitTok w) u ≠ 0) → p.engineGone c (bnat v) = false →
      x.portBusy u = false → ((p.bank (bankNo c w)).st = .empty ∨ (p.bank (bankNo c w)).st = .full) →
      Answers (.queueIssue c u) s fun t =>
        (t.core c).queue u = r ∧ (t.core c).flying u = x.flying u ++ [⟨e, some (p.bank (bankNo c w)), none, .run⟩] ∧
        (t.bank (bankNo c w)).st = .filling ∧ (t.bank (bankNo c w)).status = 0 ∧
        (∀ k, (t.core c).token k = if waitEn w ∧ k = waitTok w then x.token k - 1 else x.token k) ∧
        t = { p with cores := t.cores, banks := t.banks }) ∧
    (x.queue .ve = e :: r → (p.ve (p.phys c)).stopped = false → p.waitOk c w = true →
      (waitEn w = true → p.remainder c (waitTok w) .ve ≠ 0) → x.flying .ve = [] → p.coreRetired c = false → vCheck p (dieOf c) e = none → Answers (.queueIssue c .ve) s fun t =>
        (t.core c).queue .ve = r ∧ (t.core c).flying .ve = [⟨e, none, none, .run⟩] ∧ t = { p with cores := t.cores }) ∧
    (∀ v : Bool, let u : EUnit := if v then .me1 else .me0
      ∀ b tw, x.flying u = [⟨e, b, tw, .run⟩] → opOf w = 0x30 → engOf w = bnat v → sigEn w = false → e.inSpan = false →
      (p.engine (p.physEng c (bnat v))).stopped = false → (p.bank (bankNo c w)).st = .filling →
      Answers (.instructionComplete c u 0 [] []) s fun t =>
        (t.core c).flying u = [] ∧ (t.bank (bankNo c w)).st = .full ∧
        (∀ k, (t.bank (bankNo c w)).elem k =
          (if identOf w = 1 then 0x7F800000#32 else if identOf w = 2 then 0xFF800000#32 else 0#32)) ∧
        t.regs = p.regs ∧ t.mem = p.mem) ∧
    (let o := tileOf (e.tds.getD 0 0)
      let v := fun (k : Nat) => convert .fp32 .fp32 rne ((e.gs.getD k 0).toNat % 2 ^ 32)
      x.flying .ve = [⟨e, none, none, .run⟩] → 0x40 ≤ opOf w → opOf w ≤ 0x49 → aSc w = true → bSc w = true → cSc w = true →
      o.rows = 1 → o.cols = 1 → o.fmt = 0 → o.kind = 0 → o.base + 4 ≤ 0xA0_0000 → vStat w = false → roundOf (vConv w) = 0 →
      p.get Fld.VE_CTRL.NF_TRAP c = 0 → (p.ve (p.phys c)).stopped = false → sigEn w = false → e.inSpan = false → p.upsets = [] →
      Answers (.instructionComplete c .ve 0 [] []) s fun t => (t.core c).flying .ve = [] ∧
        (∀ i, i < 4 → t.byte (tileBase c + o.base + i) = (leBytes 4 (convert .fp32 .fp32 ⟨0, satOf (vConv w), 0⟩
          (vElem (opOf w) (fnOf w) (v 0) (v 1) (v 2)))).getD i 0) ∧
        (∀ a, a < tileBase c + o.base ∨ tileBase c + o.base + 4 ≤ a → t.byte a = p.byte a) ∧
        t = { p with cores := t.cores, mem := t.mem, lines := t.lines })

/-- R67, R238, R240, R242, R258, R431: WAIT takes COUNT from its counter, or stalls, and is a dispatch fault with RANGE without a
count; FENCE.REL goes on once the core's moves have completed; FENCE.ACQ advances the remote epoch of its die; LAUNCH.AT is
held until job time reaches g[RA], and completes then; it is a dispatch fault with UNSUPPORTED while job time is not valid. -/
def Obligations.SequencerWaits : Prop :=
  (∀ (c : Fin 256) (s : State) (w : Word) (q : Part), Dispatches s.met c w q →
     let x := q.core c
     let faults := fun (i : Instr) (st : Status) => exec i s = s.after (q.dispatchFault c w (s.met.core c).pc st false)
     (opOf w = 0x70 → waitEn w = false ∨ countOf w = 0 → faults (.wait c) .range) ∧
     (opOf w = 0x70 → waitEn w = true → 0 < countOf w → q.spanCheck c w 0 = none → x.stepping = false →
       let y := x.setToken (waitTok w) (x.token (waitTok w) - (countOf w - 1))
       (countOf w ≤ x.token (waitTok w) → ∃ t, exec (.wait c) s = s.after t ∧ SeqDone (q.setCore c y) t c w y (x.pc + 8)) ∧
       (x.token (waitTok w) < countOf w → exec (.wait c) s = s.after s.met)) ∧
     (opOf w = 0x78 → q.jobValid = false → faults (.launchAt c) .unsupported) ∧
     (MayBegin q c w →
       let done := fun (i : Instr) (r : Part) => ∃ t, exec i s = s.after t ∧ SeqDone r t c w x (x.pc + 8)
       let d := dieOf c
       let epoch := (q.get Fld.MEM_STATUS.REMOTE_EPOCH d + 1) % 2 ^ 16
       (opOf w = 0x72 → done (.fenceAcq c) (q.stepEpoch d) ∧ (q.stepEpoch d).get Fld.MEM_STATUS.REMOTE_EPOCH d = epoch ∧
         RegsBut q (q.stepEpoch d) [(.MEM_STATUS, d)] ∧ (epoch = 0 → ((q.stepEpoch d).die d).rlines = []) ∧
         (epoch ≠ 0 → q.stepEpoch d = { q with regs := (q.stepEpoch d).regs })) ∧
       (opOf w = 0x73 → x.movesPending = false → done (.fenceRel c) q) ∧
       (opOf w = 0x73 → x.movesPending = true → exec (.fenceRel c) s = s.after s.met) ∧
       (opOf w = 0x78 → q.jobValid = true → (x.gr (fA w)).toNat ≤ q.jobTimeOn d → done (.launchAt c) q) ∧
       (opOf w = 0x78 → q.jobValid = true → q.jobTimeOn d < (x.gr (fA w)).toNat → ∃ t, exec (.launchAt c) s = s.after t ∧
         (t.core c).hold = .launch w (x.gr (fA w)).toNat ∧ (t.core c).pc = x.pc ∧ (t.core c).g = x.g ∧
         (∀ e, e ≠ c.val → t.core e = q.core e) ∧ t = { q with cores := t.cores }))) ∧
  (∀ (c : Fin 256) (s : State) (w : Word) (g : Nat), s.met.ready = true →
     let p := s.met
     let x := p.core c
     x.hold = .launch w g → p.jobValid = true → x.stepping = false → ∃ t, exec (.jobTimeReached c) s = s.after t ∧
       (t.core c).hold = .none ∧ (t.core c).pc = (x.pc + 8) % 2 ^ 48 ∧ (t.core c).g = x.g ∧ (t.core c).td = x.td ∧
       (t.core c).q = x.q ∧ (t.core c).fly = x.fly ∧ (∀ e, e ≠ c.val → t.core e = p.core e) ∧
       (∀ k, (t.core c).token k = if sigEn w ∧ k = sigTok w ∧ ¬ (x.span.isSome ∧ 32 ≤ k) then min (x.token k + 1) 0xFFFF
         else x.token k) ∧
       (Quiet p c w → (t.time = { p.time with raw := t.time.raw }) ∧ (g ≤ p.jobTimeOn (dieOf c) → g ≤ p.jobTime → t.time = p.time) ∧
         t = { p.setSeqWait c SeqWait.reset with cores := t.cores, time := t.time }))

/-- R73, R76, R77, R239: SIG to a core of this part adds its amount to the named counter, at most 0xFFFF; to another node it
holds the sequencer until it is acknowledged; fields out of range are an execution fault with RANGE, a target that cannot take
it one with its status; in an open span the signal is held until the commit (R459). -/
def Obligations.SignalsReachTheirCounter : Prop :=
  ∀ (c : Fin 256) (s : State) (w : Word) (q : Part), Dispatches s.met c w q → q.spanCheck c w 1 = none → q.waitOk c w = true →
    (q.core c).stepping = false → opOf w = 0x71 →
    let x := q.core c
    let v := x.gr (fA w)
    let r := q.tokAdd (sigCore v) (sigTokOf v) (sigAmount v)
    let begun := ((q.takeWait c w).nextOrder c).1.countHeld c (heldBy w)
    (sigFieldsOk v = true → x.span = none → q.isSelf (sigNode v) = true →
      (q.sigCheck (sigCore v) (sigTokOf v) (sigAmount v) = .ok →
        (waitEn w = true → sigCore v = c.val → sigTokOf v = waitTok w → x.token (waitTok w) + sigAmount v ≤ 0xFFFF) →
        (∃ t, exec (.sig c) s = s.after t ∧ SeqDone r t c w (r.core c) (x.pc + 8)) ∧
        (∀ d k, (r.core d).token k = if d = sigCore v ∧ k = sigTokOf v then min ((q.core d).token k + sigAmount v) 0xFFFF
          else (q.core d).token k)) ∧
      (∀ n, x.phase = .running n → q.sigCheck (sigCore v) (sigTokOf v) (sigAmount v) ≠ .ok → Answers (.sig c) s fun t =>
        TookFault (q.takeWait c w) t c n (s.met.core c).pc (q.sigCheck (sigCore v) (sigTokOf v) (sigAmount v)))) ∧
    (sigFieldsOk v = true → ∀ sp, x.span = some sp → ∃ t, exec (.sig c) s = s.after t ∧ SeqDone q t c w x (x.pc + 8) ∧
        ∃ y, (t.core c).span = some y ∧ y.held = sp.held ++ [⟨x.order, sigNode v, sigCore v, sigTokOf v, sigAmount v⟩] ++
          if sigEn w ∧ 32 ≤ sigTok w then [⟨x.order, 0xFFFF, c, sigTok w, 1⟩] else []) ∧
    (sigFieldsOk v = true → x.span = none → q.isSelf (sigNode v) = false → ∀ u b,
      (begun.endSends (.sig c)).sendSig c (sigNode v) (sigCore v) (sigTokOf v) (sigAmount v) (.sig c) = (u, b) →
        (b = true → ∃ t, exec (.sig c) s = s.after t ∧ (t.core c).hold = .sig w ∧ (t.core c).pc = x.pc ∧ (t.core c).g = x.g ∧
          t = { u with cores := t.cores }) ∧
        (∀ n, b = false → x.phase = .running n → Answers (.sig c) s fun t =>
          TookFault (q.takeWait c w) t c n (s.met.core c).pc .range)) ∧
    (sigFieldsOk v = false → ∀ n, x.phase = .running n →
      Answers (.sig c) s fun t => TookFault (q.takeWait c w) t c n (s.met.core c).pc .range)

/-- R241, R442, R454 to R459: SPAN.BEGIN of a quiet core checks its record, saves the FULL banks and the COPY ranges where the
record says, snapshots the registers and opens a span; on a replay it only goes on; SPAN.COMMIT closes the span and delivers
what it held; either stalls until the core is quiet and while the part is halted, and is a dispatch fault with CONFLICT where
a span is open, or none is. -/
def Obligations.SpansOpenAndCommit : Prop :=
  ∀ (c : Fin 256) (s : State) (w : Word) (q : Part), Dispatches s.met c w q → (q.core c).stepping = false →
    q.waitOk c w = true →
    let x := q.core c
    let a := (x.gr (fA w)).toNat
    let l := q.bytes (tileBase c + a) 128
    let save := fieldAt l 0 8
    let runs := q.get Fld.TANDEM_STATUS.HALTED 0 = 0
    (opOf w = 0x74 → runs → x.span = none → x.quiet = true → a % 64 = 0 → a + 128 ≤ 0xA0_0000 →
      q.wordKeys (tileBase c + a) 128 = [] → spanRecordOk l = true → ((q.fullBanks c).any id = true → bit save 63 = true) →
      ∀ u, (if bit save 63 then q.saveBanks c (bits save 23 0) else q).saveCopies c (bits (fieldAt l 8 8) 47 0)
          ((spanRanges l).filter isCopy) = (u, .ok ()) →
        ∃ t, exec (.spanBegin c) s = s.after t ∧ SeqDone u t c w (u.core c) (x.pc + 8) ∧
          ∃ y, (t.core c).span = some y ∧ y.pc = x.pc ∧ y.g = (u.core c).g ∧ y.td = (u.core c).td ∧ y.seed = (u.core c).seed ∧
            y.step = (u.core c).step ∧ y.deny = (u.core c).deny ∧ y.full = q.fullBanks c ∧ y.replays = 0 ∧ y.held = [] ∧
            y.record = l) ∧
    (opOf w = 0x74 → runs → ∀ sp, x.span = some sp → sp.replaying = true → ∃ t, exec (.spanBegin c) s = s.after t ∧
      (t.core c).span = some { sp with replaying := false } ∧ (t.core c).pc = (x.pc + 8) % 2 ^ 48 ∧ (t.core c).g = x.g ∧
      (t.core c).td = x.td ∧ (t.core c).tc = x.tc ∧ t = { q.setSeqWait c SeqWait.reset with cores := t.cores }) ∧
    (opOf w = 0x74 → ∀ n sp, x.span = some sp → sp.replaying = false → x.phase = .running n → Answers (.spanBegin c) s fun t =>
      TookFault q t c n (s.met.core c).pc .conflict) ∧
    (opOf w = 0x75 → runs → ∀ sp, x.span = some sp → x.quiet = true →
      (waitEn w = true → ∀ h ∈ sp.held, h.core ≠ c.val ∨ h.tok ≠ waitTok w) →
      let r := q.commitSpan c sp
      ∃ t, exec (.spanCommit c) s = s.after t ∧ SeqDone r t c w (r.core c) (x.pc + 8) ∧ (t.core c).span = none ∧
        (sp.held = [] → x.intervals = [] → (r.core c).g = x.g ∧ (r.core c).tc = x.tc ∧ r = { q with cores := r.cores })) ∧
    (opOf w = 0x75 → ∀ n, x.span = none → x.phase = .running n → Answers (.spanCommit c) s fun t =>
      TookFault q t c n (s.met.core c).pc .conflict) ∧
    (x.quiet = false ∨ ¬ runs → (opOf w = 0x74 → x.span = none → exec (.spanBegin c) s = s.after s.met) ∧
      (opOf w = 0x75 → x.span.isSome = true → exec (.spanCommit c) s = s.after s.met))

/-- R88, R241, R442: TASK.END of a quiet core signals COMPLETION, frees its slot and leaves the core idle, its registers as they
are; a COMPLETION that names a core which cannot take it leaves the slot FAULTED with the status; it stalls until the core is
quiet and while the part is halted, and is a dispatch fault with CONFLICT in an open span. -/
def Obligations.TaskEndFreesItsSlot : Prop :=
  ∀ (c : Fin 256) (s : State) (w : Word) (q : Part) (n : Nat), Dispatches s.met c w q → (q.core c).stepping = false →
    q.waitOk c w = true → opOf w = 0x76 →
    let x := q.core c
    let k := clusterOf c
    let v := descCompletion (q.slot k n).desc
    let st := if bit v 63 then q.sigCheck (bits v 29 22) (bits v 21 16) (bits v 7 0) else .ok
    x.phase = .running n → n < 256 →
    (q.get Fld.TANDEM_STATUS.HALTED 0 = 0 → x.quiet = true → x.span = none → ∃ t, exec (.taskEnd c) s = s.after t ∧
      (t.core c).phase = .idle ∧ (st = .ok → (t.slot k n).st = .free) ∧
      (st ≠ .ok → (t.slot k n).st = .faulted ∧ (t.slot k n).status = st.code ∧ (t.slot k n).core = c % 8) ∧
      (t.core c).g = x.g ∧ (t.core c).td = x.td ∧ (t.core c).pc = (x.pc + 8) % 2 ^ 48 ∧
      (bit v 63 = false → ∀ i, (t.core c).token i = tokenAfter x w i) ∧
      (∀ m : Fin 256, m.val ≠ n → t.slot k m = q.slot k m)) ∧
    (x.span = none → x.quiet = false ∨ q.get Fld.TANDEM_STATUS.HALTED 0 = 1 → exec (.taskEnd c) s = s.after s.met) ∧
    (x.span.isSome = true → Answers (.taskEnd c) s fun t => TookFault q t c n (s.met.core c).pc .conflict)

/-- R225, R244 to R247: an illegal instruction is a dispatch fault with UNSUPPORTED: the slot is FAULTED with it, the core
stops with its queues discarded, and SEQ_FAULT shows ILLEGAL. -/
def Obligations.IllegalInstructionsFaultAtDispatch : Prop :=
  ∀ (c : Fin 256) (n : Nat) (s : State) (w : Word) (q : Part), s.met.ready = true → s.met.canDispatch c = true →
    s.met.fetch c = (q, .ok w) → s.met.haltsBefore c w = none → illegal w = true → (q.core c).phase = .running n →
    (0x78 < opOf w ∨ opOf w = 0x00 → Answers (.nop c) s fun t =>
      TookFault q t c n (s.met.core c).pc .unsupported ∧
      (q.get Fld.SEQ_FAULT.VALID c = 0 → t.get Fld.SEQ_FAULT.ILLEGAL c = 1 ∧ t.get Fld.SEQ_FAULT.OPCODE c = opOf w)) ∧
    (opOf w = 0x01 → Answers (.add c) s fun t => TookFault q t c n (s.met.core c).pc .unsupported)

/-- R132 to R136: a gap that outlasts the keeper window asks for one eighth less, each lane fall for another, and work below
full lanes for one more; a granted step changes the level by one, and the governor releases its held steps 2,000 ns after it
asserted LSA_N. That a timer is a command that lets the meridian reach its moment is the model's choice (log entry 7). -/
def Obligations.KeeperStepsByOneEighth : Prop :=
  ∀ (e : Fin 512) (d : Fin 4) (s : State), s.met.ready = true →
    let p := s.met
    let pe := p.physEng (e / 2) (e % 2)
    let x := p.engine pe
    let granted := fun (rise : Bool) =>
      p.ledgerFits (pe / 128) (p.ledgerSum (pe / 128) + (if rise then 1 else -1)) = true ∧ p.heldDir (pe / 128) rise = false
    let asked := fun (i : Instr) (rise : Bool) =>
      ¬ granted rise → Answers i s fun t => (t.engine pe).held = x.held ++ [rise] ∧ (t.engine pe).level = x.level ∧
        (t.die (pe / 128)).lsa = true ∧ RegsBut p t [(.RAMP_STATUS, pe / 128)] ∧
        t = { p with engines := t.engines, dies := t.dies, regs := t.regs }
    (x.gap = true → x.window = true → x.fallen ≠ 0 → p.get Fld.ME_CTRL.KEEPER_HOLD e = 0 → asked (.keeperWindowExpiry e) false) ∧
    (x.gap = true → x.window = false → x.fallen ≠ 0 → (x.stopped = true ∨ p.get Fld.ME_CTRL.KEEPER_HOLD e = 0) →
      asked (.keeperLaneFall e) false) ∧
    (p.hasWork (e / 2) (e % 2) = true → x.risen < 8 → x.stopped = false → asked (.keeperLaneRise e) true) ∧
    (x.gap = true → x.window = true → x.fallen ≠ 0 → p.get Fld.ME_CTRL.KEEPER_HOLD e = 0 → granted false →
      Answers (.keeperWindowExpiry e) s fun t => (t.engine pe).level = x.level - 1 ∧ (t.engine pe).window = false ∧
        t = { p with engines := t.engines, dies := t.dies }) ∧
    (x.gap = true → x.window = false → x.fallen ≠ 0 → (x.stopped = true ∨ p.get Fld.ME_CTRL.KEEPER_HOLD e = 0) → granted false →
      Answers (.keeperLaneFall e) s fun t => (t.engine pe).level = x.level - 1 ∧
        t = { p with engines := t.engines, dies := t.dies }) ∧
    (p.hasWork (e / 2) (e % 2) = true → x.risen < 8 → x.stopped = false → granted true →
      Answers (.keeperLaneRise e) s fun t => (t.engine pe).level = x.level + 1 ∧
        t = { p with engines := t.engines, dies := t.dies }) ∧
    (∀ n b r, p.heldEngines d = [n] → (p.engine n).held = b :: r → Answers (.governorHoldRelease d) s fun t =>
      (t.engine n).held = r ∧
      (t.engine n).level = (if b then min 8 ((p.engine n).level + 1) else (p.engine n).level - 1) ∧
      ((p.die d).lsaAt + 2000 < 2 ^ 64 → (p.die d).lsaAt + 2000 ≤ t.time.raw) ∧ t.time.raw ≤ (t.die d).lsaEnd ∧
      t = { p with engines := t.engines, dies := t.dies, time := t.time }) ∧
    ((p.die d).lsa = true → ((p.die d).stretch = false ∨ (p.die d).droop = true) → p.heldEngines d = [] →
      Answers (.lsaRelease d) s fun t => (t.die d).lsa = false ∧
        (∀ m, m = (p.die d).lsaEnd ∨ m = p.ledgerEnd d → m + 2000 < 2 ^ 64 → m + 2000 ≤ t.time.raw) ∧
        t = { p with dies := t.dies, time := t.time })

/-- R116, R138, R186, R212, R264: a load that waited for an accumulator window completes once the bank allows it; an engine
with a fault stops, both banks EMPTY, and the instruction it ran ends in a fault; so does a vector engine; a parity error of
the register files is a fault of the running core; a relay instruction whose wait limit passes is a fault with TIMEOUT. That
a self-test and clocking leave UNCORRECTABLE too is the model's choice (log entry 78). -/
def Obligations.WindowsStopsAndRelayLimits : Prop :=
  ∀ (c : Fin 256) (s : State), s.met.ready = true →
    let p := s.met
    let x := p.core c
    (∀ w k off, x.hold = .window w → opOf w = 0x0F → sigEn w = false → x.stepping = false → p.tsAddr c w % 8 = 0 →
      windowOf c (p.tsAddr c w) 8 = some (k, off) → (p.engine (p.engineOfBank k)).stopped = false → (p.bank k).st ≠ .filling →
      Answers (.bankWindowAccess (.seq c)) s fun t =>
        (t.core c).hold = .none ∧ (t.core c).pc = (x.pc + 8) % 2 ^ 48 ∧
        (t.core c).g = (x.setG (fA w) (BitVec.ofNat 64 (leNat ((p.bank k).bytes off 8)))).g ∧
        t = { p.setSeqWait c SeqWait.reset with cores := t.cores }) ∧
    (∀ (e : Fin 512) (f : EngineFault), f ≠ .registers → let pe := p.physEng (e / 2) (e % 2)
      let l := (p.core (p.issuer (e / 2))).flying (if e.val % 2 = 0 then .me0 else .me1)
      (p.engine pe).stopped = false → Answers (.engineParityFault (e, f)) s fun t =>
        (t.engine pe).stopped = true ∧ (t.engine pe).fault = Status.uncorrectable.code ∧
        (t.engine pe).level = (if f = .clocking then 0 else (p.engine pe).level) ∧
        (∀ b : Fin 2, (t.bank (2 * e + b)).st = .empty) ∧
        (l = [] → t = { p with engines := t.engines, banks := t.banks, cores := t.cores }) ∧
        (∀ y, l = [y] → y.st = .run → ∀ n, (p.core (p.issuer (e / 2))).phase = .running n →
          TookFault p t (p.issuer (e / 2)) n y.e.pc .uncorrectable)) ∧
    (∀ (e : Fin 512) n, (p.core (e / 2)).phase = .running n → Answers (.engineParityFault (e, .registers)) s fun t =>
      TookFault p t (e / 2) n (p.core (e / 2)).pc .uncorrectable ∧ t.engines = p.engines ∧ t.banks = p.banks) ∧
    (∀ i, let l := (p.core (p.issuer c)).flying .ve
      (p.ve (p.phys c)).stopped = false → Answers (.veParityFault (c, i)) s fun t =>
        (t.ve (p.phys c)).stopped = true ∧ (l = [] → t = { p with ves := t.ves, cores := t.cores }) ∧
        (∀ y, l = [y] → y.st = .run → ∀ n, (p.core (p.issuer c)).phase = .running n →
          TookFault (p.vePartial (p.issuer c) i) t (p.issuer c) n y.e.pc .uncorrectable)) ∧
    (∀ v : Bool, let u : EUnit := if v then .me1 else .me0
      ∀ f, x.flying u = [f] → engOf f.e.word = bnat v → isRelay f.e = true → (f.st = .relayWait ∨ f.st = .relayAsk) →
      p.follower c = none → ∀ b, f.prior = some b → ∀ n, x.phase = .running n →
      p.get Fld.RELAY_CTRL.RELAY_WAIT_LIMIT (clusterOf c) ≠ 0 → Answers (.relayWaitTimeout c (if v then 1 else 0) 0) s fun t =>
        TookFault p t c n f.e.pc .timeout ∧ t.bank (bankNo c f.e.word) = b ∧
        t.get Fld.RELAY_STATUS.TIMEOUT_COUNT (clusterOf c) =
          min (p.get Fld.RELAY_STATUS.TIMEOUT_COUNT (clusterOf c) + 1) (2 ^ Fld.RELAY_STATUS.TIMEOUT_COUNT.width - 1))

/-- R85, R86, R87: a watch that was reached turns its slot READY once it is the last; an idle core pulls the READY slot, but not
before a lower-numbered core that would take it; a pulled task starts with ARG, MICRO_BATCH and its slot in g1 to g3, every other register zero, its local counters zero, and
fetch at ENTRY. -/
def Obligations.TasksAreReadiedPulledAndStarted : Prop :=
  ∀ (c : Fin 256) (s : State), s.met.ready = true →
    let p := s.met
    let x := p.core c
    let k := clusterOf c
    (∀ (w : Watch) r, x.watches = w :: r → w.hit = true → (p.slot w.cluster w.slot).st = .waiting →
      (p.slot w.cluster w.slot).met ||| 2 ^ w.idx = 2 ^ descPre (p.slot w.cluster w.slot).desc - 1 →
      Answers (.watchReport c 0) s fun t =>
        (t.slot w.cluster w.slot).st = .ready ∧ (t.core c).watches = r ∧ t = { p with slots := t.slots, cores := t.cores }) ∧
    (∀ n, n < 256 → p.mayPull c = true → x.quiet = true → x.helperFor = none → p.pullSlot c = some n →
      (p.lowerTakes c n = true → exec (.taskPull c) s = s.after p) ∧ (p.lowerTakes c n = false → Answers (.taskPull c) s fun t =>
        (t.core c).phase = .pulled n ∧ (t.slot k n).st = .running ∧ (t.slot k n).core = c % 8 ∧ (t.core c).g = x.g ∧
        (∀ m : Fin 256, m.val ≠ n → t.slot k m = p.slot k m) ∧
        (p.gaitOn k = false → t = { p with slots := t.slots, cores := t.cores }))) ∧
    (∀ n, x.phase = .pulled n → Answers (.taskStart c) s fun t =>
      let y := t.core c
      let desc := (p.slot k n).desc
      y.phase = .running n ∧ y.pc = descEntry desc ∧ y.td = [] ∧ y.seed = 0 ∧ y.step = 0 ∧ y.deny = false ∧
      y.gr 1 = BitVec.ofNat 64 (descArg desc) ∧ y.gr 2 = BitVec.ofNat 64 (descMb desc) ∧ y.gr 3 = BitVec.ofNat 64 n ∧
      (∀ i, 4 ≤ i → y.gr i = 0) ∧ (∀ i, i < 32 → y.token i = 0) ∧ (∀ i, 32 ≤ i → y.token i = x.token i))

/-- R264 to R272: a single flipped bit of a stored word is corrected by the scrubber, and counted; a word stored for an
address that differs in one bit is reported with a MEMORY event and stays as it is; a parity error of the translation cache
drops the entry. -/
def Obligations.ScrubberCorrectsOrReports : Prop :=
  ∀ (d : Fin 4) (f : Flip) (s : State), s.met.ready = true →
    let p := s.met
    (Instr.wf (.scrubPass d [f]) = true → p.upsets = [] → f.src = 0 → Answers (.scrubPass d [f]) s fun t =>
      (t.die d).tlb = (p.die d).tlb.eraseIdx f.word ∧ t = { p with dies := t.dies }) ∧
    (Instr.wf (.scrubPass d [f]) = true → p.upsets = [] → f.src = 1 → whereIs (8 * f.word) = .hbm d →
    (∀ i : Fin 64, f.data = BitVec.ofNat 64 (2 ^ i.val) → f.check = 0 → f.addr = none → Answers (.scrubPass d [f]) s fun t =>
      t.upsets = [] ∧ t.mem = p.mem ∧ (t.die d).ceScrub = 1 ∧
      t.get Fld.MEM_ERR_STATUS.CE_COUNT d = min (p.get Fld.MEM_ERR_STATUS.CE_COUNT d + 1) (2 ^ Fld.MEM_ERR_STATUS.CE_COUNT.width - 1)) ∧
    (∀ i : Fin 28, f.data = 0 → f.check = 0 → f.addr = some (p.wordAddr f.word ^^^ BitVec.ofNat 28 (2 ^ i.val)) →
      Answers (.scrubPass d [f]) s fun t =>
        t.upsets ≠ [] ∧ t.mem = p.mem ∧ t.evSeq = (p.evSeq + 1) % 2 ^ 32 ∧
        t.get Fld.MEM_ERR_STATUS.UE_COUNT d = min (p.get Fld.MEM_ERR_STATUS.UE_COUNT d + 1) (2 ^ Fld.MEM_ERR_STATUS.UE_COUNT.width - 1)))

/-- R282, R283, R284, R286, R299, R329: the end of an offload copies the handle's page to its reserve chunk and leaves it
OFFLOADED; the end of a prefetch leaves the handle RESIDENT with its reserve space released and its waits ended; a copy that
fails is counted and leaves the handle where it was; an access that waited DEMAND_LIMIT_US ends with TIMEOUT, an instruction
fetch among them in a fault, and the wait counts as stall time. -/
def Obligations.PagerMovesHandles : Prop :=
  ∀ (h : Fin 65536) (s : State), s.met.ready = true →
    let p := s.met
    let x := p.handle h
    let d := h.val / 16384
    let failed := fun (t : Part) => (t.handle h).entry = false ∧ t.get Fld.MOVER_ERRORS.FAULT_COUNT d =
      min (p.get Fld.MOVER_ERRORS.FAULT_COUNT d + 1) (2 ^ Fld.MOVER_ERRORS.FAULT_COUNT.width - 1)
    (x.st = .offloading → x.entry = true → p.reserveUp d = true → (p.die d).pgWait = [] →
      (p.get Fld.PAGER_CTRL.DEMAND_EN d = 0 ∨ p.hasWaiters h = false) → ∀ u, p.copyOut d (x.frames.zip x.chunks) = (u, true) →
      (Answers (.pagerOffloadComplete h) s fun t =>
        (t.handle h).st = .offloaded ∧ (t.handle h).frames = [] ∧ (t.handle h).chunks = x.chunks ∧ (t.handle h).entry = false ∧
        t.regs = u.regs ∧ t.mem = u.mem ∧ t.host = u.host) ∧
      ∀ f k port a, x.frames = [f] → x.chunks = [k] → f + 2 ^ 21 ≤ 0x30_0000_0000 → whereIs (p.chunkPa d k) = .host port a →
        a + 2 ^ 21 ≤ 2 ^ 44 → p.upsets = [] → Memory.wf p = true → Answers (.pagerOffloadComplete h) s fun t =>
          ∀ i, i < 2 ^ 21 → t.byte (p.chunkPa d k + i) = p.byte (f + i)) ∧
    (x.st = .offloading → x.entry = true → p.reserveUp d = false → (p.die d).pgWait = [] →
      Answers (.pagerOffloadComplete h) s fun t => failed t ∧
        (t.handle h).st = .resident ∧ (t.handle h).chunks = [] ∧ (t.handle h).frames = x.frames ∧
        (t.handle h).stamp = (p.die d).stamp + 1) ∧
    (x.st = .prefetching → x.entry = true → p.reserveUp d = true → (p.die d).pgWait = [] →
      Answers (.pagerPrefetchComplete h) s fun t =>
        (t.handle h).st = .resident ∧ (t.handle h).chunks = [] ∧ (t.handle h).frames = x.frames ∧ (t.handle h).entry = false ∧
        (t.handle h).stamp = (p.die d).stamp + 1 ∧ (∀ e : Fin 256, (t.seqWait e).on ≠ some h.val)) ∧
    (x.st = .prefetching → x.entry = true → p.reserveUp d = false → (p.die d).pgWait = [] →
      Answers (.pagerPrefetchComplete h) s fun t => failed t ∧
        (t.handle h).st = .offloaded ∧ (t.handle h).chunks = x.chunks ∧ (t.handle h).frames = [] ∧
        (∀ e : Fin 256, (t.seqWait e).on ≠ some h.val) ∧ t.mem = p.mem ∧ t.host = p.host) ∧
    (let limit := p.get Fld.PAGER_CTRL.DEMAND_LIMIT_US d
     let ended := fun (since : Nat) (t : Part) => (since + 1000 * limit < 2 ^ 64 → since + 1000 * limit ≤ t.time.raw) ∧
       (t.handle h).stall = min (x.stall + (t.time.raw - max since x.stalledTo)) (2 ^ 24 * 1000 - 1)
     limit ≠ 0 →
     (∀ (c : Fin 256) n, (p.seqWait c).on = some h.val → (p.core c).phase = .running n →
       p.get Fld.TRACE_CTRL.ENABLE (dieOf c) = 0 → Answers (.demandLimitExpiry (.seq c)) s fun t =>
         TookFault p t c n (p.core c).pc .timeout ∧ ended (p.seqWait c).since t ∧ (t.seqWait c).on = none) ∧
     (∀ (e : Fin 4) id y, (p.die e).active.find? (fun z => z.id == id) = some y → y.waitHandle = some h.val →
       Answers (.demandLimitExpiry (.xfer e id)) s fun t => ended y.waitAt t ∧
         (∀ z ∈ (t.die e).active, z.id = id → z.waitHandle = none ∧ z.status = Status.timeout.code) ∧
         t = { p with time := t.time, handles := t.handles, dies := t.dies }) ∧
     (∀ (e : Fin 4) y, (p.die e).pass = some y → y.wait = some h.val → Answers (.demandLimitExpiry (.pass e)) s fun t =>
       ended y.waitAt t ∧ (t.die e).pass = some { y with wait := none, given := Status.timeout.code } ∧
       t = { p with time := t.time, handles := t.handles, dies := t.dies }))

/-- R283, R301, R302, R315, R324: the oldest request that finds an entry takes it: an atomic add or a MOV.D whose descriptor
passes its checks takes its wait and is in flight, a pager copy may run; the end of an atomic add writes what its blocks add,
frees the entry, completes the instruction and gives its signal. -/
def Obligations.MoverAdmitsAndCompletes : Prop :=
  ∀ (d : Fin 4) (c : Fin 256) (e : QEntry) (s : State), s.met.ready = true →
    let p := s.met
    let ws := (p.die d).waiting.filter p.asks
    let first := ws.find? (p.mayGrant d)
    let entered := fun (desc : List Byte) (t : Part) =>
      (t.die d).waiting = ws.erase (.core c e) ∧ (t.core c).queue .mover = ((p.core c).queue .mover).drop 1 ∧
      (∃ y, (t.die d).active = (p.die d).active ++ [y] ∧ y.id = (p.die d).nextId ∧ y.src = .core c e ∧ y.desc = desc ∧
        (t.core c).flying .mover = (p.core c).flying .mover ++ [⟨e, none, none, .moverRun y.id⟩]) ∧
      (∀ k, (t.core c).token k = if waitEn e.word ∧ k = waitTok e.word then (p.core c).token k - 1 else (p.core c).token k) ∧
      (p.die d).peak ≤ (t.die d).peak
    (first = some (.core c e) → isAtomic e = true → atomicAdmit e = none → Answers (.moverAdmit d) s fun t =>
      entered [] t ∧ t = { p with cores := t.cores, dies := t.dies }) ∧
    (first = some (.core c e) → isAtomic e = false → ∀ q l,
      (p.setDie d { p.die d with waiting := ws }).readLocal c (e.gs.getD 0 0).toNat 128 = (q, .ok l) → q.mdescCheck l = none →
      (e.inSpan = false ∨ (mdescOf l).post = false) → q.toOther (mdescOf l) = false → Answers (.moverAdmit d) s fun t => entered l t ∧ t = { q with cores := t.cores, dies := t.dies }) ∧
    (∀ h, first = some (.copy h) → Answers (.moverAdmit d) s fun t => (t.handle h).entry = true ∧
      (t.die d).waiting = ws.erase (.copy h) ∧ t = { p with handles := t.handles, dies := t.dies }) ∧
    (first = none → Answers (.moverAdmit d) s fun t => (t.die d).waiting = ws ∧ t = { p with dies := t.dies }) ∧
    (∀ id y, (p.die d).active.find? (fun z => z.id == id) = some y → y.src = .core c e → y.waitHandle = none → y.result = none →
      isAtomic e = true → p.follower c = none → e.inSpan = false → bit (atCtl e) 63 = false → ∀ q x,
      (p.modXfer d y.id (fun z => { z with waitHandle := none })).addBlocks d c e y.given ((atomicBlocks e).drop y.added) y.added
        y.sums = .done q x → x.st = .ok → q.tandemOn = false → q.get Fld.TRACE_CTRL.ENABLE d = 0 →
      (sigEn e.word = true → (q.core c).token (sigTok e.word) < 0xFFFF) →
      Answers (.moverTransferComplete d y.id) s fun t =>
        (t.die d).active = (q.die d).active.filter (fun z => z.id != y.id) ∧
        (∀ f ∈ (t.core c).flying .mover, f.e.order ≠ e.order) ∧
        (∀ k, (t.core c).token k = if sigEn e.word ∧ k = sigTok e.word then (q.core c).token k + 1 else (q.core c).token k) ∧
        t.mem = q.mem ∧ t.host = q.host ∧ t.regs = q.regs)

/-- R334, R344 to R350: the unit takes the entry at CONSUMER, and admits a pass that passes every check; a round's outputs
are written and counted; a parity error stops the pass; a pass that ends clears it, counts it and advances CONSUMER. -/
def Obligations.UpdateUnitRunsItsRing : Prop :=
  ∀ (d : Fin 4) (s : State), s.met.ready = true →
    let p := s.met
    (p.ringServed d = true → p.get Fld.TANDEM_STATUS.HALTED 0 = 0 → (p.die d).pass = none →
      ∀ q pr co, p.ringHeader d = (q, some (.ok (pr, co))) → pr ≠ co →
      ∀ r l, q.readDva d .updRd (q.ringBase d + 0x100 + 256 * (co % q.ringSize d)) 256 = (r, .ok l) → uFieldsOk l = true →
      ∀ u b, r.readDva d .updRd (uProgram l) (4 * uNInstr l) = (u, .ok b) →
      uEarly l (uAmax (uInstrs b (uNInstr l))).isSome = none → uValid l (uInstrs b (uNInstr l)) = true →
      uOverlap (uStreams l (uInstrs b (uNInstr l))) = false →
      ∀ v rs, u.allPages d (uStreams l (uInstrs b (uNInstr l))) [] none = (v, .got rs none) →
      Answers (.updatePassStart d) s fun t => ∃ x, (t.die d).pass = some x ∧ x.admitted = true ∧ x.desc = l ∧ x.prog = b ∧
        x.index = co ∧ x.done = 0 ∧ x.status = 0 ∧ x.stage = 0 ∧
        (t.die d).holds = (v.die d).holds ++ rs.map (fun y => (y.1, y.2, true)) ∧ t.mem = v.mem ∧ t.cores = v.cores ∧
        (v.upsets = [] → t.regs = v.regs)) ∧
    (∀ x, (p.die d).pass = some x → x.admitted = true → x.wait = none → x.given = 0 → x.stage = 0 → x.status = 0 →
      x.done ≠ uCount x.desc →
      (Answers (.updateRoundWrite d true) s fun t => ∃ y, (t.die d).pass = some y ∧ y.status = Status.uncorrectable.code ∧
        y.done = x.done ∧ t.mem = p.mem ∧ t.regs = p.regs) ∧
      let n := roundLen x.desc (uAmax (uInstrs x.prog (uNInstr x.desc))).isSome x.done
      ∀ q rows a, p.readRound d x.desc x.done n (List.range (uNIn x.desc)) = (q, .ok rows, a) → uNfStop x.desc = false →
        let u := uEval x.desc (uInstrs x.prog (uNInstr x.desc)) x.done
          ((List.range n).map (fun j => rows.map (fun r => r.getD j 0)))
        ∀ r, q.readyRound d (uOutputs x.desc u x.done) = (r, .ok none) → Answers (.updateRoundWrite d false) s fun t =>
          (∃ y, (t.die d).pass = some y ∧ y.done = x.done + n ∧ y.status = 0 ∧ y.desc = x.desc ∧ y.prog = x.prog ∧ y.index = x.index) ∧
          t.mem = (r.writeRound d (uOutputs x.desc u x.done)).mem ∧ t.cores = (r.writeRound d (uOutputs x.desc u x.done)).cores) ∧
    (∀ x, (p.die d).pass = some x → x.admitted = true → x.wait = none → x.stage = 0 → x.done = uCount x.desc → x.status = 0 →
      p.tandemOn = false → p.get Fld.TRACE_CTRL.ENABLE d = 0 → uStatusPtr x.desc = 0 → bit (uCompletion x.desc) 63 = false →
      let next := (x.index + 1) % 2 ^ 32
      ∀ q, (p.bump Fld.UPD_COUNTS.PASSES_DONE d 1).writeDva d .updWr (p.ringBase d + 8) (leBytes 4 next) = (q, .ok ()) →
      let u := (q.modDie d (fun y => { y with pass := none, holds := y.holds.filter (fun h => !h.2.2) })).put
        Fld.UPD_STATUS.CONSUMER d next
      Answers (.updatePassComplete d) s fun t => t = u.wakeRing d ∧ (t.die d).pass = none ∧
        (u.ringServed d = false → t.get Fld.UPD_STATUS.CONSUMER d = next) ∧
        (∀ v pr, u.ringHeader d = (v, some (.ok (pr, next))) → t.get Fld.UPD_STATUS.CONSUMER d = next) ∧
        t.get Fld.UPD_COUNTS.PASSES_DONE d = min (p.get Fld.UPD_COUNTS.PASSES_DONE d + 1) (2 ^ Fld.UPD_COUNTS.PASSES_DONE.width - 1) ∧
        (∀ h ∈ (t.die d).holds, h.2.2 = false))

/-- R358, R360, R391, R392: an enabled port trains, is tested and comes up TESTED, or ACTIVE once NODE is assigned and the
mask of a LIVE bank names it; a port that is disabled or loses its lanes is DOWN; PROBE packets name the far end. -/
def Obligations.FabricPortsComeUpAndGoDown : Prop :=
  ∀ (port : Fin 2) (q : Fin 24) (mode : Fin 4) (s : State),
    let p := s.met
    let d := q.val / 6
    (Accepted p port .PORT_CTRL q (wordOf (2 * mode + 1)) → p.get Fld.PORT_CTRL.ENABLE q = 0 → p.portState q = 0 →
      Answers (.portEnable port q mode) s fun t => t.portState q = 1 ∧ t.get Fld.PORT_CTRL.ENABLE q = 1 ∧
        t.get Fld.PORT_CTRL.LANE_MODE q = mode ∧ Taken t port ∧ t.cores = p.cores) ∧
    (Accepted p port .PORT_CTRL q (wordOf (2 * mode)) → Answers (.portDisable port q mode) s fun t =>
      t.portState q = 0 ∧ (p.portState q ≠ 0 → t.get Fld.PORT_STATUS.WIDTH q = 0 ∧ t.port q = PortSt.reset) ∧
      t.get Fld.PORT_CTRL.ENABLE q = 0 ∧ Taken t port ∧ t.cores = p.cores) ∧
    (p.ready = true → p.portState q = 1 → ∀ lanes delay,
      (∀ w, lanesForm (p.get Fld.PORT_CTRL.LANE_MODE q) lanes = some w → Answers (.portTrainingComplete q lanes delay) s fun t =>
        t.portState q = 2 ∧ t.get Fld.PORT_STATUS.WIDTH q = w ∧ t.get Fld.PORT_STATUS.LINK_DELAY_FRAMES q = delay.toNat ∧
        t.port q = PortSt.reset ∧ t.cores = p.cores) ∧
      (lanesForm (p.get Fld.PORT_CTRL.LANE_MODE q) lanes = none → Answers (.portTrainingComplete q lanes delay) s fun t => t = p)) ∧
    (p.ready = true → p.portState q = 2 →
      ((p.port q).probeBad = true → Answers (.portTestComplete q) s fun t => t.portState q = 5 ∧ t.cores = p.cores) ∧
      ((p.port q).probeBad = false → Answers (.portTestComplete q) s fun t =>
        t.portState q = (if p.node ≠ 0xFFFF ∧ (p.bankState d 0 = 2 ∧ bit (p.bankPorts d 0) (q % 6) = true ∨
          p.bankState d 1 = 2 ∧ bit (p.bankPorts d 1) (q % 6) = true) then 4 else 3) ∧
        (∀ n k, (p.port q).far = some (n, k) → t.get Fld.PORT_STATUS.NEIGHBOUR_NODE q = n % 2 ^ 16) ∧ t.cores = p.cores)) ∧
    (p.ready = true → p.portState q = 3 ∨ p.portState q = 4 → Answers (.portDown q) s fun t =>
      t.portState q = 0 ∧ t.port q = PortSt.reset ∧ t.cores = p.cores) ∧
    (p.ready = true → p.portState q = 2 → Answers (.portDown q) s fun t =>
      (t.port q).probeBad = true ∧ t = { p with ports := t.ports }) ∧
    (p.ready = true → p.portState q = 2 ∨ p.portState q = 3 ∨ p.portState q = 4 → ∀ node far ok, Answers (.probe q node far ok true) s fun t =>
      t.port q = (if ok then { p.port q with far := some (node.toNat, far.val) } else { p.port q with probeBad := true }) ∧
      t = { p with ports := t.ports })

/-- R387 to R389: a confirmed bank is CONFIRMED, or LIVE where its epoch is in force and every die has confirmed it; a flip
that passes its checks is pending until job time M, when the other epoch is stamped and its bank LIVE; 20 us later the old
bank is OPEN. -/
def Obligations.RoutingBanksFlipAtOneMoment : Prop :=
  ∀ (port : Fin 2) (d : Fin 4) (b : Fin 2) (v m : BitVec 64) (s : State),
    let p := s.met
    let e := p.srcEpoch
    (Accepted p port .RT_CTRL d (withBit v (16 + b)) → p.bankState d b = 0 → bit v.toNat (17 - b) = false →
      Answers (.bankConfirm port d b v) s fun t => Taken t port ∧ t.cores = p.cores ∧
        (b = e ∧ p.node ≠ 0xFFFF ∧ p.get Fld.EPOCH_CTRL.FLIP_PENDING 0 = 0 ∧ (∀ x : Fin 4, x ≠ d → p.bankState x b ≠ 0) →
          ∀ x : Fin 4, t.bankState x b = 2) ∧
        (¬ (b = e ∧ p.node ≠ 0xFFFF ∧ p.get Fld.EPOCH_CTRL.FLIP_PENDING 0 = 0 ∧ ∀ x : Fin 4, x ≠ d → p.bankState x b ≠ 0) →
          t.bankState d b = 1)) ∧
    (Accepted p port .EPOCH_FLIP_AT 0 (.full m) → Answers (.epochFlipAtWrite port m) s fun t =>
      t.get Fld.EPOCH_FLIP_AT.FLIP_AT 0 = m.toNat ∧ t.get Fld.EPOCH_CTRL.FLIP_PENDING 0 = 1 ∧ t.flipDone = false ∧ Taken t port ∧
      p.jobValid = true ∧ p.jobTime < m.toNat ∧ (∀ x : Fin 4, p.bankState x (1 - e) = 1) ∧
      t = { p with regs := t.regs, flipDone := false }) ∧
    (p.ready = true → p.jobValid = true → p.get Fld.EPOCH_CTRL.FLIP_PENDING 0 = 1 → p.flipDone = false →
      Answers .epochFlip s fun t => t.srcEpoch = 1 - e ∧ (∀ x : Fin 4, t.bankState x (1 - e) = 2) ∧ t.flipDone = true ∧
        t.cores = p.cores) ∧
    (p.ready = true → p.jobValid = true → p.get Fld.EPOCH_CTRL.FLIP_PENDING 0 = 1 → p.flipDone = true →
      Answers .epochBankReopen s fun t => t.srcEpoch = e ∧ (∀ x : Fin 4, t.bankState x (1 - e) = 0) ∧ t.flipDone = false ∧
        t.get Fld.EPOCH_CTRL.FLIP_PENDING 0 = 0 ∧ t = { p with regs := t.regs, time := t.time, flipDone := false })

/-- R362, R363, R365: a packet reads back as it was formed: header, payload, and a CRC that holds. -/
def Obligations.PacketsReadBackAsFormed : Prop :=
  ∀ (h : Hdr) (pl : List Byte), pl.length ≤ 512 → h.dstNode < 2 ^ 16 → h.dstUnit < 2 ^ 16 → h.srcNode < 2 ^ 16 →
    h.srcUnit < 2 ^ 16 → h.seq < 2 ^ 32 → h.xfer < 2 ^ 32 → h.addr < 2 ^ 48 → h.offset < 2 ^ 32 → h.epoch < 2 → h.cls < 4 →
    h.type < 32 → h.hop < 128 → h.flags < 256 →
    let l := packetOf h pl
    hdrOf l = { h with len := pl.length } ∧ pktPayload l = pl ∧ crcOk l = true ∧ l.length = 40 + pl.length ∧
      ∀ hop, hop < 128 → crcOk (withHdr l { hdrOf l with hop := hop }) = true

/-- R361, R369, R371, R374: a frame of a die's router counts one, every port that carries traffic sends one frame of 576 bytes
and no other port sends, and a sound packet for this node that arrives alone reaches the engine its unit names, or leaves
for its die by a lateral edge that leads there; the router on the package gives a packet that is at its die to the engine,
and discards one that has made 32 hops elsewhere; a packet held too long in the bounce queue is dropped. That the outputs
on the package are the die's lateral edges is the model's choice (log entry 82). -/
def Obligations.RouterMovesOneFrame : Prop :=
  ∀ (d : Fin 4) (s : State), s.met.ready = true →
    let p := s.met
    let f := (p.die d).fab
    (∀ ins, Instr.wf (.routerFrame d ins []) = true → p.domainOn (36 + d) = true → Answers (.routerFrame d ins []) s fun t =>
      (t.die d).fab.frame = f.frame + 1 ∧ (t.die d).fab.tie = (f.tie + 1) % 12 ∧
      (∀ j : Fin 6, if p.carries d f.frame j then (t.port (6 * d + j)).out.length = 576 else (t.port (6 * d + j)).out = []) ∧
      t = { p with regs := t.regs, dies := t.dies, ports := t.ports }) ∧
    (∀ (j : Fin 6) (l : List Byte), l.length = 576 → p.domainOn (36 + d) = true → p.carries d f.frame j = true → frameKind l = 1 →
      let pkt := framePacket l
      let h := hdrOf pkt
      p.bankState d h.epoch ≠ 0 → h.dstNode = p.node → h.len ≤ 512 → crcOk pkt = true → typeOk h = true → h.type ∉ [4, 8, 9] →
      (p.die d).net = ⟨(p.die d).net.tie, [], [], []⟩ → Answers (.routerFrame d [(j, l)] []) s fun t =>
        let e := unitDie h.dstUnit
        (e = d.val → (t.die d).fab.rx = f.rx ++ [pkt]) ∧
        (e ≠ d.val → h.len ≤ 256 → (∃ k, k < 2 ∧ p.netProductive d k e = true) → ∃ k, k < 2 ∧ p.netProductive d k e = true ∧
          (1 - k, ⟨e, 0, withHdr pkt { h with hop := 1 }⟩) ∈ (t.die (p.acrossEdge d (k == 1))).net.arrived)) ∧
    (∀ (i : Fin 2) (x : NetPkt), (p.die d).net = ⟨(p.die d).net.tie, [(i.val, x)], [], []⟩ → p.netLive d i = true → x.half = 0 →
      Answers (.routerFrame d [] []) s fun t =>
        (x.die = d.val → (hdrOf x.pkt).len ≤ 512 → crcOk x.pkt = true → typeOk (hdrOf x.pkt) = true →
          (hdrOf x.pkt).type ∉ [4, 8, 9] → (t.die d).fab.rx = f.rx ++ [x.pkt]) ∧
        (x.die ≠ d.val → 32 ≤ (hdrOf x.pkt).hop → t.get Fld.FAB_DROPS.HOP_DROP d =
          min (p.get Fld.FAB_DROPS.HOP_DROP d + 1) (2 ^ Fld.FAB_DROPS.HOP_DROP.width - 1))) ∧
    (∀ ins bad, Instr.wf (.routerFrame d ins bad) = true → p.domainOn (36 + d) = false → (p.die d).net = ⟨(p.die d).net.tie, [], [], []⟩ →
      Answers (.routerFrame d ins bad) s fun t => (t.die d).fab = f ∧ t = { p with dies := t.dies }) ∧
    (∀ i, i < f.bounce.length → Answers (.bounceHoldExpiry d i) s fun t =>
      (t.die d).fab.bounce = f.bounce.eraseIdx i ∧
      t.get Fld.FAB_DROPS.BOUNCE_DROP d = min (p.get Fld.FAB_DROPS.BOUNCE_DROP d + 1) (2 ^ Fld.FAB_DROPS.BOUNCE_DROP.width - 1) ∧
      RegsBut p t [(.FAB_DROPS, d)] ∧ t = { p with regs := t.regs, dies := t.dies })

/-- R323, R377, R379: the packet at the head of an engine's arrivals is applied once: a write stores its payload, a signal
adds to its counter, a block of a relay tile is kept, block 0 of a tile pairs with its RECV; a block applied before changes
nothing, a packet whose target is unusable is refused and nothing of it is applied, one that has to wait goes behind the
others; and the post of a transfer gives its 64 bytes to the core's staging buffer and keeps the outcome (R322). -/
def Obligations.PacketsAreAppliedOnce : Prop :=
  (∀ (d : Fin 4) (l : List Byte) (r : List (List Byte)) (x : RecvRec) (s : State), s.met.ready = true →
     let p := s.met
     let h := hdrOf l
     let q := (p.dropRx d).putRecv d x
     let dup : Bool := x.applied.contains h.offset
     let v := fieldAt (pktPayload l) 0 8
     let c := bits v 23 16
     let n := bits v 13 8
     let taken := fun (t : Part) => ∃ y ∈ (t.die d).fab.recvs, ofHdr h y = true ∧ h.offset ∈ y.applied
     let follows := fun (i : Instr) (o : RxOut) =>
       (∀ u, o = .done u → ∃ t, exec i s = s.after t ∧ taken t ∧ (t.die d).fab.rx = (u.die d).fab.rx ∧
         t = { u with dies := t.dies, flows := t.flows }) ∧
       (∀ u, (∃ st, o = .refuse u st) ∨ o = .later u → ∃ t, exec i s = s.after t ∧ (t.die d).fab.rx = (u.die d).fab.rx ∧
         (t.die d).fab.recvs = (u.die d).fab.recvs ∧ t = { u with dies := t.dies, flows := t.flows }) ∧
       (∀ u, o = .wait u → ∃ t, exec i s = s.after t ∧ (t.die d).fab.rx = (u.die d).fab.rx ++ [l] ∧ t = { u with dies := t.dies })
     (p.die d).fab.rx = l :: r → p.recvFor d h = some x →
     (isWrite l = true → follows (.writePacket d) (q.applyWrite d l dup) ∧
       (dup = false → (linesOf h.addr h.len).all (fun y => !q.inOffCluster d y.1) = true →
         (∀ q1 q2, q.probe d .moverWr (linesOf h.addr h.len) = (q1, .ok ()) →
           q1.writeDva d .moverWr h.addr (pktPayload l) = (q2, .ok ()) → ∃ t, exec (.writePacket d) s = s.after t ∧ taken t ∧
             (let u := q2.wakeBy h.addr h.len
              t.mem = u.mem ∧ (t.die d).fab.rx = (u.die d).fab.rx ∧ t = { u with dies := t.dies, flows := t.flows })) ∧
         (∀ q1 st, q.probe d .moverWr (linesOf h.addr h.len) = (q1, .fail st) → ∃ t, exec (.writePacket d) s = s.after t ∧
           t.mem = q1.mem ∧ (t.die d).fab.recvs = (q1.die d).fab.recvs)) ∧
       ((linesOf h.addr h.len).any (fun y => q.inOffCluster d y.1) = true → ∃ t, exec (.writePacket d) s = s.after t ∧
         (t.die d).fab.rx = r ∧ t = { p with dies := t.dies, flows := t.flows })) ∧
     (isType 3 l = true → follows (.sigPacket d) (q.applySig l dup) ∧
       (p.sigCheck c n (bits v 7 0) = .ok → ∃ t, exec (.sigPacket d) s = s.after t ∧ taken t ∧
         (t.core c).token n = (if dup then (p.core c).token n else min ((p.core c).token n + bits v 7 0) 0xFFFF) ∧
         (t.die d).fab.rx = r ∧ (∀ e, e ≠ c → t.core e = p.core e) ∧ t.mem = p.mem) ∧
       (p.sigCheck c n (bits v 7 0) ≠ .ok → ∃ t, exec (.sigPacket d) s = s.after t ∧ (t.die d).fab.rx = r ∧
         t = { p with dies := t.dies, flows := t.flows })) ∧
     (isType 2 l = true → follows (.relayPacket d) (q.applyRelay d x l dup) ∧
       (h.offset ≠ 0 → dup = false → x.relay = none → ∃ t, exec (.relayPacket d) s = s.after t ∧
         (∃ y ∈ (t.die d).fab.recvs, ofHdr h y = true ∧ h.offset ∈ y.applied ∧ Tab.find? y.tile h.offset = some (pktPayload l)) ∧
         (t.die d).fab.rx = r ∧ t = { p with dies := t.dies, flows := t.flows }) ∧
       (dup = true → ∃ t, exec (.relayPacket d) s = s.after t ∧ (t.die d).fab.rx = r ∧
         t = { p with dies := t.dies, flows := t.flows }) ∧
       (let e := bits h.dstUnit 8 0
        let pl := pktPayload l
        h.offset = 0 → dup = false → x.tile = [] → fieldAt pl 9 1 ≠ 1 → p.engineGone (e / 2) (e % 2) = false →
        p.domainOn (e / 16) = true → ∀ y, q.relays.find? (fun y => isRecv y.fly.e && y.fly.st == .relayWait &&
          ownEngine y.core y.fly.e.word == e && bankOf y.fly.e.word == fieldAt pl 8 1 && q.recvNames y h pl) = some y →
        xbOf y.fly.e.word = 0 → ∃ t, exec (.relayPacket d) s = s.after t ∧ taken t ∧ (t.die d).fab.rx = r ∧
          (∃ f ∈ (t.core y.core).flying y.unit, f.e = y.fly.e ∧ f.st = .relayMove) ∧
          (∀ z, z ≠ y.core → t.core z = p.core z) ∧ t = { p with cores := t.cores, dies := t.dies, flows := t.flows }))) ∧
  (∀ (d : Fin 4) (y : Xfer) (e : QEntry) (c : Nat) (s : State), s.met.ready = true →
     let p := s.met
     let m := mdescOf y.desc
     (p.die d).active.find? (fun z => z.id == y.id) = some y → y.src = .core c e → m.post = true → y.desc.length = 128 →
     y.waitHandle = none → y.posted = none → y.status = 0 →
     (∀ q l, p.readDva d .moverRd m.src 64 = (q, .ok l) → ∀ u st slot, q.stageWrite m.dst c 0 l = (u, some (st, slot)) →
       ∃ t, exec (.postPacket d y.id) s = s.after t ∧ (t.die d).active = (u.die d).active.map (fun z =>
           if z.id = y.id then { z with posted := some (st.code, slot) } else z) ∧
         t.slots = u.slots ∧ t = { u with dies := t.dies }) ∧
     (∀ q st, p.readDva d .moverRd m.src 64 = (q, .fail st) → ∃ t, exec (.postPacket d y.id) s = s.after t ∧
       t.slots = q.slots ∧ t = { q with dies := t.dies }))

/-- R378 to R381: an ACK completes a transfer at its last block; a NACK of kind 0 sends a packet again, of kind 1 ends its
transfer with the STATUS it carries at the block it names, of kind 2 spares the next resend; a RELEASE frees the receiver's
record; an answer about nothing that is awaited is taken and changes nothing. -/
def Obligations.AnswersReachTheSource : Prop :=
  ∀ (d : Fin 4) (l : List Byte) (r : List (List Byte)) (k : SentPkt) (x : SendXfer) (e id : Nat) (s : State), s.met.ready = true →
    let p := s.met
    let f := (p.die d).fab
    let h := hdrOf l
    let v := fieldAt (pktPayload l) 0 8
    let mine := fun (z : SentPkt) => z.node = h.srcNode ∧ z.seq = v % 2 ^ 32
    f.rx = l :: r →
    (isType 7 l = true → ∃ t, exec (.releasePacket d) s = s.after t ∧
      (t.die d).fab.rx = r ∧ (t.die d).fab.recvs = f.recvs.filter (fun y => !ofHdr h y) ∧ t = { p with dies := t.dies }) ∧
    (f.sent = [] → (isType 5 l = true → ∃ t, exec (.ack d) s = s.after t ∧ (t.die d).fab.rx = r ∧ t = p.dropRx d) ∧
      (isType 6 l = true → ∃ t, exec (.nack d) s = s.after t ∧ (t.die d).fab.rx = r ∧ t = p.dropRx d)) ∧
    (f.sent.find? (fun z => z.node == h.srcNode && z.seq == v % 2 ^ 32) = some k →
      f.sends.find? (fun z => z.node == h.srcNode && z.xfer == k.xfer) = some x → x.who = .mover e id → x.ended = false →
      (isType 5 l = true → fieldAt (pktPayload l) 8 56 = 1 → ∃ t, exec (.ack d) s = s.after t ∧
        let y := { x with acked := k.block :: x.acked }
        (t.die d).fab.rx = r ∧ (∀ z ∈ (t.die d).fab.sent, ¬ mine z) ∧
        { y with ended := decide (y.acked.length = y.blocks) } ∈ (t.die d).fab.sends ∧
        (y.acked.length = y.blocks → ∀ z ∈ (t.die e).active, z.id = id → z.remote = some (0, y.prefixLen, 0)) ∧
        t = { p with dies := t.dies }) ∧
      (isType 6 l = true → bits v 55 48 = 0 → k.circuit = none → k.later = false → ∃ t, exec (.nack d) s = s.after t ∧
        (t.die d).fab.rx = r ∧ (∀ z ∈ (t.die d).fab.sent, mine z → z.resends = k.resends + 1 ∧ z.block = k.block) ∧
        (∃ pkt, (t.die d).fab.inject = f.inject ++ [pkt] ∧ pktPayload pkt = pktPayload k.pkt) ∧
        t = { p with dies := t.dies, regs := t.regs }) ∧
      (isType 6 l = true → bits v 55 48 = 1 → ∃ t, exec (.nack d) s = s.after t ∧
        (t.die d).fab.rx = r ∧
        (∀ z ∈ (t.die d).fab.sends, sameXfer z x = false) ∧ (∀ z ∈ (t.die d).fab.sent, ¬ (z.node = x.node ∧ z.xfer = x.xfer)) ∧
        (∀ m ∈ (t.die d).fab.inject, ofXfer x m = false) ∧ (∀ c ∈ (t.die d).fab.circOut, ∀ m ∈ c.queue, ofXfer x m = false) ∧
        (∀ z ∈ (t.die e).active, z.id = id → z.remote = some ((Status.ofCode (bits v 47 32)).code, x.prefixLen, k.block)) ∧
        t = { p with dies := t.dies }) ∧
      (isType 6 l = true → bits v 55 48 = 2 → ∃ t, exec (.nack d) s = s.after t ∧
        (t.die d).fab.rx = r ∧
        (∀ z ∈ (t.die d).fab.sent, mine z → z.later = true) ∧ (t.die d).fab.inject = f.inject ∧ t = { p with dies := t.dies }))

/-- R375, R378 to R381: an engine acknowledges ACK_DELAY after the first packet it owes, asks once for a packet missing for
GAP_WAIT, resends what is not acknowledged until RESEND_LIMIT and then ends the transfer with TIMEOUT, and releases a whole
transfer's record; a packet of a transfer inside the part is resent 8 times, and then given up. -/
def Obligations.EngineTimersAnswerAndResend : Prop :=
  ∀ (d : Fin 4) (i : Nat) (s : State), s.met.ready = true →
    let p := s.met
    let f := (p.die d).fab
    (∀ x, p.flows[i]? = some x → x.unacked ≠ [] →
      (p.sendDie x.die x.node = none → ∃ t, exec (.ackDelayExpiry i) s = s.after t ∧ t = p) ∧
      ∀ k, (∀ y ∈ x.unacked, y < 2 ^ 32) → p.sendDie x.die x.node = some k → ∃ t, exec (.ackDelayExpiry i) s = s.after t ∧
        (∃ pkt, (t.die k).fab.inject = (p.die k).fab.inject ++ [pkt] ∧ isType 5 pkt = true) ∧
        (∀ y ∈ t.flows, y.node = x.node → y.bank = x.bank → firstSeq x.unacked ∉ y.unacked) ∧
        t = { p with flows := t.flows, dies := t.dies }) ∧
    (∀ x, p.flows[i]? = some x → ∀ j q, x.missing[j]? = some q → ∃ t, exec (.gapWaitExpiry i j) s = s.after t ∧
      (∀ k, p.sendDie x.die x.node = some k → ∃ pkt, (t.die k).fab.inject = (p.die k).fab.inject ++ [pkt] ∧ isType 6 pkt = true ∧
        fieldAt (pktPayload pkt) 0 8 = q % 2 ^ 64) ∧
      (∀ y ∈ t.flows, y.node = x.node → y.bank = x.bank → y.missing = x.missing.erase q) ∧
      t = { p with flows := t.flows, dies := t.dies }) ∧
    (∀ k, f.sent[i]? = some k → k.out = true → k.later = false →
      (k.resends < p.get Fld.E2E_CTRL.RESEND_LIMIT d → k.circuit = none → ∃ t, exec (.resendTimeout d i) s = s.after t ∧
        (∀ z ∈ (t.die d).fab.sent, z.node = k.node → z.seq = k.seq → z.resends = k.resends + 1) ∧
        (∃ pkt, (t.die d).fab.inject = f.inject ++ [pkt] ∧ pktPayload pkt = pktPayload k.pkt) ∧
        t = { p with dies := t.dies, regs := t.regs }) ∧
      (∀ x, p.get Fld.E2E_CTRL.RESEND_LIMIT d ≤ k.resends →
        f.sends.find? (fun z => z.node == k.node && z.xfer == k.xfer) = some x → ∀ e id, x.who = .mover e id → x.ended = false →
        ∃ t, exec (.resendTimeout d i) s = s.after t ∧
          (∀ z ∈ (t.die d).fab.sends, sameXfer z x = false) ∧
          (∀ z ∈ (t.die e).active, z.id = id → z.remote = some (Status.timeout.code, x.prefixLen, k.block)) ∧
          t = { p with dies := t.dies })) ∧
    (∀ k b, packetAt (p.inPart d) (i - f.sent.length) = some (k, b) → f.sent.length ≤ i → ∀ n, (p.die d).resent = [(k, b, n)] →
      (n < 8 → ∃ t, exec (.resendTimeout d i) s = s.after t ∧ (t.die d).resent = [(k, b, n + 1)] ∧
        t = { p with dies := t.dies, regs := t.regs }) ∧
      (8 ≤ n → ∃ t, exec (.resendTimeout d i) s = s.after t ∧
        t = (p.modDie d (fun x => { x with resent := [] })).giveUp d k b)) ∧
    (∀ x, f.sends[i]? = some x → x.acked.length = x.blocks → ∃ t, exec (.releaseWaitExpiry d i) s = s.after t ∧
      (∀ z ∈ (t.die d).fab.sends, sameXfer z x = false) ∧
      (∀ k, p.sendDie d x.node = some k → ∃ pkt, (t.die k).fab.inject = (p.die k).fab.inject ++ [pkt] ∧ isType 7 pkt = true) ∧
      t = { p with dies := t.dies }) ∧
    ∃ t, exec (.recordHoldExpiry d i) s = s.after t ∧ (t.die d).fab.recvs = f.recvs.eraseIdx i ∧ t = { p with dies := t.dies }

/-- R22, R23, R26 to R29, R414 to R416: the receiver of a bundle counts the errors of the frames it takes, with the moment of
each; sixteen of one kind within 2^30 ticks give notice, and at the acknowledgement the bundle is retired, counted, and
its edge counted anew; a committed arbiter set waits until its boundary and is then active; a starved requester is recorded.
-/
def Obligations.BundlesRetireAndArbitersCommit : Prop :=
  ∀ (port : Fin 2) (d : Fin 4) (i : Fin 2176) (g : Fin 81) (s : State), s.met.ready = true →
    let p := s.met
    let n := 81 * d.val + g.val
    (∀ frames, Instr.wf (.bundleRetireLive d (i, frames)) = true → ∃ t, exec (.bundleRetireLive d (i, frames)) s = s.after t ∧
      (isRetired (p.repairEntry d i) = true → t = p) ∧
      (isRetired (p.repairEntry d i) = false →
        let x := t.bundle d i
        x = frames.foldl (fun b f => b.take (p.repairEntry d i) p.time.raw f) (p.bundle d i) ∧
        (16 ≤ (x.bitErrs.filter (fun m => decide (p.time.raw < m + 2 ^ 30))).length ∨
          16 ≤ (x.strobeErrs.filter (fun m => decide (p.time.raw < m + 2 ^ 30))).length → (d.val, i.val) ∈ t.retireNotices) ∧
        (sixteenWithin p.time.raw x.bitErrs = false → sixteenWithin p.time.raw x.strobeErrs = false →
          t.retireNotices = p.retireNotices) ∧
        t = { p with bundles := t.bundles, retireNotices := t.retireNotices })) ∧
    (∀ (b : BundleSt) (e m : Nat) (y : BundleFrame),
      (y.strobe ≠ 1 → (b.take e m y).strobeErrs = (m :: b.strobeErrs).take 16 ∧ (b.take e m y).bitErrs = b.bitErrs) ∧
      (y.strobe = 1 → (b.take e m y).strobeErrs = b.strobeErrs ∧
        (b.take e m y).bitErrs = if y.idle then (List.replicate (idleErrors e b.idle y.wires) m ++ b.bitErrs).take 16 else b.bitErrs)) ∧
    (isRetired (p.repairEntry d i) = false → (d.val, i.val) ∈ p.retireNotices → ∀ ok, ∃ t, exec (.retirementNoticeAck d i ok) s = s.after t ∧
      t.repairEntry d i = retiredEntry ∧ t.retireNotices = p.retireNotices.filter (fun x => x != (d.val, i.val)) ∧
      t.get Fld.EDGE_STATUS.LIVE_RETIRE_COUNT d = min (p.get Fld.EDGE_STATUS.LIVE_RETIRE_COUNT d + 1) (2 ^ 18 - 1) ∧
      (2048 ≤ i.val → let l1 : Bool := decide (2112 ≤ i.val)
        t.get (if l1 then Fld.EDGE_STATUS.L1_IN_LIVE else Fld.EDGE_STATUS.L0_IN_LIVE) d = t.liveBundles d (if l1 then 2112 else 2048) 64 ∧
        (t.liveBundles d (if l1 then 2112 else 2048) 64 < 32 → t.get (deadFld l1) d = 1) ∧
        t.run = (if 2 ≤ t.deadEdges then .dead else .ready) ∧ t.cores = p.cores)) ∧
    (Accepted p port .ARB_COMMIT n (wordOf 1) → ∃ t, exec (.arbCommitGo port d g) s = s.after t ∧
      t.get Fld.ARB_COMMIT.COMMIT_STATUS n = 0 ∧ t.get Fld.ARB_COMMIT.PENDING n = 1 ∧ Tab.find? t.arbSets n = some (p.stagedSet n) ∧
      Taken t port ∧ t = { p with regs := t.regs, arbSets := t.arbSets }) ∧
    (∀ l, Tab.find? p.arbSets n = some l → ∃ t, exec (.arbSetApply d g) s = s.after t ∧
      t.get Fld.ARB_COMMIT.PENDING n = 0 ∧ t.rd .ARB_CTRL_ACTIVE n = l.getD 0 0 ∧
      (∀ k : Fin 32, t.rd .SLOT_PAIR_ACTIVE (32 * n + k) = l.getD (k + 1) 0) ∧ Tab.find? t.arbSets n = none ∧
      t = { p with regs := t.regs, arbSets := t.arbSets }) ∧
    (∀ (inst : Fin 32) (req : Fin 12), inst.val < (arbKind g).instances → req.val ≤ (arbKind g).lastOwner →
      p.get Fld.ARB_STARVE.STARVE_EN n = 1 → ∃ t, exec (.starvationDetect d g inst req) s = s.after t ∧
        bit (t.get Fld.ARB_STATUS.STARVED n) req = true ∧ (inst.val, req.val) ∈ Tab.get [] t.starved n ∧
        t.get Fld.ARB_STATUS.STARVE_COUNT n = min (p.get Fld.ARB_STATUS.STARVE_COUNT n + 1) 0xFFFF ∧
        t.evSeq = (if bit (p.get Fld.ARB_STATUS.STARVED n) req then p.evSeq else (p.evSeq + 1) % 2 ^ 32) ∧
        t.cores = p.cores ∧ t.mem = p.mem)

/-- R424 to R426, R430 to R432: the dies' counts are compared each millisecond; a member locks, and holds its frequency when
the clock fails; a new offset of the reference sets job time at once when it is not valid, and else leaves job time
continuous at the write and slews until it is reached. That a moment is a command that lets the meridian reach it is the
model's choice (log entry 7). -/
def Obligations.TimeIsKeptAndSlewed : Prop :=
  ∀ (port : Fin 2) (v : BitVec 64) (s : State),
    let p := s.met
    (p.ready = true → ∀ b x y z, ∃ t, exec (.meridianDieCompare b x y z) s = s.after t ∧
      t.time.raw = (p.time.raw / 1000000 + 1) * 1000000 % 2 ^ 64 ∧
      (∀ e f : Fin 4, (Tab.get 0 t.time.skew e - Tab.get 0 t.time.skew f : Int).natAbs ≤ 1) ∧ t = { p with time := t.time }) ∧
    (p.ready = true → p.get Fld.TIME_STATUS.LOCK 0 = 1 → p.portState (p.get Fld.TIME_CTRL.PARENT_PORT 0) = 3 ∨
        p.portState (p.get Fld.TIME_CTRL.PARENT_PORT 0) = 4 → ∃ t, exec .pllLocked s = s.after t ∧
      t.get Fld.TIME_STATUS.LOCK 0 = 2 ∧ RegsBut p t [(.TIME_STATUS, 0)] ∧ t = { p with regs := t.regs }) ∧
    (p.ready = true → p.get Fld.TIME_STATUS.LOCK 0 = 2 → ∃ t, exec .holdoverEntry s = s.after t ∧
      t.get Fld.TIME_STATUS.LOCK 0 = 3 ∧ t.evSeq = (p.evSeq + 1) % 2 ^ 32 ∧ t.time = p.time ∧ t.cores = p.cores ∧ t.mem = p.mem) ∧
    (Accepted p port .JOB_OFFSET 0 (.full v) → ∃ t, exec (.jobOffsetWrite port v) s = s.after t ∧
      t.get Fld.JOB_OFFSET.OFFSET 0 = v.toNat ∧ t.jobValid = true ∧ t.get Fld.TIME_STATUS.DEPTH 0 = 0 ∧
      t.get Fld.TIME_STATUS.ERROR_BOUND_NS 0 = 0 ∧ t.time.raw = p.time.raw ∧ Taken t port ∧
      (p.jobValid = true → t.jobTime = p.jobTime) ∧
      (p.jobValid = false → t.jobTime = (((p.time.raw : Int) + v.toInt) % (2 ^ 64 : Int)).toNat)) ∧
    (∀ w, p.ready = true → p.time.slew = some w → ∃ t, exec .slewEnd s = s.after t ∧
      t.time.slew = none ∧ t.get Fld.TIME_STATUS.SLEWING 0 = 0 ∧ t.offset = signed 64 (p.get Fld.JOB_OFFSET.OFFSET 0) ∧
      (w.r0 + 1000 * (w.o1 - w.o0).natAbs < 2 ^ 64 → w.r0 + 1000 * (w.o1 - w.o0).natAbs ≤ t.time.raw))

/-- R427, R428, R430: a survey exchanges stamps with the parent, keeps those within 8 ns of the shortest, and ends after
four kept, or with TIMEOUT after 16 exchanges or its limit; the parent answers its job times, or that it is not ready. The
layout of the reply is the model's choice (log entry 5). -/
def Obligations.SurveyKeepsFourExchanges : Prop :=
  ∀ (port : Fin 2) (v : BitVec 64) (s : State),
    let p := s.met
    (Accepted p port .TIME_CTRL 0 (withBit v 2) → ∃ t, exec (.surveyGo port v) s = s.after t ∧
      p.get Fld.TIME_CTRL.ROLE 0 = 2 ∧ t.get Fld.TIME_STATUS.SURVEY_BUSY 0 = 1 ∧
      t.time.survey = some ⟨[], 0, p.time.raw, false, p.time.raw⟩ ∧ Taken t port ∧ t = { p with regs := t.regs, time := t.time }) ∧
    (p.ready = true → ∀ (q : Fin 24) hold, p.portState q = 3 ∨ p.portState q = 4 → ∃ t, exec (.timesync (.request q hold)) s = s.after t ∧
      t.reply = .bytes (if p.jobValid then leBytes 1 1 ++ leBytes 8 p.jobTime ++ leBytes 8 t.jobTime ++
        leBytes 1 (p.get Fld.TIME_STATUS.DEPTH 0) else [0]) ∧ t = { p with time := t.time, reply := t.reply }) ∧
    (p.ready = true → ∀ x, p.time.survey = some x →
      (∀ t1 t2 t3 t4 depth, x.retry = false → x.t1 ≤ t1.toNat → t1.toNat ≤ t4.toNat →
        let o := signed 64 (((t2.toNat : Int) - t1.toNat + (t3.toNat - t4.toNat)) % (2 ^ 64 : Int)).toNat
        let r := signed 64 (((t4.toNat : Int) - t1.toNat - (t3.toNat - t2.toNat)) % (2 ^ 64 : Int)).toNat
        let kept := ((o, r) :: x.kept).filter (fun y => y.2 ≤ x.kept.foldl (fun m y => min m y.2) r + 8)
        ∃ t, exec (.timesync (.response t1 t2 t3 t4 depth)) s = s.after t ∧
          (kept.length = 4 → t.time.survey = none ∧ t.get Fld.TIME_STATUS.SURVEY_BUSY 0 = 0 ∧
            t.get Fld.TIME_STATUS.SURVEY_STATUS 0 = 0 ∧ t.get Fld.TIME_STATUS.DEPTH 0 = (depth.toNat + 1) % 256 ∧
            t.get Fld.JOB_OFFSET.OFFSET 0 = ((kept.foldl (fun n y => n + y.1) 0 + 4) / 8 % (2 ^ 64 : Int)).toNat) ∧
          (kept.length ≠ 4 → 16 ≤ x.made + 1 → t.time.survey = none ∧
            t.get Fld.TIME_STATUS.SURVEY_STATUS 0 = Status.timeout.code ∧ t.get Fld.JOB_OFFSET.OFFSET 0 = p.get Fld.JOB_OFFSET.OFFSET 0) ∧
          (kept.length ≠ 4 → x.made + 1 < 16 →
            t.time.survey = some ⟨kept, x.made + 1, x.start, false, t.time.raw⟩ ∧ t.regs = p.regs)) ∧
      (∃ t, exec (.timesync .notReady) s = s.after t ∧ t.time.survey = some { x with retry := true } ∧ t = { p with time := t.time }) ∧
      (x.retry = true → ∃ t, exec .timesyncRetry s = s.after t ∧ t.time.survey = some { x with retry := false, t1 := t.time.raw } ∧
        (p.time.raw + 100000 < 2 ^ 64 → t.time.raw = p.time.raw + 100000) ∧ t = { p with time := t.time }) ∧
      ∃ t, exec .surveyTimeout s = s.after t ∧ t.time.survey = none ∧ t.get Fld.TIME_STATUS.SURVEY_BUSY 0 = 0 ∧
        t.get Fld.TIME_STATUS.SURVEY_STATUS 0 = Status.timeout.code ∧ t = { p with regs := t.regs, time := t.time })

/-- R441, R442, R450: a digest record of the peer waits in the match table for its equal; records that differ, one left
unmatched for WAIT_MS, or a notice of the peer halt the cores; RELEASE lets them go on. Enabling a pair (R443, R452) clears
the tile stores and banks of the paired cores and the core counters of the followers. -/
def Obligations.TandemComparesAndHalts : Prop :=
  (∀ (port : Fin 2) (d : Fin 4) (v : BitVec 64) (l : List Byte) (r : List (List Byte)) (x : RecvRec) (s : State), s.met.ready = true →
     let p := s.met
     let m := digestOf l
     let other := p.time.table.find? (fun y => y.own != m.own && y.key == m.key && y.interval == m.interval)
     ((p.die d).fab.rx = l :: r → p.recvFor d (hdrOf l) = some x → (hdrOf l).offset ∉ x.applied → p.tandemOn = true →
       isDigest l = true →
       (isNotice l = false → other = none → ∃ t, exec (.digestRecordReceive d) s = s.after t ∧
         t.time.table = p.time.table ++ [m] ∧ t.regs = p.regs ∧ t.cores = p.cores ∧ t.mem = p.mem) ∧
       (∀ y, isNotice l = false → other = some y → y.digest = m.digest → y.events = m.events →
         ∃ t, exec (.digestRecordReceive d) s = s.after t ∧
           t.time.table = p.time.table.erase y ∧ t.regs = p.regs ∧ t.cores = p.cores ∧ t.mem = p.mem) ∧
       (∀ y, isNotice l = false → other = some y → ¬ (y.digest = m.digest ∧ y.events = m.events) →
         ∃ t, exec (.digestRecordReceive d) s = s.after t ∧ t.time.table = p.time.table.erase y ∧
           t.get Fld.TANDEM_STATUS.HALTED 0 = 1 ∧ t.get Fld.TANDEM_STATUS.MISMATCH 0 = 1 ∧ t.cores = p.cores ∧ t.mem = p.mem) ∧
       (isNotice l = true → p.get Fld.TANDEM_STATUS.MISMATCH 0 = 0 → ∃ t, exec (.mismatchNotice d) s = s.after t ∧
         t.get Fld.TANDEM_STATUS.HALTED 0 = 1 ∧ t.get Fld.TANDEM_STATUS.PEER_REPORTED 0 = 1 ∧ t.rd .TANDEM_KEY 0 = m.key ∧
         t.cores = p.cores ∧ t.mem = p.mem)) ∧
     (∀ i y, p.time.table[i]? = some y → p.get Fld.TANDEM_STATUS.MISMATCH 0 = 0 → ∃ t, exec (.tandemWaitExpiry i) s = s.after t ∧
       t.time.table = p.time.table.eraseIdx i ∧ t.get Fld.TANDEM_STATUS.HALTED 0 = 1 ∧ t.get Fld.TANDEM_STATUS.MISMATCH 0 = 1 ∧
       t.get Fld.TANDEM_STATUS.MISMATCH_STATUS 0 = Status.timeout.code ∧ t.get Fld.TANDEM_STATUS.PEER_REPORTED 0 = 0 ∧
       t.rd .TANDEM_KEY 0 = y.key ∧ t.cores = p.cores ∧ t.mem = p.mem) ∧
     (Accepted p port .TANDEM_CTRL 0 (withBit v 1) → ∃ t, exec (.tandemRelease port v) s = s.after t ∧
       t.get Fld.TANDEM_STATUS.HALTED 0 = 0 ∧ t.get Fld.TANDEM_STATUS.MISMATCH 0 = 0 ∧ Taken t port ∧ t.cores = p.cores ∧
       t.mem = p.mem)) ∧
  (∀ (port : Fin 2) (d i : Fin 4) (v : BitVec 64) (s : State),
     let p := s.met
     Accepted p port .PAIR_CTRL (4 * d + i) (withBit v 16) → p.get Fld.PAIR_CTRL.ENABLE (4 * d + i) = 0 →
     ∃ t, exec (.pairEnable port d i v) s = s.after t ∧
       t.get Fld.PAIR_CTRL.ENABLE (4 * d + i) = 1 ∧ Taken t port ∧
       (t.cluster (t.pairA d i)).clearing = true ∧ (t.cluster (t.pairB d i)).clearing = true ∧
       (∀ n : Fin 8, bit (t.get Fld.PAIR_CTRL.CORE_MASK (4 * d + i)) n = true → ∀ k, k = t.pairA d i ∨ k = t.pairB d i →
         (∀ a, a < 0xA0_0000 → t.byte (tileBase (8 * k + n) + a) = 0) ∧ (∀ b : Fin 4, t.bank (4 * (8 * k + n) + b) = Bank.reset)) ∧
       (∀ n : Fin 8, bit (t.get Fld.PAIR_CTRL.CORE_MASK (4 * d + i)) n = true → ∀ c, 32 ≤ c → c < 64 →
         (t.core (8 * t.pairB d i + n)).token c = 0))

/-- R460 to R468: the warden's decision on a held fault replays the span from its snapshot, gives it up after two replays or
when no helper comes, and leaves the slot FAULTED where R461 replays nothing; a replay on another core exchanges the two
physical cores and replays the span; the verdict on the replayed item makes the unit that differed suspect. A drain replayed
without an error makes the engine of the first core suspect, a third version equal to the leader's makes the follower
suspect and dissolves the pair, a second replay without an error makes nobody suspect. -/
def Obligations.FaultsAreReplayedOrGivenUp : Prop :=
  (∀ (c : Fin 256) (n : Nat) (r : FaultRec) (y : SpanSt) (s : State), s.met.ready = true →
     let p := s.met
     let x := p.core c
     let k := clusterOf c
     x.phase = .faulted n → x.fault = some r → x.span = some y → x.quiet = true →
     let gone := fun (t : Part) => (t.core c).fault = none ∧ (t.core c).phase = .faulted n ∧ t.rd .SEQ_FAULT c = r.seq ∧
       t.rd .SEQ_FAULT_PC c = BitVec.ofNat 64 r.pc ∧ t.evSeq = (p.evSeq + 1) % 2 ^ 32 ∧ t.mem = p.mem
     let again := fun (t : Part) => (t.core c).phase = .running n ∧ (t.core c).fault = none ∧ (t.core c).pc = y.pc ∧
       (t.core c).g = y.g ∧ (t.core c).td = y.td ∧ (t.core c).seed = y.seed ∧ (t.core c).step = y.step ∧
       (t.core c).span.map (·.replays) = some (y.replays + 1) ∧ (t.slot k n).st = .running
     (x.seek = false → x.decision = none → (∀ h ∈ coresOf k, (p.core h).helperFor ≠ some c) →
       (p.get Fld.RECOVERY_CTRL.REPLAY_EN 0 = 0 ∨ r.kind = .none → ∃ t, exec (.replayDecision c) s = s.after t ∧
         (t.core c).fault = none ∧ (t.core c).phase = .faulted n ∧ t = { p with cores := t.cores }) ∧
       (p.get Fld.RECOVERY_CTRL.REPLAY_EN 0 = 1 → r.kind ≠ .none → 2 ≤ y.replays → ∃ t, exec (.replayDecision c) s = s.after t ∧ gone t) ∧
       (p.get Fld.RECOVERY_CTRL.REPLAY_EN 0 = 1 → r.kind = .same → y.replays < 2 → ∃ t, exec (.replayDecision c) s = s.after t ∧ again t)) ∧
     (x.seek = true → x.decision = none → ∃ t, exec (.helperWaitExpiry c) s = s.after t ∧ gone t) ∧
     (∀ h, (coresOf k).find? (fun e => (p.core e).helperFor == some c.val) = some h → (p.core h).phase = .idle → (p.core h).quiet = true →
       r.parity = false → x.decision = none → ∃ t, exec (.coreExchange c) s = s.after t ∧
         again t ∧ t.phys c = p.phys h ∧ t.phys h = p.phys c ∧ (t.core h).helperFor = none)) ∧
  (∀ (c : Fin 256) (d : Decision) (g : List Byte) (s : State), s.met.ready = true →
     let p := s.met
     (p.core c).decision = some d → d.got = some g →
     (d.pairDrop = false → d.gotBad = false → d.second = false → d.first < 256 → (p.die (dieOf d.first)).passed = [] →
       ∃ t, exec (.decisionDrainCompare c) s = s.after t ∧ (t.core c).decision = none ∧
         (d.first % 64, d.engine) ∈ (t.die (dieOf d.first)).suspects ∧ t.held d.first = true ∧ t.mem = p.mem) ∧
     (d.pairDrop = false → d.gotBad = false → d.second = true → ∃ t, exec (.decisionDrainCompare c) s = s.after t ∧
       (t.core c).decision = none ∧ t = { p with cores := t.cores }) ∧
     (∀ f, d.pairDrop = true → g = d.output → p.pairOf c = some (true, f) → (p.die (dieOf f)).passed = [] →
       ∃ t, exec (.pairMismatchDecision c) s = s.after t ∧ (t.core c).decision = none ∧ t.pairOf c = none ∧
         (f % 64, 3) ∈ (t.die (dieOf f)).suspects ∧ t.mem = p.mem))

/-- R469 to R473: a core whose cadence passes is due and held; a die tests one core at a time; the end of a test releases
it, counts it and lets its engines run; a test that does not start in its window is overdue; TEST_NOW and DEFER act at once.
That a moment is a command that lets the meridian reach it is the model's choice (log entry 7). -/
def Obligations.FarrierTestsCores : Prop :=
  ∀ (port : Fin 2) (d : Fin 4) (n : Fin 64) (s : State),
    let p := s.met
    let x := p.die d
    let free := p.isDue d n = false ∧ p.coreRetired (64 * d + n) = false
    let c : Fin 256 := ⟨64 * d.val + n.val, by omega⟩
    (p.ready = true → free → Answers (.farrierTestDue c) s fun t =>
      (t.die d).dues = x.dues ++ [⟨n, p.dueMoment d n⟩] ∧ t.held c = true ∧ (p.dueMoment d n < 2 ^ 64 → p.dueMoment d n ≤ t.time.raw) ∧
      t = { p with regs := t.regs, dies := t.dies, time := t.time }) ∧
    (p.ready = true → x.testing = none → p.get Fld.FARRIER_CTRL.TEST_EN d = 1 → p.get Fld.RECOVERY_AREA.SET d = 1 →
      p.nextTest d = some n → Answers (.farrierTestStart d) s fun t =>
        (t.die d).testing = some n.val ∧ (∀ y ∈ (t.die d).dues, y.core ≠ n) ∧ t.held c = true ∧
        t.get Fld.FARRIER_STATUS.TESTING d = 1 ∧ t.get Fld.FARRIER_STATUS.TEST_CORE d = n ∧
        bit (t.rd .FARRIER_OVERDUE d).toNat n = false ∧ t = { p with regs := t.regs, dies := t.dies }) ∧
    (p.ready = true → x.testing = some n.val → Answers (.farrierTestEnd d 0) s fun t =>
      (t.die d).testing = none ∧ t.get Fld.FARRIER_STATUS.TESTING d = 0 ∧ t.get Fld.FARRIER_STATUS.LAST_CORE d = n ∧
      t.get Fld.FARRIER_STATUS.LAST_STATUS d = 0 ∧
      t.get Fld.FARRIER_STATUS.TESTS_RUN d = min (p.get Fld.FARRIER_STATUS.TESTS_RUN d + 1) 0xFFFF ∧
      (∀ y ∈ (t.die d).suspects, y.1 ≠ n) ∧ t.anyStopped c = false ∧ t.mem = p.mem) ∧
    (∀ y, p.ready = true → x.dues.find? (fun z => z.core == n.val) = some y → bit (p.rd .FARRIER_OVERDUE d).toNat n = false →
      Answers (.dueWindowExpiry c) s fun t => bit (t.rd .FARRIER_OVERDUE d).toNat n = true ∧ t.evSeq = (p.evSeq + 1) % 2 ^ 32 ∧
        t.dies = p.dies ∧ t.cores = p.cores ∧ t.mem = p.mem) ∧
    (Accepted p port .FARRIER_ORDER d (wordOf (0x100 + n)) → free → Answers (.testNow port d n) s fun t =>
      (t.die d).dues = x.dues ++ [⟨n, p.time.raw⟩] ∧ t.held c = true ∧ Taken t port ∧ t = { p with regs := t.regs, dies := t.dies }) ∧
    (Accepted p port .FARRIER_ORDER d (wordOf (0x200 + n)) → Answers (.defer port d n) s fun t =>
      (∀ y ∈ (t.die d).dues, y.core ≠ n) ∧ Tab.find? (t.die d).lastTest n = some p.time.raw ∧
      bit (t.rd .FARRIER_OVERDUE d).toNat n = false ∧ Taken t port ∧ t.mem = p.mem)

/-- R476, R477, R479, R486: a held trigger starts a copy on every die; a copy whose transfers are acknowledged completes,
one that cannot go on fails with its status; pairing waits for the peer, is refused on the same feed unless forced, and
times out. GO of a remount (R481, R488) checks the slot header, sends the blocks of the slot and is busy until they end; a
refused GO leaves its status. -/
def Obligations.PartnerCopiesAndPairing : Prop :=
  (∀ (port : Fin 2) (d : Fin 4) (v : BitVec 64) (s : State), s.met.ready = true →
     let p := s.met
     (∀ step, p.copyHeld = some (some step) → p.copying = false → p.get Fld.PARTNER_CTRL.ENABLE 0 = 1 →
       Answers .partnerCopyStart s fun t => t.copyHeld = none ∧ t.get Fld.PARTNER_STATUS.STATE 0 = 3 ∧
         ∀ e : Fin 4, (t.die e).copy.isSome = true ∧ t.get Fld.SECURE_STATUS.STATE e = 1 ∧
           t.get Fld.SECURE_STATUS.STEP e = step % 2 ^ 32) ∧
     (∀ x, (p.die d).copy = some x → x.left = 0 → x.failed = none → (p.sendDie d (p.get Fld.PARTNER_CTRL.PEER_NODE 0)).isSome = true →
       Answers (.partnerCopyComplete d) s fun t => (t.die d).copy = none ∧ (t.die d).lastSlot = x.slot ∧
         t.get Fld.SECURE_STATUS.STATE d = 0 ∧ t.get Fld.SECURE_STATUS.STATUS d = 0 ∧ t.mem = p.mem ∧ t.cores = p.cores) ∧
     (∀ x, (p.die d).copy = some x → ∀ n, x.failed = some n → Answers (.partnerCopyFail d) s fun t =>
       (t.die d).copy = none ∧ t.get Fld.SECURE_STATUS.STATE d = 2 ∧ t.get Fld.SECURE_STATUS.STATUS d = (Status.ofCode n).code ∧
       (Status.ofCode n = .timeout → t.get Fld.PARTNER_STATUS.PEER_LOST 0 = 1) ∧ t.evSeq = (p.evSeq + 1) % 2 ^ 32 ∧ t.mem = p.mem) ∧
     (Accepted p port .PARTNER_CTRL 0 (withBit v 0) → p.get Fld.PARTNER_CTRL.ENABLE 0 = 0 → Answers (.partnerPairing port v) s fun t =>
       t.get Fld.PARTNER_CTRL.ENABLE 0 = 0 ∧ Taken t port ∧ t.mem = p.mem ∧
       (t.get Fld.PARTNER_STATUS.STATE 0 = 1 ∨ t.get Fld.PARTNER_STATUS.STATE 0 = 0 ∧
         t.get Fld.PARTNER_STATUS.PAIR_STATUS 0 = Status.range.code) ∧
       (Fld.PARTNER_CTRL.PEER_NODE.of v = 0xFFFF ∨ Fld.PARTNER_CTRL.PEER_NODE.of v = p.node →
         t.get Fld.PARTNER_STATUS.STATE 0 = 0)) ∧
     (p.get Fld.PARTNER_STATUS.STATE 0 = 1 →
       (Answers .partnerPeerTimeout s fun t => t.get Fld.PARTNER_STATUS.STATE 0 = 0 ∧
         t.get Fld.PARTNER_STATUS.PAIR_STATUS 0 = Status.timeout.code ∧ RegsBut p t [(.PARTNER_STATUS, 0)] ∧ t = { p with regs := t.regs }) ∧
       ∀ feed : Fin 16, let own := p.get Fld.PARTNER_STATUS.FEED_ID 0
         let same := feed.val = own ∨ feed.val = 15 ∨ own = 15
         Answers (.peerPairingAnswer feed) s fun t => t.get Fld.PARTNER_STATUS.PEER_FEED 0 = feed ∧
           (same → p.get Fld.PARTNER_CTRL.FORCE 0 = 0 → t.get Fld.PARTNER_STATUS.STATE 0 = 0 ∧
             t.get Fld.PARTNER_STATUS.PAIR_STATUS 0 = Status.sameFeed.code) ∧
           (¬ (same ∧ p.get Fld.PARTNER_CTRL.FORCE 0 = 0) → t.get Fld.PARTNER_CTRL.ENABLE 0 = 1 ∧
             t.get Fld.PARTNER_STATUS.PAIR_STATUS 0 = 0 ∧ t.get Fld.PARTNER_STATUS.PEER_LOST 0 = 0 ∧
             (t.get Fld.PARTNER_STATUS.FORCED 0 = 1 ↔ same)) ∧ t.cores = p.cores ∧ t.mem = p.mem)) ∧
  (∀ (port : Fin 2) (d : Fin 4) (v : BitVec 64) (s : State),
     let p := s.met
     let w : BarWr := ⟨port, .REMOUNT_CTRL, d, barMask (withBit v 0), barVal (withBit v 0)⟩
     let q := p.wr .REMOUNT_CTRL d (p.stored w)
     (Accepted p port .REMOUNT_CTRL d (withBit v 0) → p.get Fld.REMOUNT_STATUS.BUSY d = 0 →
       (∀ u st, q.remountCheck d = (u, .error st) → Answers (.remountGo port d v) s fun t =>
         t.get Fld.REMOUNT_STATUS.STATUS d = st.code ∧ t.die d = u.die d ∧ t.mem = u.mem ∧ Taken t port) ∧
       (∀ u bs, q.remountCheck d = (u, .ok bs) → (u.sendDie d (u.get Fld.REMOUNT_CTRL.TARGET_NODE d)).isSome = true → bs ≠ [] →
         Answers (.remountGo port d v) s fun t => t.get Fld.REMOUNT_STATUS.BUSY d = 1 ∧
           t.get Fld.REMOUNT_STATUS.BLOCKS_DONE d = 0 ∧ (t.die d).remount = some none ∧ t.mem = u.mem ∧ Taken t port)) ∧
     (∀ n, p.ready = true → (p.die d).remount = some (some n) → Answers (.remountComplete d) s fun t =>
       t.get Fld.REMOUNT_STATUS.STATUS d = n % 2 ^ 16 ∧ t.get Fld.REMOUNT_STATUS.BUSY d = 0 ∧ (t.die d).remount = none ∧
       t = { p with regs := t.regs, dies := t.dies }))

/-- R260, R290, R491: BAR2 reads and writes the physical memory or the DVAs that BAR2_CTRL names; an access that meets a held
range waits, in flight, and changes no memory (that it is sent again is the model's choice, log entry 31); one that BAR2_CTRL
does not admit is aborted with one event and reaches no memory. -/
def Obligations.HostReachesMemoryThroughBar2 : Prop :=
  ∀ (port : Fin 2) (off a : Nat) (s : State), s.met.ready = true → s.met.linkUp port = true →
    let p := s.met
    let home := 0x60_0000_0000 * port.val
    (∀ n, Instr.wf (.bar2Read port off n) = true → p.bar2Where port off n = .ok (true, a) → home ≤ a →
      a + n ≤ home + 0x30_0000_0000 → p.upsets = [] →
      ((∀ x ∈ linesOf a n, p.heldBack (2 * port) .barRd x.1 x.2 = false) → Answers (.bar2Read port off n) s fun t =>
        t.reply = .bytes (p.bytes a n) ∧ t = { p with reply := t.reply, dies := t.dies, lines := t.lines, draw := t.draw }) ∧
      ((∃ x ∈ linesOf a n, p.heldBack (2 * port) .barRd x.1 x.2 = true) → Answers (.bar2Read port off n) s fun t =>
        (off, false) ∈ (t.die (2 * port)).bar2Wait ∧ t = { p with dies := t.dies })) ∧
    (∀ n, Instr.wf (.bar2Read port off n) = true → p.bar2Where port off n = .ok (false, a) →
      ∀ q l, p.readDva (2 * port) .barRd a n = (q, .ok l) → Answers (.bar2Read port off n) s fun t =>
        t.reply = .bytes l ∧ t = { q with reply := .bytes l, dies := t.dies }) ∧
    (∀ n st, Instr.wf (.bar2Read port off n) = true → p.bar2Where port off n = .error st → Answers (.bar2Read port off n) s fun t =>
      t.reply = .completion 4 ∧ t.evSeq = (p.evSeq + 1) % 2 ^ 32 ∧ t.mem = p.mem ∧ t.cores = p.cores) ∧
    (∀ l, Instr.wf (.bar2Write port off l) = true → p.bar2Where port off l.length = .ok (true, a) → home ≤ a →
      a + l.length ≤ home + 0x30_0000_0000 → p.upsets = [] →
      ((∀ x ∈ linesOf a l.length, p.heldBack (2 * port) .barWr x.1 x.2 = false) →
        (∀ d : Fin 4, p.get Fld.UPD_RING.ENABLE d = 0) → Answers (.bar2Write port off l) s fun t =>
          (∀ i, i < l.length → t.byte (a + i) = l.getD i 0) ∧ (∀ b, b < a ∨ a + l.length ≤ b → t.byte b = p.byte b) ∧
          t = { p with mem := t.mem, dies := t.dies, lines := t.lines, draw := t.draw }) ∧
      ((∃ x ∈ linesOf a l.length, p.heldBack (2 * port) .barWr x.1 x.2 = true) → Answers (.bar2Write port off l) s fun t =>
        (off, true) ∈ (t.die (2 * port)).bar2Wait ∧ t = { p with dies := t.dies })) ∧
    (∀ l, Instr.wf (.bar2Write port off l) = true → ∀ st, p.bar2Where port off l.length = .error st →
      Answers (.bar2Write port off l) s fun t => t.evSeq = (p.evSeq + 1) % 2 ^ 32 ∧ t.mem = p.mem ∧ t.cores = p.cores)

/-- R512 to R516: a doorbell gives PRODUCER; LAUNCH posts its descriptor, COPY asks the mover, RESERVE sets the pager's
reserve, MGMT gives an order under the lease's GEN, QUERY reads a register; each but COPY, which goes on, leaves its
completion record. That bytes of a command which its layout does not name are reserved is the model's choice (log entry 33).
-/
def Obligations.StreamCommandsRunAndReport : Prop :=
  ∀ (port : Fin 2) (k : Fin 4096) (i : Nat) (cmd : List Byte) (s : State),
    let p := s.met
    let x := streamIdx port k
    (∀ v : BitVec 32, p.ready = true → p.linkUp port = true → p.get Fld.STREAM_RING.ENABLE x = 1 →
      (v.toNat + 2 ^ 32 - p.get Fld.STREAM_STATUS.CONSUMER x) % 2 ^ 32 ≤ p.streamSize x → Answers (.streamDoorbell port k v) s fun t =>
        (t.stream port k).producer = v.toNat ∧ (t.stream port k).busy = (p.stream port k).busy ∧ t = { p with streams := t.streams }) ∧
    (∀ v : BitVec 32, p.ready = true → p.linkUp port = true → p.get Fld.STREAM_RING.ENABLE x = 1 → p.get Fld.STREAM_STATUS.STATE x = 1 →
      p.streamSize x < (v.toNat + 2 ^ 32 - p.get Fld.STREAM_STATUS.CONSUMER x) % 2 ^ 32 → Answers (.streamDoorbell port k v) s fun t =>
        t.get Fld.STREAM_STATUS.STATE x = 2 ∧ t.get Fld.STREAM_STATUS.STOP_STATUS x = Status.range.code ∧ t.mem = p.mem) ∧
    (∀ n, Heads p port k 1 i cmd launchNamed → fieldAt cmd 8 2 < 32 → fieldAt cmd 10 2 = 1 → fieldAt cmd 0x10 8 % 64 = 0 →
      let c := fieldAt cmd 8 2
      let desc := p.hostBytes port (fieldAt cmd 0x10 8) 64
      (p.stage c (256 + port)).length = 64 → p.postStatus c desc = .ok → p.freeSlot c = some n →
      Answers (.launch port k none) s fun t => (t.slot c n).desc = desc ∧
        (t.slot c n).st = (if descPre desc = 0 then .ready else .waiting) ∧
        Recorded p t port k i cmd .ok (2 ^ 16 + n * 2 ^ 8 + n) ∧ t.postRes = p.postRes) ∧
    (Heads p port k 2 i cmd copyNamed → copyCheck cmd = none → Answers (.copy port k) s fun t =>
      (t.die (2 * port)).waiting = (p.die (2 * port)).waiting ++ [.stream port k i cmd] ∧
      (t.stream port k).busy = i :: (p.stream port k).busy ∧ t.get Fld.STREAM_STATUS.CONSUMER x = (i + 1) % 2 ^ 32 ∧
      t.host = p.host ∧ t.mem = p.mem) ∧
    (∀ d : Fin 4, Heads p port k 3 i cmd reserveNamed → fieldAt cmd 8 1 = d.val → fieldAt cmd 0x10 8 % 2 ^ 21 = 0 →
      fieldAt cmd 0x18 8 < 2 ^ 20 → fieldAt cmd 0x10 8 + fieldAt cmd 0x18 8 * 2 ^ 21 ≤ 2 ^ 44 → p.handlesOf d = [] →
      (p.die d).pgWait = [] → Answers (.reserve port k) s fun t =>
        t.get Fld.PAGER_RESERVE.BASE d * 2 ^ 21 = windowBase port + fieldAt cmd 0x10 8 ∧
        t.get Fld.PAGER_RESERVE.SIZE_2M d = fieldAt cmd 0x18 8 ∧ Recorded p t port k i cmd .ok 0) ∧
    (∀ r, r ∈ [Reg.LEASE_CTRL, .REPRO_CTRL, .POWER_CTRL, .THERM_CTRL] → fieldAt cmd 8 4 = r.off 0 → fieldAt cmd 12 4 = 8 →
      (∀ env, Heads p port k 4 i cmd mgmtNamed → Instr.wf (.mgmt port k env) = true → bit (fieldAt cmd 1 1) 2 = false →
        p.holdsLease port = true → let w : BarWr := ⟨port, r, 0, 2 ^ 64 - 1, fieldAt cmd 0x10 8⟩
        (fieldAt cmd 0x18 8 = p.get Fld.LEASE_STATUS.GEN 0 → p.orderStatus w = .ok → Answers (.mgmt port k env) s fun t =>
          t.rd r 0 = p.stored w ∧ Recorded p t port k i cmd .ok (p.stored w).toNat ∧ t.mem = p.mem ∧ t.cores = p.cores) ∧
        (fieldAt cmd 0x18 8 ≠ p.get Fld.LEASE_STATUS.GEN 0 → Answers (.mgmt port k env) s fun t =>
          Recorded p t port k i cmd .notOwner (p.rd r 0).toNat ∧ RegsBut p t [(.STREAM_STATUS, x)] ∧ t.mem = p.mem ∧
          t.cores = p.cores)) ∧
      (Heads p port k 5 i cmd queryNamed → Answers (.query port k) s fun t =>
        Recorded p t port k i cmd .ok (p.rd r 0).toNat ∧ RegsBut p t [(.STREAM_STATUS, x)] ∧ t.mem = p.mem ∧ t.cores = p.cores))

/-- R482, R489, R493, R494, R526: a link that goes down, or a function reset, abandons the port's streams, disables its
event queue and frees its lease; a fetch without completion stops its stream with TIMEOUT, a read of the reserve leaves its
handle OFFLOADED (the model's choice, log entry 37); before C9 configuration requests are answered Request Retry Status; DOE
discovery answers as PCI Express lays it out (log entry 34); with both links up the start that waited for them ends. -/
def Obligations.HostLinksComeAndGo : Prop :=
  ∀ (port : Fin 2) (k : Fin 4096) (s : State),
    let p := s.met
    let lost := fun (t : Part) => (∀ j : Fin 4096, t.get Fld.STREAM_STATUS.STATE (streamIdx port j) = 3) ∧
      t.get Fld.EVQ_BASE.ENABLE port = 0 ∧ t.rd .BAR2_CTRL port = Reg.reset .BAR2_CTRL port ∧
      (p.get Fld.LEASE_STATUS.HOLDER 0 = port → t.get Fld.LEASE_STATUS.HOLDER 0 = 3)
    (p.alive = true → p.linkUp port = true → (Answers (.hostLinkDown port) s fun t => lost t ∧ t.linkUp port = false) ∧
      Answers (.functionLevelReset port) s fun t => lost t ∧ t.linkUp port = true ∧ t.mem = p.mem ∧ t.cores = p.cores) ∧
    (p.ready = true → p.linkUp port = true → p.get Fld.STREAM_RING.ENABLE (streamIdx port k) = 1 →
      p.get Fld.STREAM_STATUS.STATE (streamIdx port k) = 1 →
      p.get Fld.STREAM_STATUS.CONSUMER (streamIdx port k) ≠ (p.stream port k).producer →
      Answers (.hostCompletionTimeout port (.fetch k)) s fun t => t.get Fld.STREAM_STATUS.STATE (streamIdx port k) = 2 ∧
        t.get Fld.STREAM_STATUS.STOP_STATUS (streamIdx port k) = Status.timeout.code ∧ t.mem = p.mem ∧ t.cores = p.cores) ∧
    (∀ h : Fin 65536, p.ready = true → p.linkUp port = true → (p.handle h).st = .prefetching → (p.handle h).entry = true →
      (p.die (h / 16384)).pgWait = [] → Answers (.hostCompletionTimeout port (.reserve h)) s fun t =>
        (t.handle h).st = .offloaded ∧ (t.handle h).frames = [] ∧ (t.handle h).chunks = (p.handle h).chunks ∧
        (t.handle h).entry = false ∧ (∀ c : Fin 256, (t.seqWait c).on ≠ some h.val) ∧
        t.get Fld.MOVER_ERRORS.FAULT_COUNT (h / 16384) =
          min (p.get Fld.MOVER_ERRORS.FAULT_COUNT (h / 16384) + 1) (2 ^ Fld.MOVER_ERRORS.FAULT_COUNT.width - 1) ∧
        t.mem = p.mem ∧ t.host = p.host) ∧
    (p.linkUp port = true → Answers (.configRequest port) s fun t =>
      (p.barServed port = false → t.reply = .completion 2 ∧ t = { p with reply := t.reply }) ∧
      (p.barServed port = true → (∃ v, t.reply = .data v) ∧ t = { p with reply := t.reply, draw := t.draw })) ∧
    (p.barServed port = true → ∀ i, Answers (.doeDiscovery port i) s fun t =>
      (i = 0 → t.reply = .bytes [1, 0, 0, 1]) ∧ (i = 1 → t.reply = .bytes [1, 0, 1, 0]) ∧ t = { p with reply := t.reply }) ∧
    (∀ speed width ok tests, Instr.wf (.hostLinkUp port speed width ok tests) = true → p.mayTrain port = true →
      (p.linkUp (1 - port.val) = false → Answers (.hostLinkUp port speed width ok tests) s fun t => t.linkUp port = true ∧
        t.get Fld.HOST_PORT_STATUS.SPEED port = speed ∧ t.get Fld.HOST_PORT_STATUS.WIDTH port = width ∧
        RegsBut p t [(.HOST_PORT_STATUS, port)] ∧ t = { p with regs := t.regs }) ∧
      (p.linkUp (1 - port.val) = true → p.run = .starting 14 ∨ (p.run = .starting 7 ∧ ok = true ∧ tests.isSome = true) →
        Answers (.hostLinkUp port speed width ok tests) s fun t => t.linkUp port = true ∧ t.run = .ready ∧
          t.get Fld.START_STATUS.READY 0 = 1))

/-- R523 to R532, R564: RESET_N low holds the part in reset; its release begins a cold start, which stops at the step that
fails with its status or waits for the links; a step over its limit ends with TIMEOUT; a warm start keeps HBM and the
meridian and loses the cores; RETRY leaves safe mode by a cold start. -/
def Obligations.PartStartsStepByStep : Prop :=
  ∀ (port : Fin 2) (x : StartFacts) (s : State), x.wf = true →
    let p := s.met
    let started := fun (t : Part) => t.pins.resetN = true ∧
      ((∃ n, 2 ≤ n ∧ n ≤ 7 ∧ t.run = .starting n ∧ t.get Fld.START_STATUS.STEP 0 = n) ∨
        (t.run = .failed ∧ t.get Fld.START_STATUS.STOP_STATUS 0 ≠ 0 ∧ 2 ≤ t.get Fld.START_STATUS.STOP_STEP 0 ∧
          t.get Fld.START_STATUS.STOP_STEP 0 ≤ 6))
    (Answers .resetNAssert s fun t => t.run = .reset ∧ t.pins.resetN = false ∧ t.regs = [] ∧ t.mem = [] ∧ t.cores = [] ∧
      t.host = p.host ∧ (p.flash.update = none → t.flash = p.flash)) ∧
    (p.pins.resetN = false → p.pins.thermtripN = true ∨ x.cool = true → Answers (.resetNRelease x) s fun t => started t ∧
      t.pins.thermtripN = true ∧ (x.overrun = none → unresolvedDies (p.flash.resolved x) ≠ [] → t.run = .failed ∧
        t.get Fld.START_STATUS.STOP_STEP 0 = 2 ∧ t.get Fld.START_STATUS.STOP_STATUS 0 = Status.idUnresolved.code)) ∧
    (p.pins.resetN = false → p.pins.thermtripN = false → x.cool = false → Answers (.resetNRelease x) s fun t =>
      t.run = .dead ∧ t.pins.thermtripN = false ∧ t = { p with run := .dead, pins := t.pins }) ∧
    (∀ n, p.run = .starting n → p.safeMode = false →
      (2 ≤ n → n < 11 → Answers (.startStepTimeout x) s fun t => t.run = .failed ∧ t.get Fld.START_STATUS.STOP_STEP 0 = n ∧
        t.get Fld.START_STATUS.STOP_STATUS 0 = Status.timeout.code ∧ RegsBut p t [(.START_STATUS, 0)] ∧
        t = { p with regs := t.regs, run := .failed }) ∧
      (11 ≤ n → Answers (.startStepTimeout x) s fun t => started t ∧ t.get Fld.START_STATUS.ABANDONED_WARM 0 = 1)) ∧
    (p.pins.resetN = true → Answers (.perstDeassert port) s fun t =>
      (if port = 0 then t.pins.perstN.1 else t.pins.perstN.2) = true ∧ t = { p with pins := t.pins }) ∧
    (Accepted p port .START_CTRL 0 (wordOf 1) → Answers (.warmStart port x) s fun t =>
      ((∃ y ∈ x.digests, y.2 ≠ p.mapDigest y.1) → x.overrun = none → t.get Fld.START_STATUS.ABANDONED_WARM 0 = 1) ∧
      (t.get Fld.START_STATUS.ABANDONED_WARM 0 = 0 → t.time.raw = p.time.raw ∧ t.cores = [] ∧
        (p.upsets = [] → ∀ a, a < 0xC0_0000_0000 → t.byte a = p.byte a) ∧
        (∀ (c : Fin 256) a, a < 0xA0_0000 → t.byte (tileBase c + a) = 0))) ∧
    (Accepted p port .START_CTRL 0 (wordOf 2) → Answers (.retry port x) s fun t => p.safeMode = true ∧
      started t)

/-- R535 to R544, R549, R550: an accepted commit or retirement raises a floor of the flash and changes nothing else of it; a
slot update runs until it ends with its status, and a refused image leaves the flash as it was; a DEBUG object that does not
verify is refused and counted, and one that verifies for this part and its nonce opens debug. -/
def Obligations.FirmwareIsKeptAndUpdated : Prop :=
  ∀ (port : Fin 2) (v : BitVec 64) (root : BitVec 8) (x back : ImageFacts) (y : CertFacts) (s : State),
    let p := s.met
    (Accepted p port .START_CTRL 0 (wordOf 3) → Answers (.rollbackCommit port) s fun t =>
      t.flash = { p.flash with rollbackFloor := max p.flash.rollbackFloor (imgRollback p.runningHeader) } ∧ Taken t port ∧
      t = { p with regs := t.regs, flash := t.flash }) ∧
    (Accepted p port .START_CTRL 0 (wordOf (4 + 256 * root.toNat)) → Answers (.rootRetire port root) s fun t =>
      t.flash = { p.flash with rootFloor := root.toNat } ∧ p.flash.rootFloor < root.toNat ∧ root.toNat ≤ 3 ∧ Taken t port ∧
      t = { p with regs := t.regs, flash := t.flash }) ∧
    (Accepted p port .FW_UPDATE 0 (withBit v 0) → Answers (.fwUpdateGo port v) s fun t =>
      t.get Fld.FW_STATUS.UPDATE_STATE 0 = 1 ∧
      t.flash = { p.flash with update := some (4096 * t.get Fld.FW_UPDATE.SRC 0, t.get Fld.FW_UPDATE.TARGET 0) } ∧
      t.get Fld.FW_UPDATE.TARGET 0 ≠ p.get Fld.FW_STATUS.RUNNING_SLOT 0 ∧ Taken t port) ∧
    (∀ u, p.alive = true → p.flash.update = some u →
      let image := p.bytes u.1 (0x1000 + imgLength (p.bytes u.1 0x80))
      let st := p.flash.verify (bytesAt image 0 0x80) (if u.2 = 2 then 2 else 1) x
      Answers (.fwUpdateComplete x back) s fun t => t.flash.update = none ∧ t.mem = p.mem ∧ t.cores = p.cores ∧
        (t.get Fld.FW_STATUS.UPDATE_STATE 0 = 2 ↔ t.get Fld.FW_STATUS.UPDATE_STATUS 0 = 0) ∧
        (st ≠ .ok → t.flash = { p.flash with update := none } ∧ t.get Fld.FW_STATUS.UPDATE_STATE 0 = 3 ∧
          t.get Fld.FW_STATUS.UPDATE_STATUS 0 = st.code)) ∧
    (Accepted p port .SIGNED_CTRL 0 (wordOf 1) → fieldAt (p.signedWindow 0x40) 4 2 = 2 → y.itemOk = false →
      Answers (.submit port y) s fun t => t.get Fld.SIGNED_CTRL.SIGNED_STATUS 0 = Status.sigFail.code ∧
        t.mgmt.unlockFails = p.mgmt.unlockFails + 1 ∧ t.get Fld.START_STATUS.DEBUG_OPEN 0 = p.get Fld.START_STATUS.DEBUG_OPEN 0 ∧
        t.flash = p.flash) ∧
    (∀ l, p.alive = true → (p.mgmt.unlockFails < 3 ∧ y = ⟨true, true, true⟩ ∧ p.objectFor l 2 = true ∧ p.objectSigned l 2 y = true ∧
        fieldAt l 0x10 16 = p.mgmt.nonce.1.toNat + p.mgmt.nonce.2.toNat * 2 ^ 64) →
      Answers (.unlockInstrument l y) s fun t => t.reply = .data 0 ∧ t.get Fld.START_STATUS.DEBUG_OPEN 0 = 1 ∧
        t.mgmt.debugNets = fieldAt l 0x20 4 % 8 ∧ t.mgmt.tapInstr = 4)

/-- R546 to R548: version 1.2 to 1.4 is negotiated on each transport, and digests, chains, challenges and measurements are
answered after the algorithms are; before, and for a slot not offered, the answer is an error. -/
def Obligations.AttestationAnswers : Prop :=
  ∀ (k v : Fin 3) (slot : Fin 8) (off len : Fin 65536) (i : Fin 256) (nonce : List Byte) (s : State), s.met.spdmServed k = true →
    nonce.length = 32 →
    let p := s.met
    let ready := (p.spdm k).2
    (Answers (.getVersion k) s fun t => t.reply = .bytes [0x12, 0x13, 0x14] ∧ t.spdm k = (0, false)) ∧
    (Answers (.getCapabilities k v) s fun t => t.spdm k = (0x12 + v.val, false) ∧ ∃ l, t.reply = .bytes l) ∧
    ((p.spdm k).1 ≠ 0 → Answers (.negotiateAlgorithms k true) s fun t => t.spdm k = ((p.spdm k).1, true) ∧ ∃ l, t.reply = .bytes l) ∧
    (Answers (.negotiateAlgorithms k false) s fun t => t.reply = spdmError ∧ t = { p with reply := spdmError }) ∧
    (Answers (.getDigests k) s fun t => t = { p with reply := t.reply } ∧
      (ready = true → t.reply = .bytes ((p.spdmSlots k).flatMap (fun n => Config.sha384 (p.certChain n)))) ∧
      (ready = false → t.reply = spdmError)) ∧
    (Answers (.getCertificate k slot off len) s fun t => t = { p with reply := t.reply } ∧
      (ready = true ∧ slot.val ∈ p.spdmSlots k → t.reply = .bytes (((p.certChain slot).drop off).take len)) ∧
      (¬ (ready = true ∧ slot.val ∈ p.spdmSlots k) → t.reply = spdmError)) ∧
    (Answers (.challenge k slot nonce) s fun t => t = { p with reply := t.reply } ∧
      (ready = true ∧ slot.val ∈ p.spdmSlots k → ∃ l, t.reply = .bytes (Config.sha384 (p.certChain slot) ++ l)) ∧
      (¬ (ready = true ∧ slot.val ∈ p.spdmSlots k) → t.reply = spdmError)) ∧
    Answers (.getMeasurements k i none) s fun t => t = { p with reply := t.reply } ∧
      (ready = true → 1 ≤ i.val → i.val ≤ 6 → t.reply = .bytes (p.measurement i)) ∧
      (ready = false → t.reply = spdmError)

/-- R531, R532, R550, R564, R568, R574: the management bus takes an endpoint number, refuses an image that does not verify,
activates an image by a start, and reads a sensor (numbered by the model, log entry 36); the alert read clears SMB_ALERT_N;
the test access port takes its instructions, EXTEST only under reset. That images come in safe mode or before mask ROM alone
is the model's choice (log entry 35). -/
def Obligations.ManagementBusAndTestPort : Prop :=
  ∀ (e : Fin 256) (n : Fin 68) (slot : Fin 3) (image : List Byte) (x back : ImageFacts) (f : StartFacts) (s : State), f.wf = true →
    let p := s.met
    let inSafe := (p.safeMode = true ∧ slot ≠ 2) ∨ (p.romAnswers = true ∧ slot = 2)
    (p.alive = true ∨ p.romAnswers = true → Answers (.mctpControl (some e)) s fun t => t.mgmt.eid = e ∧
      t = { p with mgmt := t.mgmt, reply := t.reply }) ∧
    (inSafe → p.updating = false → p.flash.verify (bytesAt image 0 0x80) (if slot = 2 then 2 else 1) x ≠ .ok →
      Answers (.pldmFirmwareUpdate slot image x back) s fun t => t.get Fld.FW_STATUS.UPDATE_STATE 0 = 3 ∧
        t.flash.bytes = p.flash.bytes ∧ t.reply = .data (p.flash.verify (bytesAt image 0 0x80) (if slot = 2 then 2 else 1) x).code) ∧
    (p.safeMode = true ∨ p.romAnswers = true → p.pins.resetN = true → Answers (.activateFirmware f) s fun t =>
      t.run = .failed ∨ ∃ m, 2 ≤ m ∧ m ≤ 7 ∧ t.run = .starting m) ∧
    (p.ready = true → Answers (.pldmPlatformMonitoring n) s fun t => t.reply = .data (p.sensor n) ∧ t = { p with reply := t.reply }) ∧
    (p.pins.smbAlertN = false → Answers .alertResponseRead s fun t => t.reply = .data 0x4A ∧ t.pins.smbAlertN = true ∧
      t = { p with pins := t.pins, reply := t.reply }) ∧
    (Answers .smbusClockTimeout s fun t => t = p) ∧
    (Answers .bypass s fun t => t = { p with mgmt := { p.mgmt with tapInstr := 1 } }) ∧
    (Answers .idcode s fun t => t.reply = .data Config.idcode.toNat ∧ t = { p with mgmt := { p.mgmt with tapInstr := 0 }, reply := t.reply }) ∧
    (Answers .samplePreload s fun t => t.mgmt.tapInstr = 2 ∧ (∃ v, t.reply = .data v) ∧
      t = { p with mgmt := t.mgmt, reply := t.reply, draw := t.draw }) ∧
    Answers .extest s fun t => t = (if p.pins.resetN then p else { p with mgmt := { p.mgmt with tapInstr := 3 } })
end

