-- ==== Sys2Proof/Laws/Dispatch.lean ====
section
/-! SUPPORT. The dispatch of every command, one equation per arm. -/

namespace Sys2Proof.Machine

@[simp] theorem exec_nop (c : Fin 256) (σ : State) : exec (.nop c) σ = execNop c σ :=
  rfl
@[simp] theorem exec_add (c : Fin 256) (σ : State) : exec (.add c) σ = execAdd c σ :=
  rfl
@[simp] theorem exec_sub (c : Fin 256) (σ : State) : exec (.sub c) σ = execSub c σ :=
  rfl
@[simp] theorem exec_and (c : Fin 256) (σ : State) : exec (.and c) σ = execAnd c σ :=
  rfl
@[simp] theorem exec_or (c : Fin 256) (σ : State) : exec (.or c) σ = execOr c σ :=
  rfl
@[simp] theorem exec_xor (c : Fin 256) (σ : State) : exec (.xor c) σ = execXor c σ :=
  rfl
@[simp] theorem exec_shl (c : Fin 256) (σ : State) : exec (.shl c) σ = execShl c σ :=
  rfl
@[simp] theorem exec_shr (c : Fin 256) (σ : State) : exec (.shr c) σ = execShr c σ :=
  rfl
@[simp] theorem exec_sra (c : Fin 256) (σ : State) : exec (.sra c) σ = execSra c σ :=
  rfl
@[simp] theorem exec_mul (c : Fin 256) (σ : State) : exec (.mul c) σ = execMul c σ :=
  rfl
@[simp] theorem exec_slt (c : Fin 256) (σ : State) : exec (.slt c) σ = execSlt c σ :=
  rfl
@[simp] theorem exec_sltu (c : Fin 256) (σ : State) : exec (.sltu c) σ = execSltu c σ :=
  rfl
@[simp] theorem exec_addi (c : Fin 256) (σ : State) : exec (.addi c) σ = execAddi c σ :=
  rfl
@[simp] theorem exec_ori (c : Fin 256) (σ : State) : exec (.ori c) σ = execOri c σ :=
  rfl
@[simp] theorem exec_lih (c : Fin 256) (σ : State) : exec (.lih c) σ = execLih c σ :=
  rfl
@[simp] theorem exec_ld (c : Fin 256) (σ : State) : exec (.ld c) σ = execLd c σ :=
  rfl
@[simp] theorem exec_st (c : Fin 256) (σ : State) : exec (.st c) σ = execSt c σ :=
  rfl
@[simp] theorem exec_beq (c : Fin 256) (σ : State) : exec (.beq c) σ = execBeq c σ :=
  rfl
@[simp] theorem exec_bne (c : Fin 256) (σ : State) : exec (.bne c) σ = execBne c σ :=
  rfl
@[simp] theorem exec_blt (c : Fin 256) (σ : State) : exec (.blt c) σ = execBlt c σ :=
  rfl
@[simp] theorem exec_bge (c : Fin 256) (σ : State) : exec (.bge c) σ = execBge c σ :=
  rfl
@[simp] theorem exec_jal (c : Fin 256) (σ : State) : exec (.jal c) σ = execJal c σ :=
  rfl
@[simp] theorem exec_jr (c : Fin 256) (σ : State) : exec (.jr c) σ = execJr c σ :=
  rfl
@[simp] theorem exec_tdLd (c : Fin 256) (σ : State) : exec (.tdLd c) σ = execTdLd c σ :=
  rfl
@[simp] theorem exec_tdSt (c : Fin 256) (σ : State) : exec (.tdSt c) σ = execTdSt c σ :=
  rfl
@[simp] theorem exec_tdAdv (c : Fin 256) (σ : State) : exec (.tdAdv c) σ = execTdAdv c σ :=
  rfl
@[simp] theorem exec_crRd (c : Fin 256) (σ : State) : exec (.crRd c) σ = execCrRd c σ :=
  rfl
@[simp] theorem exec_crWr (c : Fin 256) (σ : State) : exec (.crWr c) σ = execCrWr c σ :=
  rfl
@[simp] theorem exec_brk (c : Fin 256) (σ : State) : exec (.brk c) σ = execBrk c σ :=
  rfl
@[simp] theorem exec_mtxMac (c : Fin 256) (σ : State) : exec (.mtxMac c) σ = execMtxMac c σ :=
  rfl
@[simp] theorem exec_mtxL1 (c : Fin 256) (σ : State) : exec (.mtxL1 c) σ = execMtxL1 c σ :=
  rfl
@[simp] theorem exec_mtxL2s (c : Fin 256) (σ : State) : exec (.mtxL2s c) σ = execMtxL2s c σ :=
  rfl
@[simp] theorem exec_mtxMinp (c : Fin 256) (σ : State) : exec (.mtxMinp c) σ = execMtxMinp c σ :=
  rfl
@[simp] theorem exec_mtxMaxp (c : Fin 256) (σ : State) : exec (.mtxMaxp c) σ = execMtxMaxp c σ :=
  rfl
@[simp] theorem exec_mtxEqc (c : Fin 256) (σ : State) : exec (.mtxEqc c) σ = execMtxEqc c σ :=
  rfl
@[simp] theorem exec_mtxGtc (c : Fin 256) (σ : State) : exec (.mtxGtc c) σ = execMtxGtc c σ :=
  rfl
@[simp] theorem exec_accClr (c : Fin 256) (σ : State) : exec (.accClr c) σ = execAccClr c σ :=
  rfl
@[simp] theorem exec_accLd (c : Fin 256) (σ : State) : exec (.accLd c) σ = execAccLd c σ :=
  rfl
@[simp] theorem exec_accDrain (c : Fin 256) (σ : State) : exec (.accDrain c) σ = execAccDrain c σ :=
  rfl
@[simp] theorem exec_relaySend (c : Fin 256) (σ : State) : exec (.relaySend c) σ = execRelaySend c σ :=
  rfl
@[simp] theorem exec_relayRecv (c : Fin 256) (σ : State) : exec (.relayRecv c) σ = execRelayRecv c σ :=
  rfl
@[simp] theorem exec_vAdd (c : Fin 256) (σ : State) : exec (.vAdd c) σ = execVAdd c σ :=
  rfl
@[simp] theorem exec_vSub (c : Fin 256) (σ : State) : exec (.vSub c) σ = execVSub c σ :=
  rfl
@[simp] theorem exec_vMul (c : Fin 256) (σ : State) : exec (.vMul c) σ = execVMul c σ :=
  rfl
@[simp] theorem exec_vFma (c : Fin 256) (σ : State) : exec (.vFma c) σ = execVFma c σ :=
  rfl
@[simp] theorem exec_vAbs (c : Fin 256) (σ : State) : exec (.vAbs c) σ = execVAbs c σ :=
  rfl
@[simp] theorem exec_vNeg (c : Fin 256) (σ : State) : exec (.vNeg c) σ = execVNeg c σ :=
  rfl
@[simp] theorem exec_vMin (c : Fin 256) (σ : State) : exec (.vMin c) σ = execVMin c σ :=
  rfl
@[simp] theorem exec_vMax (c : Fin 256) (σ : State) : exec (.vMax c) σ = execVMax c σ :=
  rfl
@[simp] theorem exec_vCmp (c : Fin 256) (σ : State) : exec (.vCmp c) σ = execVCmp c σ :=
  rfl
@[simp] theorem exec_vSel (c : Fin 256) (σ : State) : exec (.vSel c) σ = execVSel c σ :=
  rfl
@[simp] theorem exec_vCvt (c : Fin 256) (σ : State) : exec (.vCvt c) σ = execVCvt c σ :=
  rfl
@[simp] theorem exec_vRsum (c : Fin 256) (σ : State) : exec (.vRsum c) σ = execVRsum c σ :=
  rfl
@[simp] theorem exec_vRmax (c : Fin 256) (σ : State) : exec (.vRmax c) σ = execVRmax c σ :=
  rfl
@[simp] theorem exec_vRmin (c : Fin 256) (σ : State) : exec (.vRmin c) σ = execVRmin c σ :=
  rfl
@[simp] theorem exec_vAmax (c : Fin 256) (σ : State) : exec (.vAmax c) σ = execVAmax c σ :=
  rfl
@[simp] theorem exec_vExp2 (c : Fin 256) (σ : State) : exec (.vExp2 c) σ = execVExp2 c σ :=
  rfl
@[simp] theorem exec_vLog2 (c : Fin 256) (σ : State) : exec (.vLog2 c) σ = execVLog2 c σ :=
  rfl
@[simp] theorem exec_vRcp (c : Fin 256) (σ : State) : exec (.vRcp c) σ = execVRcp c σ :=
  rfl
@[simp] theorem exec_vRsqrt (c : Fin 256) (σ : State) : exec (.vRsqrt c) σ = execVRsqrt c σ :=
  rfl
@[simp] theorem exec_vSin (c : Fin 256) (σ : State) : exec (.vSin c) σ = execVSin c σ :=
  rfl
@[simp] theorem exec_vCos (c : Fin 256) (σ : State) : exec (.vCos c) σ = execVCos c σ :=
  rfl
@[simp] theorem exec_movD (c : Fin 256) (σ : State) : exec (.movD c) σ = execMovD c σ :=
  rfl
@[simp] theorem exec_movFadd (c : Fin 256) (σ : State) : exec (.movFadd c) σ = execMovFadd c σ :=
  rfl
@[simp] theorem exec_movIadd (c : Fin 256) (σ : State) : exec (.movIadd c) σ = execMovIadd c σ :=
  rfl
@[simp] theorem exec_pgAlloc (c : Fin 256) (σ : State) : exec (.pgAlloc c) σ = execPgAlloc c σ :=
  rfl
@[simp] theorem exec_pgFree (c : Fin 256) (σ : State) : exec (.pgFree c) σ = execPgFree c σ :=
  rfl
@[simp] theorem exec_pgOffload (c : Fin 256) (σ : State) : exec (.pgOffload c) σ = execPgOffload c σ :=
  rfl
@[simp] theorem exec_pgPrefetch (c : Fin 256) (σ : State) : exec (.pgPrefetch c) σ = execPgPrefetch c σ :=
  rfl
@[simp] theorem exec_pgPin (c : Fin 256) (σ : State) : exec (.pgPin c) σ = execPgPin c σ :=
  rfl
@[simp] theorem exec_wait (c : Fin 256) (σ : State) : exec (.wait c) σ = execWait c σ :=
  rfl
@[simp] theorem exec_sig (c : Fin 256) (σ : State) : exec (.sig c) σ = execSig c σ :=
  rfl
@[simp] theorem exec_fenceAcq (c : Fin 256) (σ : State) : exec (.fenceAcq c) σ = execFenceAcq c σ :=
  rfl
@[simp] theorem exec_fenceRel (c : Fin 256) (σ : State) : exec (.fenceRel c) σ = execFenceRel c σ :=
  rfl
@[simp] theorem exec_spanBegin (c : Fin 256) (σ : State) : exec (.spanBegin c) σ = execSpanBegin c σ :=
  rfl
@[simp] theorem exec_spanCommit (c : Fin 256) (σ : State) : exec (.spanCommit c) σ = execSpanCommit c σ :=
  rfl
@[simp] theorem exec_taskEnd (c : Fin 256) (σ : State) : exec (.taskEnd c) σ = execTaskEnd c σ :=
  rfl
@[simp] theorem exec_warm (c : Fin 256) (σ : State) : exec (.warm c) σ = execWarm c σ :=
  rfl
@[simp] theorem exec_launchAt (c : Fin 256) (σ : State) : exec (.launchAt c) σ = execLaunchAt c σ :=
  rfl
@[simp] theorem exec_queueIssue (c : Fin 256) (u : EUnit) (σ : State) : exec (.queueIssue c u) σ = execQueueIssue c u σ :=
  rfl
@[simp] theorem exec_instructionComplete (c : Fin 256) (u : EUnit) (i : Nat) (err ferr : List (Nat × BitVec 32)) (σ : State) : exec (.instructionComplete c u i err ferr) σ = execInstructionComplete c u i err ferr σ :=
  rfl
@[simp] theorem exec_relayWaitTimeout (c : Fin 256) (e : Fin 2) (i : Nat) (σ : State) : exec (.relayWaitTimeout c e i) σ = execRelayWaitTimeout c e i σ :=
  rfl
@[simp] theorem exec_bankWindowAccess (a : Accessor) (σ : State) : exec (.bankWindowAccess a) σ = execBankWindowAccess a σ :=
  rfl
@[simp] theorem exec_keeperWindowExpiry (e : Fin 512) (σ : State) : exec (.keeperWindowExpiry e) σ = execKeeperWindowExpiry e σ :=
  rfl
@[simp] theorem exec_keeperLaneFall (e : Fin 512) (σ : State) : exec (.keeperLaneFall e) σ = execKeeperLaneFall e σ :=
  rfl
@[simp] theorem exec_keeperLaneRise (e : Fin 512) (σ : State) : exec (.keeperLaneRise e) σ = execKeeperLaneRise e σ :=
  rfl
@[simp] theorem exec_governorHoldRelease (d : Fin 4) (σ : State) : exec (.governorHoldRelease d) σ = execGovernorHoldRelease d σ :=
  rfl
@[simp] theorem exec_lsaRelease (d : Fin 4) (σ : State) : exec (.lsaRelease d) σ = execLsaRelease d σ :=
  rfl
@[simp] theorem exec_engineParityFault (e : Fin 512 × EngineFault) (σ : State) :
    exec (.engineParityFault e) σ = execEngineParityFault e σ :=
  rfl
@[simp] theorem exec_veParityFault (c : Fin 256 × Nat) (σ : State) : exec (.veParityFault c) σ = execVeParityFault c σ :=
  rfl
@[simp] theorem exec_postWindowWrite (port : Fin 2) (k : Fin 32) (w : Fin 8) (v : BarData) (σ : State) : exec (.postWindowWrite port k w v) σ = execPostWindowWrite port k w v σ :=
  rfl
@[simp] theorem exec_watchReport (c : Fin 256) (i : Nat) (σ : State) : exec (.watchReport c i) σ = execWatchReport c i σ :=
  rfl
@[simp] theorem exec_taskPull (c : Fin 256) (σ : State) : exec (.taskPull c) σ = execTaskPull c σ :=
  rfl
@[simp] theorem exec_taskStart (c : Fin 256) (σ : State) : exec (.taskStart c) σ = execTaskStart c σ :=
  rfl
@[simp] theorem exec_slotRelease (port : Fin 2) (k : Fin 32) (slot : Fin 256) (σ : State) : exec (.slotRelease port k slot) σ = execSlotRelease port k slot σ :=
  rfl
@[simp] theorem exec_tokenPoke (port : Fin 2) (c : Fin 256) (v : BarData) (σ : State) : exec (.tokenPoke port c v) σ = execTokenPoke port c v σ :=
  rfl
@[simp] theorem exec_gaitCtrlWrite (port : Fin 2) (k : Fin 32) (v : BarData) (σ : State) : exec (.gaitCtrlWrite port k v) σ = execGaitCtrlWrite port k v σ :=
  rfl
@[simp] theorem exec_xlateInvalGo (port : Fin 2) (d : Fin 4) (v : BitVec 64) (σ : State) : exec (.xlateInvalGo port d v) σ = execXlateInvalGo port d v σ :=
  rfl
@[simp] theorem exec_xlateInvalComplete (d : Fin 4) (σ : State) : exec (.xlateInvalComplete d) σ = execXlateInvalComplete d σ :=
  rfl
@[simp] theorem exec_remoteModeWrite (port : Fin 2) (d : Fin 4) (mode : Fin 4) (σ : State) : exec (.remoteModeWrite port d mode) σ = execRemoteModeWrite port d mode σ :=
  rfl
@[simp] theorem exec_remoteModeChangeComplete (d : Fin 4) (σ : State) : exec (.remoteModeChangeComplete d) σ = execRemoteModeChangeComplete d σ :=
  rfl
@[simp] theorem exec_scrubPass (d : Fin 4) (flips : List Flip) (σ : State) : exec (.scrubPass d flips) σ = execScrubPass d flips σ :=
  rfl
@[simp] theorem exec_pagerOffloadComplete (h : Fin 65536) (σ : State) : exec (.pagerOffloadComplete h) σ = execPagerOffloadComplete h σ :=
  rfl
@[simp] theorem exec_pagerPrefetchComplete (h : Fin 65536) (σ : State) : exec (.pagerPrefetchComplete h) σ = execPagerPrefetchComplete h σ :=
  rfl
@[simp] theorem exec_demandLimitExpiry (a : Accessor) (σ : State) : exec (.demandLimitExpiry a) σ = execDemandLimitExpiry a σ :=
  rfl
@[simp] theorem exec_moverAdmit (d : Fin 4) (σ : State) : exec (.moverAdmit d) σ = execMoverAdmit d σ :=
  rfl
@[simp] theorem exec_moverTransferComplete (d : Fin 4) (id : Nat) (σ : State) : exec (.moverTransferComplete d id) σ = execMoverTransferComplete d id σ :=
  rfl
@[simp] theorem exec_updatePassStart (d : Fin 4) (σ : State) : exec (.updatePassStart d) σ = execUpdatePassStart d σ :=
  rfl
@[simp] theorem exec_updateRoundWrite (d : Fin 4) (parity : Bool) (σ : State) : exec (.updateRoundWrite d parity) σ = execUpdateRoundWrite d parity σ :=
  rfl
@[simp] theorem exec_updatePassComplete (d : Fin 4) (σ : State) : exec (.updatePassComplete d) σ = execUpdatePassComplete d σ :=
  rfl
@[simp] theorem exec_routerFrame (d : Fin 4) (ins : List (Nat × List Byte)) (bad : List Nat) (σ : State) : exec (.routerFrame d ins bad) σ = execRouterFrame d ins bad σ :=
  rfl
@[simp] theorem exec_bounceHoldExpiry (d : Fin 4) (i : Nat) (σ : State) : exec (.bounceHoldExpiry d i) σ = execBounceHoldExpiry d i σ :=
  rfl
@[simp] theorem exec_writePacket (d : Fin 4) (σ : State) : exec (.writePacket d) σ = execWritePacket d σ :=
  rfl
@[simp] theorem exec_relayPacket (d : Fin 4) (σ : State) : exec (.relayPacket d) σ = execRelayPacket d σ :=
  rfl
@[simp] theorem exec_sigPacket (d : Fin 4) (σ : State) : exec (.sigPacket d) σ = execSigPacket d σ :=
  rfl
@[simp] theorem exec_postPacket (d : Fin 4) (id : Nat) (σ : State) : exec (.postPacket d id) σ = execPostPacket d id σ :=
  rfl
@[simp] theorem exec_ack (d : Fin 4) (σ : State) : exec (.ack d) σ = execAck d σ :=
  rfl
@[simp] theorem exec_nack (d : Fin 4) (σ : State) : exec (.nack d) σ = execNack d σ :=
  rfl
@[simp] theorem exec_releasePacket (d : Fin 4) (σ : State) : exec (.releasePacket d) σ = execReleasePacket d σ :=
  rfl
@[simp] theorem exec_probe (q : Fin 24) (node : BitVec 16) (far : Fin 24) (crcOk fecOk : Bool) (σ : State) : exec (.probe q node far crcOk fecOk) σ = execProbe q node far crcOk fecOk σ :=
  rfl
@[simp] theorem exec_timesync (m : TimeMsg) (σ : State) : exec (.timesync m) σ = execTimesync m σ :=
  rfl
@[simp] theorem exec_ackDelayExpiry (i : Nat) (σ : State) : exec (.ackDelayExpiry i) σ = execAckDelayExpiry i σ :=
  rfl
@[simp] theorem exec_gapWaitExpiry (i j : Nat) (σ : State) : exec (.gapWaitExpiry i j) σ = execGapWaitExpiry i j σ :=
  rfl
@[simp] theorem exec_resendTimeout (d : Fin 4) (i : Nat) (σ : State) : exec (.resendTimeout d i) σ = execResendTimeout d i σ :=
  rfl
@[simp] theorem exec_releaseWaitExpiry (d : Fin 4) (i : Nat) (σ : State) : exec (.releaseWaitExpiry d i) σ = execReleaseWaitExpiry d i σ :=
  rfl
@[simp] theorem exec_recordHoldExpiry (d : Fin 4) (i : Nat) (σ : State) : exec (.recordHoldExpiry d i) σ = execRecordHoldExpiry d i σ :=
  rfl
@[simp] theorem exec_portEnable (port : Fin 2) (q : Fin 24) (mode : Fin 4) (σ : State) : exec (.portEnable port q mode) σ = execPortEnable port q mode σ :=
  rfl
@[simp] theorem exec_portDisable (port : Fin 2) (q : Fin 24) (mode : Fin 4) (σ : State) : exec (.portDisable port q mode) σ = execPortDisable port q mode σ :=
  rfl
@[simp] theorem exec_portTrainingComplete (q : Fin 24) (lanes : BitVec 4) (delay : BitVec 8) (σ : State) : exec (.portTrainingComplete q lanes delay) σ = execPortTrainingComplete q lanes delay σ :=
  rfl
@[simp] theorem exec_portTestComplete (q : Fin 24) (σ : State) : exec (.portTestComplete q) σ = execPortTestComplete q σ :=
  rfl
@[simp] theorem exec_portDown (q : Fin 24) (σ : State) : exec (.portDown q) σ = execPortDown q σ :=
  rfl
@[simp] theorem exec_bankConfirm (port : Fin 2) (d : Fin 4) (b : Fin 2) (v : BitVec 64) (σ : State) : exec (.bankConfirm port d b v) σ = execBankConfirm port d b v σ :=
  rfl
@[simp] theorem exec_epochFlipAtWrite (port : Fin 2) (m : BitVec 64) (σ : State) : exec (.epochFlipAtWrite port m) σ = execEpochFlipAtWrite port m σ :=
  rfl
@[simp] theorem exec_epochFlip (σ : State) : exec (.epochFlip) σ = execEpochFlip σ :=
  rfl
@[simp] theorem exec_epochBankReopen (σ : State) : exec (.epochBankReopen) σ = execEpochBankReopen σ :=
  rfl
@[simp] theorem exec_bundleRetireLive (d : Fin 4) (i : Fin 2176 × List BundleFrame) (σ : State) :
    exec (.bundleRetireLive d i) σ = execBundleRetireLive d i σ :=
  rfl
@[simp] theorem exec_retirementNoticeAck (d : Fin 4) (i : Fin 2176) (flashOk : Bool) (σ : State) : exec (.retirementNoticeAck d i flashOk) σ = execRetirementNoticeAck d i flashOk σ :=
  rfl
@[simp] theorem exec_meridianDieCompare (behind d1 d2 d3 : Bool) (σ : State) : exec (.meridianDieCompare behind d1 d2 d3) σ = execMeridianDieCompare behind d1 d2 d3 σ :=
  rfl
@[simp] theorem exec_pllLocked (σ : State) : exec (.pllLocked) σ = execPllLocked σ :=
  rfl
@[simp] theorem exec_holdoverEntry (σ : State) : exec (.holdoverEntry) σ = execHoldoverEntry σ :=
  rfl
@[simp] theorem exec_surveyGo (port : Fin 2) (v : BitVec 64) (σ : State) : exec (.surveyGo port v) σ = execSurveyGo port v σ :=
  rfl
@[simp] theorem exec_timesyncRetry (σ : State) : exec (.timesyncRetry) σ = execTimesyncRetry σ :=
  rfl
@[simp] theorem exec_surveyTimeout (σ : State) : exec (.surveyTimeout) σ = execSurveyTimeout σ :=
  rfl
@[simp] theorem exec_jobOffsetWrite (port : Fin 2) (v : BitVec 64) (σ : State) : exec (.jobOffsetWrite port v) σ = execJobOffsetWrite port v σ :=
  rfl
@[simp] theorem exec_slewEnd (σ : State) : exec (.slewEnd) σ = execSlewEnd σ :=
  rfl
@[simp] theorem exec_digestRecordReceive (d : Fin 4) (σ : State) : exec (.digestRecordReceive d) σ = execDigestRecordReceive d σ :=
  rfl
@[simp] theorem exec_tandemWaitExpiry (i : Nat) (σ : State) : exec (.tandemWaitExpiry i) σ = execTandemWaitExpiry i σ :=
  rfl
@[simp] theorem exec_mismatchNotice (d : Fin 4) (σ : State) : exec (.mismatchNotice d) σ = execMismatchNotice d σ :=
  rfl
@[simp] theorem exec_tandemRelease (port : Fin 2) (v : BitVec 64) (σ : State) : exec (.tandemRelease port v) σ = execTandemRelease port v σ :=
  rfl
@[simp] theorem exec_pairEnable (port : Fin 2) (d i : Fin 4) (v : BitVec 64) (σ : State) : exec (.pairEnable port d i v) σ = execPairEnable port d i v σ :=
  rfl
@[simp] theorem exec_replayDecision (c : Fin 256) (σ : State) : exec (.replayDecision c) σ = execReplayDecision c σ :=
  rfl
@[simp] theorem exec_coreExchange (c : Fin 256) (σ : State) : exec (.coreExchange c) σ = execCoreExchange c σ :=
  rfl
@[simp] theorem exec_helperWaitExpiry (c : Fin 256) (σ : State) : exec (.helperWaitExpiry c) σ = execHelperWaitExpiry c σ :=
  rfl
@[simp] theorem exec_decisionDrainCompare (c : Fin 256) (σ : State) : exec (.decisionDrainCompare c) σ = execDecisionDrainCompare c σ :=
  rfl
@[simp] theorem exec_pairMismatchDecision (c : Fin 256) (σ : State) : exec (.pairMismatchDecision c) σ = execPairMismatchDecision c σ :=
  rfl
@[simp] theorem exec_farrierTestDue (c : Fin 256) (σ : State) : exec (.farrierTestDue c) σ = execFarrierTestDue c σ :=
  rfl
@[simp] theorem exec_farrierTestStart (d : Fin 4) (σ : State) : exec (.farrierTestStart d) σ = execFarrierTestStart d σ :=
  rfl
@[simp] theorem exec_farrierTestEnd (d : Fin 4) (fails : BitVec 5) (σ : State) : exec (.farrierTestEnd d fails) σ = execFarrierTestEnd d fails σ :=
  rfl
@[simp] theorem exec_dueWindowExpiry (c : Fin 256) (σ : State) : exec (.dueWindowExpiry c) σ = execDueWindowExpiry c σ :=
  rfl
@[simp] theorem exec_testNow (port : Fin 2) (d : Fin 4) (n : Fin 64) (σ : State) : exec (.testNow port d n) σ = execTestNow port d n σ :=
  rfl
@[simp] theorem exec_defer (port : Fin 2) (d : Fin 4) (n : Fin 64) (σ : State) : exec (.defer port d n) σ = execDefer port d n σ :=
  rfl
@[simp] theorem exec_partnerCopyStart (σ : State) : exec (.partnerCopyStart) σ = execPartnerCopyStart σ :=
  rfl
@[simp] theorem exec_partnerCopyComplete (d : Fin 4) (σ : State) : exec (.partnerCopyComplete d) σ = execPartnerCopyComplete d σ :=
  rfl
@[simp] theorem exec_partnerCopyFail (d : Fin 4) (σ : State) : exec (.partnerCopyFail d) σ = execPartnerCopyFail d σ :=
  rfl
@[simp] theorem exec_partnerPairing (port : Fin 2) (v : BitVec 64) (σ : State) : exec (.partnerPairing port v) σ = execPartnerPairing port v σ :=
  rfl
@[simp] theorem exec_partnerPeerTimeout (σ : State) : exec (.partnerPeerTimeout) σ = execPartnerPeerTimeout σ :=
  rfl
@[simp] theorem exec_remountGo (port : Fin 2) (d : Fin 4) (v : BitVec 64) (σ : State) : exec (.remountGo port d v) σ = execRemountGo port d v σ :=
  rfl
@[simp] theorem exec_remountComplete (d : Fin 4) (σ : State) : exec (.remountComplete d) σ = execRemountComplete d σ :=
  rfl
@[simp] theorem exec_bar2Read (port : Fin 2) (off n : Nat) (σ : State) : exec (.bar2Read port off n) σ = execBar2Read port off n σ :=
  rfl
@[simp] theorem exec_bar2Write (port : Fin 2) (off : Nat) (data : List Byte) (σ : State) : exec (.bar2Write port off data) σ = execBar2Write port off data σ :=
  rfl
@[simp] theorem exec_streamDoorbell (port : Fin 2) (s : Fin 4096) (v : BitVec 32) (σ : State) : exec (.streamDoorbell port s v) σ = execStreamDoorbell port s v σ :=
  rfl
@[simp] theorem exec_launch (port : Fin 2) (s : Fin 4096) (err : Option (Fin 256)) (σ : State) : exec (.launch port s err) σ = execLaunch port s err σ :=
  rfl
@[simp] theorem exec_copy (port : Fin 2) (s : Fin 4096) (σ : State) : exec (.copy port s) σ = execCopy port s σ :=
  rfl
@[simp] theorem exec_reserve (port : Fin 2) (s : Fin 4096) (σ : State) : exec (.reserve port s) σ = execReserve port s σ :=
  rfl
@[simp] theorem exec_mgmt (port : Fin 2) (s : Fin 4096) (x : Env) (σ : State) : exec (.mgmt port s x) σ = execMgmt port s x σ :=
  rfl
@[simp] theorem exec_query (port : Fin 2) (s : Fin 4096) (σ : State) : exec (.query port s) σ = execQuery port s σ :=
  rfl
@[simp] theorem exec_registerWrite (port : Fin 2) (off n : Nat) (v : BitVec 64) (x : Env) (σ : State) : exec (.registerWrite port off n v x) σ = execRegisterWrite port off n v x σ :=
  rfl
@[simp] theorem exec_registerReadClear (port : Fin 2) (off n : Nat) (σ : State) : exec (.registerReadClear port off n) σ = execRegisterReadClear port off n σ :=
  rfl
@[simp] theorem exec_arbCommitGo (port : Fin 2) (d : Fin 4) (g : Fin 81) (σ : State) : exec (.arbCommitGo port d g) σ = execArbCommitGo port d g σ :=
  rfl
@[simp] theorem exec_arbSetApply (d : Fin 4) (g : Fin 81) (σ : State) : exec (.arbSetApply d g) σ = execArbSetApply d g σ :=
  rfl
@[simp] theorem exec_starvationDetect (d : Fin 4) (g : Fin 81) (inst : Fin 32) (req : Fin 12) (σ : State) : exec (.starvationDetect d g inst req) σ = execStarvationDetect d g inst req σ :=
  rfl
@[simp] theorem exec_leaseClaim (port : Fin 2) (σ : State) : exec (.leaseClaim port) σ = execLeaseClaim port σ :=
  rfl
@[simp] theorem exec_leaseRenew (port : Fin 2) (σ : State) : exec (.leaseRenew port) σ = execLeaseRenew port σ :=
  rfl
@[simp] theorem exec_leaseRelease (port : Fin 2) (σ : State) : exec (.leaseRelease port) σ = execLeaseRelease port σ :=
  rfl
@[simp] theorem exec_leaseExpiry (σ : State) : exec (.leaseExpiry) σ = execLeaseExpiry σ :=
  rfl
@[simp] theorem exec_hostLinkDown (port : Fin 2) (σ : State) : exec (.hostLinkDown port) σ = execHostLinkDown port σ :=
  rfl
@[simp] theorem exec_functionLevelReset (port : Fin 2) (σ : State) : exec (.functionLevelReset port) σ = execFunctionLevelReset port σ :=
  rfl
@[simp] theorem exec_hostCompletionTimeout (port : Fin 2) (r : HostReq) (σ : State) : exec (.hostCompletionTimeout port r) σ = execHostCompletionTimeout port r σ :=
  rfl
@[simp] theorem exec_resetNRelease (x : StartFacts) (σ : State) : exec (.resetNRelease x) σ = execResetNRelease x σ :=
  rfl
@[simp] theorem exec_startStepTimeout (x : StartFacts) (σ : State) : exec (.startStepTimeout x) σ = execStartStepTimeout x σ :=
  rfl
@[simp] theorem exec_resetNAssert (σ : State) : exec (.resetNAssert) σ = execResetNAssert σ :=
  rfl
@[simp] theorem exec_perstDeassert (port : Fin 2) (σ : State) : exec (.perstDeassert port) σ = execPerstDeassert port σ :=
  rfl
@[simp] theorem exec_warmStart (port : Fin 2) (x : StartFacts) (σ : State) : exec (.warmStart port x) σ = execWarmStart port x σ :=
  rfl
@[simp] theorem exec_retry (port : Fin 2) (x : StartFacts) (σ : State) : exec (.retry port x) σ = execRetry port x σ :=
  rfl
@[simp] theorem exec_rollbackCommit (port : Fin 2) (σ : State) : exec (.rollbackCommit port) σ = execRollbackCommit port σ :=
  rfl
@[simp] theorem exec_rootRetire (port : Fin 2) (root : BitVec 8) (σ : State) : exec (.rootRetire port root) σ = execRootRetire port root σ :=
  rfl
@[simp] theorem exec_fwUpdateGo (port : Fin 2) (v : BitVec 64) (σ : State) : exec (.fwUpdateGo port v) σ = execFwUpdateGo port v σ :=
  rfl
@[simp] theorem exec_fwUpdateComplete (x back : ImageFacts) (σ : State) : exec (.fwUpdateComplete x back) σ = execFwUpdateComplete x back σ :=
  rfl
@[simp] theorem exec_submit (port : Fin 2) (x : CertFacts) (σ : State) : exec (.submit port x) σ = execSubmit port x σ :=
  rfl
@[simp] theorem exec_getVersion (t : Fin 3) (σ : State) : exec (.getVersion t) σ = execGetVersion t σ :=
  rfl
@[simp] theorem exec_getCapabilities (t v : Fin 3) (σ : State) : exec (.getCapabilities t v) σ = execGetCapabilities t v σ :=
  rfl
@[simp] theorem exec_negotiateAlgorithms (t : Fin 3) (sha384 : Bool) (σ : State) : exec (.negotiateAlgorithms t sha384) σ = execNegotiateAlgorithms t sha384 σ :=
  rfl
@[simp] theorem exec_getDigests (t : Fin 3) (σ : State) : exec (.getDigests t) σ = execGetDigests t σ :=
  rfl
@[simp] theorem exec_getCertificate (t : Fin 3) (slot : Fin 8) (off len : Fin 65536) (σ : State) : exec (.getCertificate t slot off len) σ = execGetCertificate t slot off len σ :=
  rfl
@[simp] theorem exec_challenge (t : Fin 3) (slot : Fin 8) (nonce : List Byte) (σ : State) : exec (.challenge t slot nonce) σ = execChallenge t slot nonce σ :=
  rfl
@[simp] theorem exec_getMeasurements (t : Fin 3) (index : Fin 256) (nonce : Option (List Byte)) (σ : State) : exec (.getMeasurements t index nonce) σ = execGetMeasurements t index nonce σ :=
  rfl
@[simp] theorem exec_mctpControl (eid : Option (Fin 256)) (σ : State) : exec (.mctpControl eid) σ = execMctpControl eid σ :=
  rfl
@[simp] theorem exec_pldmFirmwareUpdate (slot : Fin 3) (image : List Byte) (x back : ImageFacts) (σ : State) : exec (.pldmFirmwareUpdate slot image x back) σ = execPldmFirmwareUpdate slot image x back σ :=
  rfl
@[simp] theorem exec_activateFirmware (x : StartFacts) (σ : State) : exec (.activateFirmware x) σ = execActivateFirmware x σ :=
  rfl
@[simp] theorem exec_pldmPlatformMonitoring (n : Fin 68) (σ : State) : exec (.pldmPlatformMonitoring n) σ = execPldmPlatformMonitoring n σ :=
  rfl
@[simp] theorem exec_alertResponseRead (σ : State) : exec (.alertResponseRead) σ = execAlertResponseRead σ :=
  rfl
@[simp] theorem exec_smbusClockTimeout (σ : State) : exec (.smbusClockTimeout) σ = execSmbusClockTimeout σ :=
  rfl
@[simp] theorem exec_unlockInstrument (obj : List Byte) (x : CertFacts) (σ : State) : exec (.unlockInstrument obj x) σ = execUnlockInstrument obj x σ :=
  rfl
@[simp] theorem exec_bypass (σ : State) : exec (.bypass) σ = execBypass σ :=
  rfl
@[simp] theorem exec_idcode (σ : State) : exec (.idcode) σ = execIdcode σ :=
  rfl
@[simp] theorem exec_samplePreload (σ : State) : exec (.samplePreload) σ = execSamplePreload σ :=
  rfl
@[simp] theorem exec_extest (σ : State) : exec (.extest) σ = execExtest σ :=
  rfl
@[simp] theorem exec_levelStep (d : Fin 4) (announce : Bool) (σ : State) : exec (.levelStep d announce) σ = execLevelStep d announce σ :=
  rfl
@[simp] theorem exec_capLoop (early : Option (Fin 4)) (σ : State) : exec (.capLoop early) σ = execCapLoop early σ :=
  rfl
@[simp] theorem exec_thermalSample (temps : List (BitVec 16)) (σ : State) : exec (.thermalSample temps) σ = execThermalSample temps σ :=
  rfl
@[simp] theorem exec_avsbusPoll (readings : List (Fin 16 × Option (BitVec 16 × BitVec 16))) (σ : State) : exec (.avsbusPoll readings) σ = execAvsbusPoll readings σ :=
  rfl
@[simp] theorem exec_avsbusTimeout (r : Fin 16) (σ : State) : exec (.avsbusTimeout r) σ = execAvsbusTimeout r σ :=
  rfl
@[simp] theorem exec_droopAssert (d : Fin 4) (σ : State) : exec (.droopAssert d) σ = execDroopAssert d σ :=
  rfl
@[simp] theorem exec_droopDeassert (d : Fin 4) (σ : State) : exec (.droopDeassert d) σ = execDroopDeassert d σ :=
  rfl
@[simp] theorem exec_droopStretchEnd (d : Fin 4) (σ : State) : exec (.droopStretchEnd d) σ = execDroopStretchEnd d σ :=
  rfl
@[simp] theorem exec_droopStuck (d : Fin 4) (σ : State) : exec (.droopStuck d) σ = execDroopStuck d σ :=
  rfl
@[simp] theorem exec_throttleAssert (σ : State) : exec (.throttleAssert) σ = execThrottleAssert σ :=
  rfl
@[simp] theorem exec_throttleRelease (σ : State) : exec (.throttleRelease) σ = execThrottleRelease σ :=
  rfl
@[simp] theorem exec_throttleStuck (σ : State) : exec (.throttleStuck) σ = execThrottleStuck σ :=
  rfl
@[simp] theorem exec_refclkPcieLoss (port : Fin 2) (σ : State) : exec (.refclkPcieLoss port) σ = execRefclkPcieLoss port σ :=
  rfl
@[simp] theorem exec_refclkSdLoss (σ : State) : exec (.refclkSdLoss) σ = execRefclkSdLoss σ :=
  rfl
@[simp] theorem exec_refclkPkgLoss (σ : State) : exec (.refclkPkgLoss) σ = execRefclkPkgLoss σ :=
  rfl
@[simp] theorem exec_pdSwitch (port : Fin 2) (v : BarData) (σ : State) : exec (.pdSwitch port v) σ = execPdSwitch port v σ :=
  rfl
@[simp] theorem exec_pdPowerUpComplete (n : Fin 40) (σ : State) : exec (.pdPowerUpComplete n) σ = execPdPowerUpComplete n σ :=
  rfl
@[simp] theorem exec_tileStoreClearComplete (k : Fin 32) (σ : State) : exec (.tileStoreClearComplete k) σ = execTileStoreClearComplete k σ :=
  rfl
@[simp] theorem exec_counterSnapGo (port : Fin 2) (σ : State) : exec (.counterSnapGo port) σ = execCounterSnapGo port σ :=
  rfl
@[simp] theorem exec_counterLatch (σ : State) : exec (.counterLatch) σ = execCounterLatch σ :=
  rfl
@[simp] theorem exec_halt (port : Fin 2) (c : Fin 256) (arm : Fin 2) (σ : State) : exec (.halt port c arm) σ = execHalt port c arm σ :=
  rfl
@[simp] theorem exec_step (port : Fin 2) (c : Fin 256) (arm : Fin 2) (σ : State) : exec (.step port c arm) σ = execStep port c arm σ :=
  rfl
@[simp] theorem exec_resume (port : Fin 2) (c : Fin 256) (arm : Fin 2) (σ : State) : exec (.resume port c arm) σ = execResume port c arm σ :=
  rfl
@[simp] theorem exec_dbgSnapGo (port : Fin 2) (c : Fin 256) (v : BitVec 64) (σ : State) : exec (.dbgSnapGo port c v) σ = execDbgSnapGo port c v σ :=
  rfl
@[simp] theorem exec_jobTimeReached (c : Fin 256) (σ : State) : exec (.jobTimeReached c) σ = execJobTimeReached c σ :=
  rfl
@[simp] theorem exec_hostLinkUp (port : Fin 2) (speed : Fin 7) (width : Fin 17) (patternOk : Bool) (tests : Option (List (Fin 256 × BitVec 5))) (σ : State) : exec (.hostLinkUp port speed width patternOk tests) σ = execHostLinkUp port speed width patternOk tests σ :=
  rfl
@[simp] theorem exec_configRequest (port : Fin 2) (σ : State) : exec (.configRequest port) σ = execConfigRequest port σ :=
  rfl
@[simp] theorem exec_doeDiscovery (port : Fin 2) (index : Fin 256) (σ : State) : exec (.doeDiscovery port index) σ = execDoeDiscovery port index σ :=
  rfl
@[simp] theorem exec_droopStuckClear (d : Fin 4) (σ : State) : exec (.droopStuckClear d) σ = execDroopStuckClear d σ :=
  rfl
@[simp] theorem exec_peerPairingAnswer (feed : Fin 16) (σ : State) : exec (.peerPairingAnswer feed) σ = execPeerPairingAnswer feed σ :=
  rfl

end Sys2Proof.Machine
end

