-- ==== Sys2Proof/Laws/Tab.lean ====
section
/-! SUPPORT. The laws of sparse tables: a read after a write, and the canonical form that every write keeps. -/

namespace Sys2Proof.Machine

variable {α : Type}

theorem Tab.find?_put_same (t : Tab α) (k : Nat) (v : α) : Tab.find? (Tab.put t k v) k = some v := by
  induction t with
  | nil => simp [Tab.put, Tab.find?]
  | cons x r ih =>
    obtain ⟨j, w⟩ := x
    simp only [Tab.put]
    split
    · simp [Tab.find?]
    · split
      · simp [Tab.find?]
      · rename_i h _
        simp [Tab.find?, h, ih]

theorem Tab.find?_put_other (t : Tab α) {k i : Nat} (v : α) (h : i ≠ k) :
    Tab.find? (Tab.put t k v) i = Tab.find? t i := by
  induction t with
  | nil => simp [Tab.put, Tab.find?, Ne.symm h]
  | cons x r ih =>
    obtain ⟨j, w⟩ := x
    simp only [Tab.put]
    split
    · rename_i hj
      subst hj
      simp [Tab.find?, Ne.symm h]
    · split
      · simp [Tab.find?, Ne.symm h]
      · simp [Tab.find?, ih]

theorem Tab.find?_del_same (t : Tab α) (k : Nat) : Tab.find? (Tab.del t k) k = none := by
  induction t with
  | nil => rfl
  | cons x r ih =>
    obtain ⟨j, w⟩ := x
    by_cases h : j = k
    · simpa [Tab.del, h] using ih
    · have : Tab.del ((j, w) :: r) k = (j, w) :: Tab.del r k := by simp [Tab.del, h]
      simp [this, Tab.find?, h, ih]

theorem Tab.find?_del_other (t : Tab α) {k i : Nat} (h : i ≠ k) : Tab.find? (Tab.del t k) i = Tab.find? t i := by
  induction t with
  | nil => rfl
  | cons x r ih =>
    obtain ⟨j, w⟩ := x
    by_cases hj : j = k
    · have : Tab.del ((j, w) :: r) k = Tab.del r k := by simp [Tab.del, hj]
      rw [this, ih]
      subst hj
      simp [Tab.find?, Ne.symm h]
    · have : Tab.del ((j, w) :: r) k = (j, w) :: Tab.del r k := by simp [Tab.del, hj]
      simp [this, Tab.find?, ih]

/-- A read after a write of the same key gives the value written. -/
@[simp] theorem Tab.get_set_same [DecidableEq α] (d : α) (t : Tab α) (k : Nat) (v : α) :
    Tab.get d (Tab.set d t k v) k = v := by
  simp only [Tab.get, Tab.set]
  split
  · rename_i h
    simp [Tab.find?_del_same, h]
  · simp [Tab.find?_put_same]

/-- A write leaves every other key alone. -/
theorem Tab.get_set_other [DecidableEq α] (d e : α) (t : Tab α) {k i : Nat} (v : α) (h : i ≠ k) :
    Tab.get d (Tab.set e t k v) i = Tab.get d t i := by
  simp only [Tab.get, Tab.set]
  split
  · rw [Tab.find?_del_other t h]
  · rw [Tab.find?_put_other t v h]

/-! ### Canonical form -/

/-- The canonical form, as a property of the list of entries. -/
theorem Tab.wf_iff [DecidableEq α] (d : α) (t : Tab α) :
    Tab.wf d t = true ↔ t.Pairwise (fun x y => x.1 < y.1) ∧ ∀ x ∈ t, x.2 ≠ d := by
  induction t with
  | nil => simp [Tab.wf]
  | cons x r ih =>
    obtain ⟨j, v⟩ := x
    cases r with
    | nil => simp [Tab.wf]
    | cons y r =>
      obtain ⟨k, w⟩ := y
      simp only [Tab.wf, Bool.and_eq_true, decide_eq_true_eq, ih, List.pairwise_cons, List.mem_cons, forall_eq_or_imp]
      constructor
      · rintro ⟨⟨hv, hjk⟩, ⟨hk, hr⟩, hw, hrest⟩
        exact ⟨⟨⟨hjk, fun a ha => lt_trans hjk (hk a ha)⟩, hk, hr⟩, hv, hw, hrest⟩
      · rintro ⟨⟨⟨hjk, _⟩, hk, hr⟩, hv, hw, hrest⟩
        exact ⟨⟨hv, hjk⟩, ⟨hk, hr⟩, hw, hrest⟩

theorem Tab.mem_put {t : Tab α} {k : Nat} {v : α} {x : Nat × α} (h : x ∈ Tab.put t k v) : x = (k, v) ∨ x ∈ t := by
  induction t with
  | nil => simpa [Tab.put] using h
  | cons y r ih =>
    obtain ⟨j, w⟩ := y
    simp only [Tab.put] at h
    split at h
    · simp only [List.mem_cons] at h ⊢; tauto
    · split at h
      · simp only [List.mem_cons] at h ⊢; tauto
      · simp only [List.mem_cons] at h ⊢
        rcases h with h | h
        · tauto
        · have := ih h; tauto

/-- Filtering entries keeps the canonical form. -/
theorem Tab.wf_filter [DecidableEq α] {d : α} {t : Tab α} (q : Nat × α → Bool) (h : Tab.wf d t = true) :
    Tab.wf d (t.filter q) = true := by
  rw [Tab.wf_iff] at h ⊢
  exact ⟨h.1.filter q, fun x hx => h.2 x (List.mem_of_mem_filter hx)⟩

theorem Tab.wf_del [DecidableEq α] {d : α} {t : Tab α} (k : Nat) (h : Tab.wf d t = true) : Tab.wf d (Tab.del t k) = true :=
  Tab.wf_filter _ h

theorem Tab.wf_delRange [DecidableEq α] {d : α} {t : Tab α} (lo n : Nat) (h : Tab.wf d t = true) :
    Tab.wf d (Tab.delRange t lo n) = true :=
  Tab.wf_filter _ h

theorem Tab.pairwise_put {t : Tab α} (k : Nat) (v : α) (h : t.Pairwise (fun x y => x.1 < y.1)) :
    (Tab.put t k v).Pairwise (fun x y => x.1 < y.1) := by
  induction t with
  | nil => simp [Tab.put]
  | cons y r ih =>
    obtain ⟨j, w⟩ := y
    rw [List.pairwise_cons] at h
    simp only [Tab.put]
    split
    · rename_i hj
      subst hj
      exact List.pairwise_cons.2 ⟨h.1, h.2⟩
    · split
      · rename_i hk
        refine List.pairwise_cons.2 ⟨?_, List.pairwise_cons.2 h⟩
        intro a ha
        rcases List.mem_cons.1 ha with ha | ha
        · subst ha; exact hk
        · exact lt_trans hk (h.1 a ha)
      · rename_i hne hk
        refine List.pairwise_cons.2 ⟨?_, ih h.2⟩
        intro a ha
        rcases Tab.mem_put ha with ha | ha
        · subst ha; simp only; omega
        · exact h.1 a ha

/-- The canonical write keeps the canonical form. -/
theorem Tab.wf_set [DecidableEq α] {d : α} {t : Tab α} (k : Nat) (v : α) (h : Tab.wf d t = true) :
    Tab.wf d (Tab.set d t k v) = true := by
  unfold Tab.set
  split
  · exact Tab.wf_del k h
  · rename_i hv
    rw [Tab.wf_iff] at h ⊢
    refine ⟨Tab.pairwise_put k v h.1, fun x hx => ?_⟩
    rcases Tab.mem_put hx with rfl | hx
    · exact hv
    · exact h.2 x hx

/-- Two tables in canonical form that read alike at every key are equal data. -/
theorem Tab.ext_of_wf [DecidableEq α] {d : α} {t u : Tab α} (ht : Tab.wf d t = true) (hu : Tab.wf d u = true)
    (h : ∀ k, Tab.get d t k = Tab.get d u k) : t = u := by
  have get_cons (j : Nat) (v : α) (r : Tab α) (k : Nat) :
      Tab.get d ((j, v) :: r) k = if j = k then v else Tab.get d r k := by
    simp only [Tab.get, Tab.find?]; split <;> simp
  have low (r : Tab α) (k : Nat) (hr : ∀ x ∈ r, k < x.1) : Tab.get d r k = d := by
    induction r with
    | nil => rfl
    | cons x r ih =>
      obtain ⟨j, v⟩ := x
      have := hr (j, v) (by simp)
      rw [get_cons, if_neg (by simp only at this; omega)]
      exact ih fun y hy => hr y (by simp [hy])
  rw [Tab.wf_iff] at ht hu
  induction t generalizing u with
  | nil =>
    cases u with
    | nil => rfl
    | cons y r =>
      obtain ⟨j, v⟩ := y
      have := h j
      rw [get_cons, if_pos rfl] at this
      exact absurd this.symm (hu.2 (j, v) (by simp))
  | cons x r ih =>
    obtain ⟨j, v⟩ := x
    obtain ⟨hp, hv⟩ := ht
    rw [List.pairwise_cons] at hp
    cases u with
    | nil =>
      have := h j
      rw [get_cons, if_pos rfl] at this
      exact absurd this (hv (j, v) (by simp))
    | cons y s =>
      obtain ⟨k, w⟩ := y
      obtain ⟨hq, hw⟩ := hu
      rw [List.pairwise_cons] at hq
      have hj := h j
      have hk := h k
      rw [get_cons, if_pos rfl, get_cons] at hj
      rw [get_cons, get_cons, if_pos rfl] at hk
      have hjk : j = k := by
        rcases lt_trichotomy j k with hlt | heq | hgt
        · rw [if_neg (by omega), low s j (fun x hx => lt_trans hlt (hq.1 x hx))] at hj
          exact absurd hj (hv (j, v) (by simp))
        · exact heq
        · rw [if_neg (by omega), low r k (fun x hx => lt_trans hgt (hp.1 x hx))] at hk
          exact absurd hk.symm (hw (k, w) (by simp))
      subst hjk
      rw [if_pos rfl] at hj
      subst hj
      congr 1
      refine ih ⟨hp.2, fun x hx => hv x (by simp [hx])⟩ ⟨hq.2, fun x hx => hw x (by simp [hx])⟩ fun i => ?_
      have hi := h i
      rw [get_cons, get_cons] at hi
      by_cases hij : j = i
      · subst hij
        rw [low r j hp.1, low s j hq.1]
      · rwa [if_neg hij, if_neg hij] at hi

/-- Reading a table whose every value went through a function that keeps the default. -/
theorem Tab.get_map {d : α} (f : α → α) (h : f d = d) (t : Tab α) (i : Nat) :
    Tab.get d (t.map (fun x => (x.1, f x.2))) i = f (Tab.get d t i) := by
  unfold Tab.get
  induction t with
  | nil => simp [Tab.find?, h]
  | cons x r ih =>
    obtain ⟨j, w⟩ := x
    simp only [List.map_cons, Tab.find?]
    split
    · rfl
    · exact ih

end Sys2Proof.Machine
end

