-- ==== Sys2Proof/Laws/State.lean ====
section
/-! SUPPORT. What each named update of the part leaves alone, field by field, and what it writes. -/

namespace Sys2Proof.Machine

variable (p : Part)


/-! ### wr -/

@[simp] theorem Part.wr_mem (r : Reg) (i : Nat) (w : Word) : (p.wr r i w).mem = p.mem := rfl
@[simp] theorem Part.wr_host (r : Reg) (i : Nat) (w : Word) : (p.wr r i w).host = p.host := rfl
@[simp] theorem Part.wr_upsets (r : Reg) (i : Nat) (w : Word) : (p.wr r i w).upsets = p.upsets := rfl
@[simp] theorem Part.wr_lines (r : Reg) (i : Nat) (w : Word) : (p.wr r i w).lines = p.lines := rfl
@[simp] theorem Part.wr_cores (r : Reg) (i : Nat) (w : Word) : (p.wr r i w).cores = p.cores := rfl
@[simp] theorem Part.wr_seqWaits (r : Reg) (i : Nat) (w : Word) : (p.wr r i w).seqWaits = p.seqWaits := rfl
@[simp] theorem Part.wr_banks (r : Reg) (i : Nat) (w : Word) : (p.wr r i w).banks = p.banks := rfl
@[simp] theorem Part.wr_engines (r : Reg) (i : Nat) (w : Word) : (p.wr r i w).engines = p.engines := rfl
@[simp] theorem Part.wr_ves (r : Reg) (i : Nat) (w : Word) : (p.wr r i w).ves = p.ves := rfl
@[simp] theorem Part.wr_clusters (r : Reg) (i : Nat) (w : Word) : (p.wr r i w).clusters = p.clusters := rfl
@[simp] theorem Part.wr_slots (r : Reg) (i : Nat) (w : Word) : (p.wr r i w).slots = p.slots := rfl
@[simp] theorem Part.wr_staging (r : Reg) (i : Nat) (w : Word) : (p.wr r i w).staging = p.staging := rfl
@[simp] theorem Part.wr_postRes (r : Reg) (i : Nat) (w : Word) : (p.wr r i w).postRes = p.postRes := rfl
@[simp] theorem Part.wr_dies (r : Reg) (i : Nat) (w : Word) : (p.wr r i w).dies = p.dies := rfl
@[simp] theorem Part.wr_handles (r : Reg) (i : Nat) (w : Word) : (p.wr r i w).handles = p.handles := rfl
@[simp] theorem Part.wr_ports (r : Reg) (i : Nat) (w : Word) : (p.wr r i w).ports = p.ports := rfl
@[simp] theorem Part.wr_flows (r : Reg) (i : Nat) (w : Word) : (p.wr r i w).flows = p.flows := rfl
@[simp] theorem Part.wr_flipDone (r : Reg) (i : Nat) (w : Word) : (p.wr r i w).flipDone = p.flipDone := rfl
@[simp] theorem Part.wr_arbSets (r : Reg) (i : Nat) (w : Word) : (p.wr r i w).arbSets = p.arbSets := rfl
@[simp] theorem Part.wr_starved (r : Reg) (i : Nat) (w : Word) : (p.wr r i w).starved = p.starved := rfl
@[simp] theorem Part.wr_streams (r : Reg) (i : Nat) (w : Word) : (p.wr r i w).streams = p.streams := rfl
@[simp] theorem Part.wr_msix (r : Reg) (i : Nat) (w : Word) : (p.wr r i w).msix = p.msix := rfl
@[simp] theorem Part.wr_evSeq (r : Reg) (i : Nat) (w : Word) : (p.wr r i w).evSeq = p.evSeq := rfl
@[simp] theorem Part.wr_time (r : Reg) (i : Nat) (w : Word) : (p.wr r i w).time = p.time := rfl
@[simp] theorem Part.wr_retireNotices (r : Reg) (i : Nat) (w : Word) : (p.wr r i w).retireNotices = p.retireNotices := rfl
@[simp] theorem Part.wr_bundles (r : Reg) (i : Nat) (w : Word) : (p.wr r i w).bundles = p.bundles := rfl
@[simp] theorem Part.wr_retiredPorts (r : Reg) (i : Nat) (w : Word) : (p.wr r i w).retiredPorts = p.retiredPorts := rfl
@[simp] theorem Part.wr_hbmFault (r : Reg) (i : Nat) (w : Word) : (p.wr r i w).hbmFault = p.hbmFault := rfl
@[simp] theorem Part.wr_copyHeld (r : Reg) (i : Nat) (w : Word) : (p.wr r i w).copyHeld = p.copyHeld := rfl
@[simp] theorem Part.wr_run (r : Reg) (i : Nat) (w : Word) : (p.wr r i w).run = p.run := rfl
@[simp] theorem Part.wr_pins (r : Reg) (i : Nat) (w : Word) : (p.wr r i w).pins = p.pins := rfl
@[simp] theorem Part.wr_flash (r : Reg) (i : Nat) (w : Word) : (p.wr r i w).flash = p.flash := rfl
@[simp] theorem Part.wr_mgmt (r : Reg) (i : Nat) (w : Word) : (p.wr r i w).mgmt = p.mgmt := rfl
@[simp] theorem Part.wr_levels (r : Reg) (i : Nat) (w : Word) : (p.wr r i w).levels = p.levels := rfl
@[simp] theorem Part.wr_hot (r : Reg) (i : Nat) (w : Word) : (p.wr r i w).hot = p.hot := rfl
@[simp] theorem Part.wr_levelAt (r : Reg) (i : Nat) (w : Word) : (p.wr r i w).levelAt = p.levelAt := rfl
@[simp] theorem Part.wr_trip (r : Reg) (i : Nat) (w : Word) : (p.wr r i w).trip = p.trip := rfl
@[simp] theorem Part.wr_power (r : Reg) (i : Nat) (w : Word) : (p.wr r i w).power = p.power := rfl
@[simp] theorem Part.wr_snapAt (r : Reg) (i : Nat) (w : Word) : (p.wr r i w).snapAt = p.snapAt := rfl
@[simp] theorem Part.wr_reply (r : Reg) (i : Nat) (w : Word) : (p.wr r i w).reply = p.reply := rfl
@[simp] theorem Part.wr_draw (r : Reg) (i : Nat) (w : Word) : (p.wr r i w).draw = p.draw := rfl

/-! ### setCore -/

@[simp] theorem Part.setCore_regs (c : Nat) (x : CoreSt) : (p.setCore c x).regs = p.regs := rfl
@[simp] theorem Part.setCore_mem (c : Nat) (x : CoreSt) : (p.setCore c x).mem = p.mem := rfl
@[simp] theorem Part.setCore_host (c : Nat) (x : CoreSt) : (p.setCore c x).host = p.host := rfl
@[simp] theorem Part.setCore_upsets (c : Nat) (x : CoreSt) : (p.setCore c x).upsets = p.upsets := rfl
@[simp] theorem Part.setCore_lines (c : Nat) (x : CoreSt) : (p.setCore c x).lines = p.lines := rfl
@[simp] theorem Part.setCore_seqWaits (c : Nat) (x : CoreSt) : (p.setCore c x).seqWaits = p.seqWaits := rfl
@[simp] theorem Part.setCore_banks (c : Nat) (x : CoreSt) : (p.setCore c x).banks = p.banks := rfl
@[simp] theorem Part.setCore_engines (c : Nat) (x : CoreSt) : (p.setCore c x).engines = p.engines := rfl
@[simp] theorem Part.setCore_ves (c : Nat) (x : CoreSt) : (p.setCore c x).ves = p.ves := rfl
@[simp] theorem Part.setCore_clusters (c : Nat) (x : CoreSt) : (p.setCore c x).clusters = p.clusters := rfl
@[simp] theorem Part.setCore_slots (c : Nat) (x : CoreSt) : (p.setCore c x).slots = p.slots := rfl
@[simp] theorem Part.setCore_staging (c : Nat) (x : CoreSt) : (p.setCore c x).staging = p.staging := rfl
@[simp] theorem Part.setCore_postRes (c : Nat) (x : CoreSt) : (p.setCore c x).postRes = p.postRes := rfl
@[simp] theorem Part.setCore_dies (c : Nat) (x : CoreSt) : (p.setCore c x).dies = p.dies := rfl
@[simp] theorem Part.setCore_handles (c : Nat) (x : CoreSt) : (p.setCore c x).handles = p.handles := rfl
@[simp] theorem Part.setCore_ports (c : Nat) (x : CoreSt) : (p.setCore c x).ports = p.ports := rfl
@[simp] theorem Part.setCore_flows (c : Nat) (x : CoreSt) : (p.setCore c x).flows = p.flows := rfl
@[simp] theorem Part.setCore_flipDone (c : Nat) (x : CoreSt) : (p.setCore c x).flipDone = p.flipDone := rfl
@[simp] theorem Part.setCore_arbSets (c : Nat) (x : CoreSt) : (p.setCore c x).arbSets = p.arbSets := rfl
@[simp] theorem Part.setCore_starved (c : Nat) (x : CoreSt) : (p.setCore c x).starved = p.starved := rfl
@[simp] theorem Part.setCore_streams (c : Nat) (x : CoreSt) : (p.setCore c x).streams = p.streams := rfl
@[simp] theorem Part.setCore_msix (c : Nat) (x : CoreSt) : (p.setCore c x).msix = p.msix := rfl
@[simp] theorem Part.setCore_evSeq (c : Nat) (x : CoreSt) : (p.setCore c x).evSeq = p.evSeq := rfl
@[simp] theorem Part.setCore_time (c : Nat) (x : CoreSt) : (p.setCore c x).time = p.time := rfl
@[simp] theorem Part.setCore_retireNotices (c : Nat) (x : CoreSt) : (p.setCore c x).retireNotices = p.retireNotices := rfl
@[simp] theorem Part.setCore_bundles (c : Nat) (x : CoreSt) : (p.setCore c x).bundles = p.bundles := rfl
@[simp] theorem Part.setCore_retiredPorts (c : Nat) (x : CoreSt) : (p.setCore c x).retiredPorts = p.retiredPorts := rfl
@[simp] theorem Part.setCore_hbmFault (c : Nat) (x : CoreSt) : (p.setCore c x).hbmFault = p.hbmFault := rfl
@[simp] theorem Part.setCore_copyHeld (c : Nat) (x : CoreSt) : (p.setCore c x).copyHeld = p.copyHeld := rfl
@[simp] theorem Part.setCore_run (c : Nat) (x : CoreSt) : (p.setCore c x).run = p.run := rfl
@[simp] theorem Part.setCore_pins (c : Nat) (x : CoreSt) : (p.setCore c x).pins = p.pins := rfl
@[simp] theorem Part.setCore_flash (c : Nat) (x : CoreSt) : (p.setCore c x).flash = p.flash := rfl
@[simp] theorem Part.setCore_mgmt (c : Nat) (x : CoreSt) : (p.setCore c x).mgmt = p.mgmt := rfl
@[simp] theorem Part.setCore_levels (c : Nat) (x : CoreSt) : (p.setCore c x).levels = p.levels := rfl
@[simp] theorem Part.setCore_hot (c : Nat) (x : CoreSt) : (p.setCore c x).hot = p.hot := rfl
@[simp] theorem Part.setCore_levelAt (c : Nat) (x : CoreSt) : (p.setCore c x).levelAt = p.levelAt := rfl
@[simp] theorem Part.setCore_trip (c : Nat) (x : CoreSt) : (p.setCore c x).trip = p.trip := rfl
@[simp] theorem Part.setCore_power (c : Nat) (x : CoreSt) : (p.setCore c x).power = p.power := rfl
@[simp] theorem Part.setCore_snapAt (c : Nat) (x : CoreSt) : (p.setCore c x).snapAt = p.snapAt := rfl
@[simp] theorem Part.setCore_reply (c : Nat) (x : CoreSt) : (p.setCore c x).reply = p.reply := rfl
@[simp] theorem Part.setCore_draw (c : Nat) (x : CoreSt) : (p.setCore c x).draw = p.draw := rfl

/-! ### setBank -/

@[simp] theorem Part.setBank_regs (k : Nat) (x : Bank) : (p.setBank k x).regs = p.regs := rfl
@[simp] theorem Part.setBank_mem (k : Nat) (x : Bank) : (p.setBank k x).mem = p.mem := rfl
@[simp] theorem Part.setBank_host (k : Nat) (x : Bank) : (p.setBank k x).host = p.host := rfl
@[simp] theorem Part.setBank_upsets (k : Nat) (x : Bank) : (p.setBank k x).upsets = p.upsets := rfl
@[simp] theorem Part.setBank_lines (k : Nat) (x : Bank) : (p.setBank k x).lines = p.lines := rfl
@[simp] theorem Part.setBank_cores (k : Nat) (x : Bank) : (p.setBank k x).cores = p.cores := rfl
@[simp] theorem Part.setBank_seqWaits (k : Nat) (x : Bank) : (p.setBank k x).seqWaits = p.seqWaits := rfl
@[simp] theorem Part.setBank_engines (k : Nat) (x : Bank) : (p.setBank k x).engines = p.engines := rfl
@[simp] theorem Part.setBank_ves (k : Nat) (x : Bank) : (p.setBank k x).ves = p.ves := rfl
@[simp] theorem Part.setBank_clusters (k : Nat) (x : Bank) : (p.setBank k x).clusters = p.clusters := rfl
@[simp] theorem Part.setBank_slots (k : Nat) (x : Bank) : (p.setBank k x).slots = p.slots := rfl
@[simp] theorem Part.setBank_staging (k : Nat) (x : Bank) : (p.setBank k x).staging = p.staging := rfl
@[simp] theorem Part.setBank_postRes (k : Nat) (x : Bank) : (p.setBank k x).postRes = p.postRes := rfl
@[simp] theorem Part.setBank_dies (k : Nat) (x : Bank) : (p.setBank k x).dies = p.dies := rfl
@[simp] theorem Part.setBank_handles (k : Nat) (x : Bank) : (p.setBank k x).handles = p.handles := rfl
@[simp] theorem Part.setBank_ports (k : Nat) (x : Bank) : (p.setBank k x).ports = p.ports := rfl
@[simp] theorem Part.setBank_flows (k : Nat) (x : Bank) : (p.setBank k x).flows = p.flows := rfl
@[simp] theorem Part.setBank_flipDone (k : Nat) (x : Bank) : (p.setBank k x).flipDone = p.flipDone := rfl
@[simp] theorem Part.setBank_arbSets (k : Nat) (x : Bank) : (p.setBank k x).arbSets = p.arbSets := rfl
@[simp] theorem Part.setBank_starved (k : Nat) (x : Bank) : (p.setBank k x).starved = p.starved := rfl
@[simp] theorem Part.setBank_streams (k : Nat) (x : Bank) : (p.setBank k x).streams = p.streams := rfl
@[simp] theorem Part.setBank_msix (k : Nat) (x : Bank) : (p.setBank k x).msix = p.msix := rfl
@[simp] theorem Part.setBank_evSeq (k : Nat) (x : Bank) : (p.setBank k x).evSeq = p.evSeq := rfl
@[simp] theorem Part.setBank_time (k : Nat) (x : Bank) : (p.setBank k x).time = p.time := rfl
@[simp] theorem Part.setBank_retireNotices (k : Nat) (x : Bank) : (p.setBank k x).retireNotices = p.retireNotices := rfl
@[simp] theorem Part.setBank_bundles (k : Nat) (x : Bank) : (p.setBank k x).bundles = p.bundles := rfl
@[simp] theorem Part.setBank_retiredPorts (k : Nat) (x : Bank) : (p.setBank k x).retiredPorts = p.retiredPorts := rfl
@[simp] theorem Part.setBank_hbmFault (k : Nat) (x : Bank) : (p.setBank k x).hbmFault = p.hbmFault := rfl
@[simp] theorem Part.setBank_copyHeld (k : Nat) (x : Bank) : (p.setBank k x).copyHeld = p.copyHeld := rfl
@[simp] theorem Part.setBank_run (k : Nat) (x : Bank) : (p.setBank k x).run = p.run := rfl
@[simp] theorem Part.setBank_pins (k : Nat) (x : Bank) : (p.setBank k x).pins = p.pins := rfl
@[simp] theorem Part.setBank_flash (k : Nat) (x : Bank) : (p.setBank k x).flash = p.flash := rfl
@[simp] theorem Part.setBank_mgmt (k : Nat) (x : Bank) : (p.setBank k x).mgmt = p.mgmt := rfl
@[simp] theorem Part.setBank_levels (k : Nat) (x : Bank) : (p.setBank k x).levels = p.levels := rfl
@[simp] theorem Part.setBank_hot (k : Nat) (x : Bank) : (p.setBank k x).hot = p.hot := rfl
@[simp] theorem Part.setBank_levelAt (k : Nat) (x : Bank) : (p.setBank k x).levelAt = p.levelAt := rfl
@[simp] theorem Part.setBank_trip (k : Nat) (x : Bank) : (p.setBank k x).trip = p.trip := rfl
@[simp] theorem Part.setBank_power (k : Nat) (x : Bank) : (p.setBank k x).power = p.power := rfl
@[simp] theorem Part.setBank_snapAt (k : Nat) (x : Bank) : (p.setBank k x).snapAt = p.snapAt := rfl
@[simp] theorem Part.setBank_reply (k : Nat) (x : Bank) : (p.setBank k x).reply = p.reply := rfl
@[simp] theorem Part.setBank_draw (k : Nat) (x : Bank) : (p.setBank k x).draw = p.draw := rfl

/-! ### setEngine -/

@[simp] theorem Part.setEngine_regs (e : Nat) (x : EngineSt) : (p.setEngine e x).regs = p.regs := rfl
@[simp] theorem Part.setEngine_mem (e : Nat) (x : EngineSt) : (p.setEngine e x).mem = p.mem := rfl
@[simp] theorem Part.setEngine_host (e : Nat) (x : EngineSt) : (p.setEngine e x).host = p.host := rfl
@[simp] theorem Part.setEngine_upsets (e : Nat) (x : EngineSt) : (p.setEngine e x).upsets = p.upsets := rfl
@[simp] theorem Part.setEngine_lines (e : Nat) (x : EngineSt) : (p.setEngine e x).lines = p.lines := rfl
@[simp] theorem Part.setEngine_cores (e : Nat) (x : EngineSt) : (p.setEngine e x).cores = p.cores := rfl
@[simp] theorem Part.setEngine_seqWaits (e : Nat) (x : EngineSt) : (p.setEngine e x).seqWaits = p.seqWaits := rfl
@[simp] theorem Part.setEngine_banks (e : Nat) (x : EngineSt) : (p.setEngine e x).banks = p.banks := rfl
@[simp] theorem Part.setEngine_ves (e : Nat) (x : EngineSt) : (p.setEngine e x).ves = p.ves := rfl
@[simp] theorem Part.setEngine_clusters (e : Nat) (x : EngineSt) : (p.setEngine e x).clusters = p.clusters := rfl
@[simp] theorem Part.setEngine_slots (e : Nat) (x : EngineSt) : (p.setEngine e x).slots = p.slots := rfl
@[simp] theorem Part.setEngine_staging (e : Nat) (x : EngineSt) : (p.setEngine e x).staging = p.staging := rfl
@[simp] theorem Part.setEngine_postRes (e : Nat) (x : EngineSt) : (p.setEngine e x).postRes = p.postRes := rfl
@[simp] theorem Part.setEngine_dies (e : Nat) (x : EngineSt) : (p.setEngine e x).dies = p.dies := rfl
@[simp] theorem Part.setEngine_handles (e : Nat) (x : EngineSt) : (p.setEngine e x).handles = p.handles := rfl
@[simp] theorem Part.setEngine_ports (e : Nat) (x : EngineSt) : (p.setEngine e x).ports = p.ports := rfl
@[simp] theorem Part.setEngine_flows (e : Nat) (x : EngineSt) : (p.setEngine e x).flows = p.flows := rfl
@[simp] theorem Part.setEngine_flipDone (e : Nat) (x : EngineSt) : (p.setEngine e x).flipDone = p.flipDone := rfl
@[simp] theorem Part.setEngine_arbSets (e : Nat) (x : EngineSt) : (p.setEngine e x).arbSets = p.arbSets := rfl
@[simp] theorem Part.setEngine_starved (e : Nat) (x : EngineSt) : (p.setEngine e x).starved = p.starved := rfl
@[simp] theorem Part.setEngine_streams (e : Nat) (x : EngineSt) : (p.setEngine e x).streams = p.streams := rfl
@[simp] theorem Part.setEngine_msix (e : Nat) (x : EngineSt) : (p.setEngine e x).msix = p.msix := rfl
@[simp] theorem Part.setEngine_evSeq (e : Nat) (x : EngineSt) : (p.setEngine e x).evSeq = p.evSeq := rfl
@[simp] theorem Part.setEngine_time (e : Nat) (x : EngineSt) : (p.setEngine e x).time = p.time := rfl
@[simp] theorem Part.setEngine_retireNotices (e : Nat) (x : EngineSt) : (p.setEngine e x).retireNotices = p.retireNotices := rfl
@[simp] theorem Part.setEngine_bundles (e : Nat) (x : EngineSt) : (p.setEngine e x).bundles = p.bundles := rfl
@[simp] theorem Part.setEngine_retiredPorts (e : Nat) (x : EngineSt) : (p.setEngine e x).retiredPorts = p.retiredPorts := rfl
@[simp] theorem Part.setEngine_hbmFault (e : Nat) (x : EngineSt) : (p.setEngine e x).hbmFault = p.hbmFault := rfl
@[simp] theorem Part.setEngine_copyHeld (e : Nat) (x : EngineSt) : (p.setEngine e x).copyHeld = p.copyHeld := rfl
@[simp] theorem Part.setEngine_run (e : Nat) (x : EngineSt) : (p.setEngine e x).run = p.run := rfl
@[simp] theorem Part.setEngine_pins (e : Nat) (x : EngineSt) : (p.setEngine e x).pins = p.pins := rfl
@[simp] theorem Part.setEngine_flash (e : Nat) (x : EngineSt) : (p.setEngine e x).flash = p.flash := rfl
@[simp] theorem Part.setEngine_mgmt (e : Nat) (x : EngineSt) : (p.setEngine e x).mgmt = p.mgmt := rfl
@[simp] theorem Part.setEngine_levels (e : Nat) (x : EngineSt) : (p.setEngine e x).levels = p.levels := rfl
@[simp] theorem Part.setEngine_hot (e : Nat) (x : EngineSt) : (p.setEngine e x).hot = p.hot := rfl
@[simp] theorem Part.setEngine_levelAt (e : Nat) (x : EngineSt) : (p.setEngine e x).levelAt = p.levelAt := rfl
@[simp] theorem Part.setEngine_trip (e : Nat) (x : EngineSt) : (p.setEngine e x).trip = p.trip := rfl
@[simp] theorem Part.setEngine_power (e : Nat) (x : EngineSt) : (p.setEngine e x).power = p.power := rfl
@[simp] theorem Part.setEngine_snapAt (e : Nat) (x : EngineSt) : (p.setEngine e x).snapAt = p.snapAt := rfl
@[simp] theorem Part.setEngine_reply (e : Nat) (x : EngineSt) : (p.setEngine e x).reply = p.reply := rfl
@[simp] theorem Part.setEngine_draw (e : Nat) (x : EngineSt) : (p.setEngine e x).draw = p.draw := rfl

/-! ### setVe -/

@[simp] theorem Part.setVe_regs (c : Nat) (x : VeSt) : (p.setVe c x).regs = p.regs := rfl
@[simp] theorem Part.setVe_mem (c : Nat) (x : VeSt) : (p.setVe c x).mem = p.mem := rfl
@[simp] theorem Part.setVe_host (c : Nat) (x : VeSt) : (p.setVe c x).host = p.host := rfl
@[simp] theorem Part.setVe_upsets (c : Nat) (x : VeSt) : (p.setVe c x).upsets = p.upsets := rfl
@[simp] theorem Part.setVe_lines (c : Nat) (x : VeSt) : (p.setVe c x).lines = p.lines := rfl
@[simp] theorem Part.setVe_cores (c : Nat) (x : VeSt) : (p.setVe c x).cores = p.cores := rfl
@[simp] theorem Part.setVe_seqWaits (c : Nat) (x : VeSt) : (p.setVe c x).seqWaits = p.seqWaits := rfl
@[simp] theorem Part.setVe_banks (c : Nat) (x : VeSt) : (p.setVe c x).banks = p.banks := rfl
@[simp] theorem Part.setVe_engines (c : Nat) (x : VeSt) : (p.setVe c x).engines = p.engines := rfl
@[simp] theorem Part.setVe_clusters (c : Nat) (x : VeSt) : (p.setVe c x).clusters = p.clusters := rfl
@[simp] theorem Part.setVe_slots (c : Nat) (x : VeSt) : (p.setVe c x).slots = p.slots := rfl
@[simp] theorem Part.setVe_staging (c : Nat) (x : VeSt) : (p.setVe c x).staging = p.staging := rfl
@[simp] theorem Part.setVe_postRes (c : Nat) (x : VeSt) : (p.setVe c x).postRes = p.postRes := rfl
@[simp] theorem Part.setVe_dies (c : Nat) (x : VeSt) : (p.setVe c x).dies = p.dies := rfl
@[simp] theorem Part.setVe_handles (c : Nat) (x : VeSt) : (p.setVe c x).handles = p.handles := rfl
@[simp] theorem Part.setVe_ports (c : Nat) (x : VeSt) : (p.setVe c x).ports = p.ports := rfl
@[simp] theorem Part.setVe_flows (c : Nat) (x : VeSt) : (p.setVe c x).flows = p.flows := rfl
@[simp] theorem Part.setVe_flipDone (c : Nat) (x : VeSt) : (p.setVe c x).flipDone = p.flipDone := rfl
@[simp] theorem Part.setVe_arbSets (c : Nat) (x : VeSt) : (p.setVe c x).arbSets = p.arbSets := rfl
@[simp] theorem Part.setVe_starved (c : Nat) (x : VeSt) : (p.setVe c x).starved = p.starved := rfl
@[simp] theorem Part.setVe_streams (c : Nat) (x : VeSt) : (p.setVe c x).streams = p.streams := rfl
@[simp] theorem Part.setVe_msix (c : Nat) (x : VeSt) : (p.setVe c x).msix = p.msix := rfl
@[simp] theorem Part.setVe_evSeq (c : Nat) (x : VeSt) : (p.setVe c x).evSeq = p.evSeq := rfl
@[simp] theorem Part.setVe_time (c : Nat) (x : VeSt) : (p.setVe c x).time = p.time := rfl
@[simp] theorem Part.setVe_retireNotices (c : Nat) (x : VeSt) : (p.setVe c x).retireNotices = p.retireNotices := rfl
@[simp] theorem Part.setVe_bundles (c : Nat) (x : VeSt) : (p.setVe c x).bundles = p.bundles := rfl
@[simp] theorem Part.setVe_retiredPorts (c : Nat) (x : VeSt) : (p.setVe c x).retiredPorts = p.retiredPorts := rfl
@[simp] theorem Part.setVe_hbmFault (c : Nat) (x : VeSt) : (p.setVe c x).hbmFault = p.hbmFault := rfl
@[simp] theorem Part.setVe_copyHeld (c : Nat) (x : VeSt) : (p.setVe c x).copyHeld = p.copyHeld := rfl
@[simp] theorem Part.setVe_run (c : Nat) (x : VeSt) : (p.setVe c x).run = p.run := rfl
@[simp] theorem Part.setVe_pins (c : Nat) (x : VeSt) : (p.setVe c x).pins = p.pins := rfl
@[simp] theorem Part.setVe_flash (c : Nat) (x : VeSt) : (p.setVe c x).flash = p.flash := rfl
@[simp] theorem Part.setVe_mgmt (c : Nat) (x : VeSt) : (p.setVe c x).mgmt = p.mgmt := rfl
@[simp] theorem Part.setVe_levels (c : Nat) (x : VeSt) : (p.setVe c x).levels = p.levels := rfl
@[simp] theorem Part.setVe_hot (c : Nat) (x : VeSt) : (p.setVe c x).hot = p.hot := rfl
@[simp] theorem Part.setVe_levelAt (c : Nat) (x : VeSt) : (p.setVe c x).levelAt = p.levelAt := rfl
@[simp] theorem Part.setVe_trip (c : Nat) (x : VeSt) : (p.setVe c x).trip = p.trip := rfl
@[simp] theorem Part.setVe_power (c : Nat) (x : VeSt) : (p.setVe c x).power = p.power := rfl
@[simp] theorem Part.setVe_snapAt (c : Nat) (x : VeSt) : (p.setVe c x).snapAt = p.snapAt := rfl
@[simp] theorem Part.setVe_reply (c : Nat) (x : VeSt) : (p.setVe c x).reply = p.reply := rfl
@[simp] theorem Part.setVe_draw (c : Nat) (x : VeSt) : (p.setVe c x).draw = p.draw := rfl

/-! ### setCluster -/

@[simp] theorem Part.setCluster_regs (k : Nat) (x : ClusterSt) : (p.setCluster k x).regs = p.regs := rfl
@[simp] theorem Part.setCluster_mem (k : Nat) (x : ClusterSt) : (p.setCluster k x).mem = p.mem := rfl
@[simp] theorem Part.setCluster_host (k : Nat) (x : ClusterSt) : (p.setCluster k x).host = p.host := rfl
@[simp] theorem Part.setCluster_upsets (k : Nat) (x : ClusterSt) : (p.setCluster k x).upsets = p.upsets := rfl
@[simp] theorem Part.setCluster_lines (k : Nat) (x : ClusterSt) : (p.setCluster k x).lines = p.lines := rfl
@[simp] theorem Part.setCluster_cores (k : Nat) (x : ClusterSt) : (p.setCluster k x).cores = p.cores := rfl
@[simp] theorem Part.setCluster_seqWaits (k : Nat) (x : ClusterSt) : (p.setCluster k x).seqWaits = p.seqWaits := rfl
@[simp] theorem Part.setCluster_banks (k : Nat) (x : ClusterSt) : (p.setCluster k x).banks = p.banks := rfl
@[simp] theorem Part.setCluster_engines (k : Nat) (x : ClusterSt) : (p.setCluster k x).engines = p.engines := rfl
@[simp] theorem Part.setCluster_ves (k : Nat) (x : ClusterSt) : (p.setCluster k x).ves = p.ves := rfl
@[simp] theorem Part.setCluster_slots (k : Nat) (x : ClusterSt) : (p.setCluster k x).slots = p.slots := rfl
@[simp] theorem Part.setCluster_staging (k : Nat) (x : ClusterSt) : (p.setCluster k x).staging = p.staging := rfl
@[simp] theorem Part.setCluster_postRes (k : Nat) (x : ClusterSt) : (p.setCluster k x).postRes = p.postRes := rfl
@[simp] theorem Part.setCluster_dies (k : Nat) (x : ClusterSt) : (p.setCluster k x).dies = p.dies := rfl
@[simp] theorem Part.setCluster_handles (k : Nat) (x : ClusterSt) : (p.setCluster k x).handles = p.handles := rfl
@[simp] theorem Part.setCluster_ports (k : Nat) (x : ClusterSt) : (p.setCluster k x).ports = p.ports := rfl
@[simp] theorem Part.setCluster_flows (k : Nat) (x : ClusterSt) : (p.setCluster k x).flows = p.flows := rfl
@[simp] theorem Part.setCluster_flipDone (k : Nat) (x : ClusterSt) : (p.setCluster k x).flipDone = p.flipDone := rfl
@[simp] theorem Part.setCluster_arbSets (k : Nat) (x : ClusterSt) : (p.setCluster k x).arbSets = p.arbSets := rfl
@[simp] theorem Part.setCluster_starved (k : Nat) (x : ClusterSt) : (p.setCluster k x).starved = p.starved := rfl
@[simp] theorem Part.setCluster_streams (k : Nat) (x : ClusterSt) : (p.setCluster k x).streams = p.streams := rfl
@[simp] theorem Part.setCluster_msix (k : Nat) (x : ClusterSt) : (p.setCluster k x).msix = p.msix := rfl
@[simp] theorem Part.setCluster_evSeq (k : Nat) (x : ClusterSt) : (p.setCluster k x).evSeq = p.evSeq := rfl
@[simp] theorem Part.setCluster_time (k : Nat) (x : ClusterSt) : (p.setCluster k x).time = p.time := rfl
@[simp] theorem Part.setCluster_retireNotices (k : Nat) (x : ClusterSt) : (p.setCluster k x).retireNotices = p.retireNotices := rfl
@[simp] theorem Part.setCluster_bundles (k : Nat) (x : ClusterSt) : (p.setCluster k x).bundles = p.bundles := rfl
@[simp] theorem Part.setCluster_retiredPorts (k : Nat) (x : ClusterSt) : (p.setCluster k x).retiredPorts = p.retiredPorts := rfl
@[simp] theorem Part.setCluster_hbmFault (k : Nat) (x : ClusterSt) : (p.setCluster k x).hbmFault = p.hbmFault := rfl
@[simp] theorem Part.setCluster_copyHeld (k : Nat) (x : ClusterSt) : (p.setCluster k x).copyHeld = p.copyHeld := rfl
@[simp] theorem Part.setCluster_run (k : Nat) (x : ClusterSt) : (p.setCluster k x).run = p.run := rfl
@[simp] theorem Part.setCluster_pins (k : Nat) (x : ClusterSt) : (p.setCluster k x).pins = p.pins := rfl
@[simp] theorem Part.setCluster_flash (k : Nat) (x : ClusterSt) : (p.setCluster k x).flash = p.flash := rfl
@[simp] theorem Part.setCluster_mgmt (k : Nat) (x : ClusterSt) : (p.setCluster k x).mgmt = p.mgmt := rfl
@[simp] theorem Part.setCluster_levels (k : Nat) (x : ClusterSt) : (p.setCluster k x).levels = p.levels := rfl
@[simp] theorem Part.setCluster_hot (k : Nat) (x : ClusterSt) : (p.setCluster k x).hot = p.hot := rfl
@[simp] theorem Part.setCluster_levelAt (k : Nat) (x : ClusterSt) : (p.setCluster k x).levelAt = p.levelAt := rfl
@[simp] theorem Part.setCluster_trip (k : Nat) (x : ClusterSt) : (p.setCluster k x).trip = p.trip := rfl
@[simp] theorem Part.setCluster_power (k : Nat) (x : ClusterSt) : (p.setCluster k x).power = p.power := rfl
@[simp] theorem Part.setCluster_snapAt (k : Nat) (x : ClusterSt) : (p.setCluster k x).snapAt = p.snapAt := rfl
@[simp] theorem Part.setCluster_reply (k : Nat) (x : ClusterSt) : (p.setCluster k x).reply = p.reply := rfl
@[simp] theorem Part.setCluster_draw (k : Nat) (x : ClusterSt) : (p.setCluster k x).draw = p.draw := rfl

/-! ### setSlot -/

@[simp] theorem Part.setSlot_regs (k : Nat) (n : Nat) (x : Slot) : (p.setSlot k n x).regs = p.regs := rfl
@[simp] theorem Part.setSlot_mem (k : Nat) (n : Nat) (x : Slot) : (p.setSlot k n x).mem = p.mem := rfl
@[simp] theorem Part.setSlot_host (k : Nat) (n : Nat) (x : Slot) : (p.setSlot k n x).host = p.host := rfl
@[simp] theorem Part.setSlot_upsets (k : Nat) (n : Nat) (x : Slot) : (p.setSlot k n x).upsets = p.upsets := rfl
@[simp] theorem Part.setSlot_lines (k : Nat) (n : Nat) (x : Slot) : (p.setSlot k n x).lines = p.lines := rfl
@[simp] theorem Part.setSlot_cores (k : Nat) (n : Nat) (x : Slot) : (p.setSlot k n x).cores = p.cores := rfl
@[simp] theorem Part.setSlot_seqWaits (k : Nat) (n : Nat) (x : Slot) : (p.setSlot k n x).seqWaits = p.seqWaits := rfl
@[simp] theorem Part.setSlot_banks (k : Nat) (n : Nat) (x : Slot) : (p.setSlot k n x).banks = p.banks := rfl
@[simp] theorem Part.setSlot_engines (k : Nat) (n : Nat) (x : Slot) : (p.setSlot k n x).engines = p.engines := rfl
@[simp] theorem Part.setSlot_ves (k : Nat) (n : Nat) (x : Slot) : (p.setSlot k n x).ves = p.ves := rfl
@[simp] theorem Part.setSlot_clusters (k : Nat) (n : Nat) (x : Slot) : (p.setSlot k n x).clusters = p.clusters := rfl
@[simp] theorem Part.setSlot_staging (k : Nat) (n : Nat) (x : Slot) : (p.setSlot k n x).staging = p.staging := rfl
@[simp] theorem Part.setSlot_postRes (k : Nat) (n : Nat) (x : Slot) : (p.setSlot k n x).postRes = p.postRes := rfl
@[simp] theorem Part.setSlot_dies (k : Nat) (n : Nat) (x : Slot) : (p.setSlot k n x).dies = p.dies := rfl
@[simp] theorem Part.setSlot_handles (k : Nat) (n : Nat) (x : Slot) : (p.setSlot k n x).handles = p.handles := rfl
@[simp] theorem Part.setSlot_ports (k : Nat) (n : Nat) (x : Slot) : (p.setSlot k n x).ports = p.ports := rfl
@[simp] theorem Part.setSlot_flows (k : Nat) (n : Nat) (x : Slot) : (p.setSlot k n x).flows = p.flows := rfl
@[simp] theorem Part.setSlot_flipDone (k : Nat) (n : Nat) (x : Slot) : (p.setSlot k n x).flipDone = p.flipDone := rfl
@[simp] theorem Part.setSlot_arbSets (k : Nat) (n : Nat) (x : Slot) : (p.setSlot k n x).arbSets = p.arbSets := rfl
@[simp] theorem Part.setSlot_starved (k : Nat) (n : Nat) (x : Slot) : (p.setSlot k n x).starved = p.starved := rfl
@[simp] theorem Part.setSlot_streams (k : Nat) (n : Nat) (x : Slot) : (p.setSlot k n x).streams = p.streams := rfl
@[simp] theorem Part.setSlot_msix (k : Nat) (n : Nat) (x : Slot) : (p.setSlot k n x).msix = p.msix := rfl
@[simp] theorem Part.setSlot_evSeq (k : Nat) (n : Nat) (x : Slot) : (p.setSlot k n x).evSeq = p.evSeq := rfl
@[simp] theorem Part.setSlot_time (k : Nat) (n : Nat) (x : Slot) : (p.setSlot k n x).time = p.time := rfl
@[simp] theorem Part.setSlot_retireNotices (k : Nat) (n : Nat) (x : Slot) : (p.setSlot k n x).retireNotices = p.retireNotices := rfl
@[simp] theorem Part.setSlot_bundles (k : Nat) (n : Nat) (x : Slot) : (p.setSlot k n x).bundles = p.bundles := rfl
@[simp] theorem Part.setSlot_retiredPorts (k : Nat) (n : Nat) (x : Slot) : (p.setSlot k n x).retiredPorts = p.retiredPorts := rfl
@[simp] theorem Part.setSlot_hbmFault (k : Nat) (n : Nat) (x : Slot) : (p.setSlot k n x).hbmFault = p.hbmFault := rfl
@[simp] theorem Part.setSlot_copyHeld (k : Nat) (n : Nat) (x : Slot) : (p.setSlot k n x).copyHeld = p.copyHeld := rfl
@[simp] theorem Part.setSlot_run (k : Nat) (n : Nat) (x : Slot) : (p.setSlot k n x).run = p.run := rfl
@[simp] theorem Part.setSlot_pins (k : Nat) (n : Nat) (x : Slot) : (p.setSlot k n x).pins = p.pins := rfl
@[simp] theorem Part.setSlot_flash (k : Nat) (n : Nat) (x : Slot) : (p.setSlot k n x).flash = p.flash := rfl
@[simp] theorem Part.setSlot_mgmt (k : Nat) (n : Nat) (x : Slot) : (p.setSlot k n x).mgmt = p.mgmt := rfl
@[simp] theorem Part.setSlot_levels (k : Nat) (n : Nat) (x : Slot) : (p.setSlot k n x).levels = p.levels := rfl
@[simp] theorem Part.setSlot_hot (k : Nat) (n : Nat) (x : Slot) : (p.setSlot k n x).hot = p.hot := rfl
@[simp] theorem Part.setSlot_levelAt (k : Nat) (n : Nat) (x : Slot) : (p.setSlot k n x).levelAt = p.levelAt := rfl
@[simp] theorem Part.setSlot_trip (k : Nat) (n : Nat) (x : Slot) : (p.setSlot k n x).trip = p.trip := rfl
@[simp] theorem Part.setSlot_power (k : Nat) (n : Nat) (x : Slot) : (p.setSlot k n x).power = p.power := rfl
@[simp] theorem Part.setSlot_snapAt (k : Nat) (n : Nat) (x : Slot) : (p.setSlot k n x).snapAt = p.snapAt := rfl
@[simp] theorem Part.setSlot_reply (k : Nat) (n : Nat) (x : Slot) : (p.setSlot k n x).reply = p.reply := rfl
@[simp] theorem Part.setSlot_draw (k : Nat) (n : Nat) (x : Slot) : (p.setSlot k n x).draw = p.draw := rfl

/-! ### setDie -/

@[simp] theorem Part.setDie_regs (d : Nat) (x : DieSt) : (p.setDie d x).regs = p.regs := rfl
@[simp] theorem Part.setDie_mem (d : Nat) (x : DieSt) : (p.setDie d x).mem = p.mem := rfl
@[simp] theorem Part.setDie_host (d : Nat) (x : DieSt) : (p.setDie d x).host = p.host := rfl
@[simp] theorem Part.setDie_upsets (d : Nat) (x : DieSt) : (p.setDie d x).upsets = p.upsets := rfl
@[simp] theorem Part.setDie_lines (d : Nat) (x : DieSt) : (p.setDie d x).lines = p.lines := rfl
@[simp] theorem Part.setDie_cores (d : Nat) (x : DieSt) : (p.setDie d x).cores = p.cores := rfl
@[simp] theorem Part.setDie_seqWaits (d : Nat) (x : DieSt) : (p.setDie d x).seqWaits = p.seqWaits := rfl
@[simp] theorem Part.setDie_banks (d : Nat) (x : DieSt) : (p.setDie d x).banks = p.banks := rfl
@[simp] theorem Part.setDie_engines (d : Nat) (x : DieSt) : (p.setDie d x).engines = p.engines := rfl
@[simp] theorem Part.setDie_ves (d : Nat) (x : DieSt) : (p.setDie d x).ves = p.ves := rfl
@[simp] theorem Part.setDie_clusters (d : Nat) (x : DieSt) : (p.setDie d x).clusters = p.clusters := rfl
@[simp] theorem Part.setDie_slots (d : Nat) (x : DieSt) : (p.setDie d x).slots = p.slots := rfl
@[simp] theorem Part.setDie_staging (d : Nat) (x : DieSt) : (p.setDie d x).staging = p.staging := rfl
@[simp] theorem Part.setDie_postRes (d : Nat) (x : DieSt) : (p.setDie d x).postRes = p.postRes := rfl
@[simp] theorem Part.setDie_handles (d : Nat) (x : DieSt) : (p.setDie d x).handles = p.handles := rfl
@[simp] theorem Part.setDie_ports (d : Nat) (x : DieSt) : (p.setDie d x).ports = p.ports := rfl
@[simp] theorem Part.setDie_flows (d : Nat) (x : DieSt) : (p.setDie d x).flows = p.flows := rfl
@[simp] theorem Part.setDie_flipDone (d : Nat) (x : DieSt) : (p.setDie d x).flipDone = p.flipDone := rfl
@[simp] theorem Part.setDie_arbSets (d : Nat) (x : DieSt) : (p.setDie d x).arbSets = p.arbSets := rfl
@[simp] theorem Part.setDie_starved (d : Nat) (x : DieSt) : (p.setDie d x).starved = p.starved := rfl
@[simp] theorem Part.setDie_streams (d : Nat) (x : DieSt) : (p.setDie d x).streams = p.streams := rfl
@[simp] theorem Part.setDie_msix (d : Nat) (x : DieSt) : (p.setDie d x).msix = p.msix := rfl
@[simp] theorem Part.setDie_evSeq (d : Nat) (x : DieSt) : (p.setDie d x).evSeq = p.evSeq := rfl
@[simp] theorem Part.setDie_time (d : Nat) (x : DieSt) : (p.setDie d x).time = p.time := rfl
@[simp] theorem Part.setDie_retireNotices (d : Nat) (x : DieSt) : (p.setDie d x).retireNotices = p.retireNotices := rfl
@[simp] theorem Part.setDie_bundles (d : Nat) (x : DieSt) : (p.setDie d x).bundles = p.bundles := rfl
@[simp] theorem Part.setDie_retiredPorts (d : Nat) (x : DieSt) : (p.setDie d x).retiredPorts = p.retiredPorts := rfl
@[simp] theorem Part.setDie_hbmFault (d : Nat) (x : DieSt) : (p.setDie d x).hbmFault = p.hbmFault := rfl
@[simp] theorem Part.setDie_copyHeld (d : Nat) (x : DieSt) : (p.setDie d x).copyHeld = p.copyHeld := rfl
@[simp] theorem Part.setDie_run (d : Nat) (x : DieSt) : (p.setDie d x).run = p.run := rfl
@[simp] theorem Part.setDie_pins (d : Nat) (x : DieSt) : (p.setDie d x).pins = p.pins := rfl
@[simp] theorem Part.setDie_flash (d : Nat) (x : DieSt) : (p.setDie d x).flash = p.flash := rfl
@[simp] theorem Part.setDie_mgmt (d : Nat) (x : DieSt) : (p.setDie d x).mgmt = p.mgmt := rfl
@[simp] theorem Part.setDie_levels (d : Nat) (x : DieSt) : (p.setDie d x).levels = p.levels := rfl
@[simp] theorem Part.setDie_hot (d : Nat) (x : DieSt) : (p.setDie d x).hot = p.hot := rfl
@[simp] theorem Part.setDie_levelAt (d : Nat) (x : DieSt) : (p.setDie d x).levelAt = p.levelAt := rfl
@[simp] theorem Part.setDie_trip (d : Nat) (x : DieSt) : (p.setDie d x).trip = p.trip := rfl
@[simp] theorem Part.setDie_power (d : Nat) (x : DieSt) : (p.setDie d x).power = p.power := rfl
@[simp] theorem Part.setDie_snapAt (d : Nat) (x : DieSt) : (p.setDie d x).snapAt = p.snapAt := rfl
@[simp] theorem Part.setDie_reply (d : Nat) (x : DieSt) : (p.setDie d x).reply = p.reply := rfl
@[simp] theorem Part.setDie_draw (d : Nat) (x : DieSt) : (p.setDie d x).draw = p.draw := rfl

/-! ### setHandle -/

@[simp] theorem Part.setHandle_regs (h : Nat) (x : Handle) : (p.setHandle h x).regs = p.regs := rfl
@[simp] theorem Part.setHandle_mem (h : Nat) (x : Handle) : (p.setHandle h x).mem = p.mem := rfl
@[simp] theorem Part.setHandle_host (h : Nat) (x : Handle) : (p.setHandle h x).host = p.host := rfl
@[simp] theorem Part.setHandle_upsets (h : Nat) (x : Handle) : (p.setHandle h x).upsets = p.upsets := rfl
@[simp] theorem Part.setHandle_lines (h : Nat) (x : Handle) : (p.setHandle h x).lines = p.lines := rfl
@[simp] theorem Part.setHandle_cores (h : Nat) (x : Handle) : (p.setHandle h x).cores = p.cores := rfl
@[simp] theorem Part.setHandle_seqWaits (h : Nat) (x : Handle) : (p.setHandle h x).seqWaits = p.seqWaits := rfl
@[simp] theorem Part.setHandle_banks (h : Nat) (x : Handle) : (p.setHandle h x).banks = p.banks := rfl
@[simp] theorem Part.setHandle_engines (h : Nat) (x : Handle) : (p.setHandle h x).engines = p.engines := rfl
@[simp] theorem Part.setHandle_ves (h : Nat) (x : Handle) : (p.setHandle h x).ves = p.ves := rfl
@[simp] theorem Part.setHandle_clusters (h : Nat) (x : Handle) : (p.setHandle h x).clusters = p.clusters := rfl
@[simp] theorem Part.setHandle_slots (h : Nat) (x : Handle) : (p.setHandle h x).slots = p.slots := rfl
@[simp] theorem Part.setHandle_staging (h : Nat) (x : Handle) : (p.setHandle h x).staging = p.staging := rfl
@[simp] theorem Part.setHandle_postRes (h : Nat) (x : Handle) : (p.setHandle h x).postRes = p.postRes := rfl
@[simp] theorem Part.setHandle_dies (h : Nat) (x : Handle) : (p.setHandle h x).dies = p.dies := rfl
@[simp] theorem Part.setHandle_ports (h : Nat) (x : Handle) : (p.setHandle h x).ports = p.ports := rfl
@[simp] theorem Part.setHandle_flows (h : Nat) (x : Handle) : (p.setHandle h x).flows = p.flows := rfl
@[simp] theorem Part.setHandle_flipDone (h : Nat) (x : Handle) : (p.setHandle h x).flipDone = p.flipDone := rfl
@[simp] theorem Part.setHandle_arbSets (h : Nat) (x : Handle) : (p.setHandle h x).arbSets = p.arbSets := rfl
@[simp] theorem Part.setHandle_starved (h : Nat) (x : Handle) : (p.setHandle h x).starved = p.starved := rfl
@[simp] theorem Part.setHandle_streams (h : Nat) (x : Handle) : (p.setHandle h x).streams = p.streams := rfl
@[simp] theorem Part.setHandle_msix (h : Nat) (x : Handle) : (p.setHandle h x).msix = p.msix := rfl
@[simp] theorem Part.setHandle_evSeq (h : Nat) (x : Handle) : (p.setHandle h x).evSeq = p.evSeq := rfl
@[simp] theorem Part.setHandle_time (h : Nat) (x : Handle) : (p.setHandle h x).time = p.time := rfl
@[simp] theorem Part.setHandle_retireNotices (h : Nat) (x : Handle) : (p.setHandle h x).retireNotices = p.retireNotices := rfl
@[simp] theorem Part.setHandle_bundles (h : Nat) (x : Handle) : (p.setHandle h x).bundles = p.bundles := rfl
@[simp] theorem Part.setHandle_retiredPorts (h : Nat) (x : Handle) : (p.setHandle h x).retiredPorts = p.retiredPorts := rfl
@[simp] theorem Part.setHandle_hbmFault (h : Nat) (x : Handle) : (p.setHandle h x).hbmFault = p.hbmFault := rfl
@[simp] theorem Part.setHandle_copyHeld (h : Nat) (x : Handle) : (p.setHandle h x).copyHeld = p.copyHeld := rfl
@[simp] theorem Part.setHandle_run (h : Nat) (x : Handle) : (p.setHandle h x).run = p.run := rfl
@[simp] theorem Part.setHandle_pins (h : Nat) (x : Handle) : (p.setHandle h x).pins = p.pins := rfl
@[simp] theorem Part.setHandle_flash (h : Nat) (x : Handle) : (p.setHandle h x).flash = p.flash := rfl
@[simp] theorem Part.setHandle_mgmt (h : Nat) (x : Handle) : (p.setHandle h x).mgmt = p.mgmt := rfl
@[simp] theorem Part.setHandle_levels (h : Nat) (x : Handle) : (p.setHandle h x).levels = p.levels := rfl
@[simp] theorem Part.setHandle_hot (h : Nat) (x : Handle) : (p.setHandle h x).hot = p.hot := rfl
@[simp] theorem Part.setHandle_levelAt (h : Nat) (x : Handle) : (p.setHandle h x).levelAt = p.levelAt := rfl
@[simp] theorem Part.setHandle_trip (h : Nat) (x : Handle) : (p.setHandle h x).trip = p.trip := rfl
@[simp] theorem Part.setHandle_power (h : Nat) (x : Handle) : (p.setHandle h x).power = p.power := rfl
@[simp] theorem Part.setHandle_snapAt (h : Nat) (x : Handle) : (p.setHandle h x).snapAt = p.snapAt := rfl
@[simp] theorem Part.setHandle_reply (h : Nat) (x : Handle) : (p.setHandle h x).reply = p.reply := rfl
@[simp] theorem Part.setHandle_draw (h : Nat) (x : Handle) : (p.setHandle h x).draw = p.draw := rfl

/-! ### setStream -/

@[simp] theorem Part.setStream_regs (port : Nat) (n : Nat) (x : StreamSt) : (p.setStream port n x).regs = p.regs := rfl
@[simp] theorem Part.setStream_mem (port : Nat) (n : Nat) (x : StreamSt) : (p.setStream port n x).mem = p.mem := rfl
@[simp] theorem Part.setStream_host (port : Nat) (n : Nat) (x : StreamSt) : (p.setStream port n x).host = p.host := rfl
@[simp] theorem Part.setStream_upsets (port : Nat) (n : Nat) (x : StreamSt) : (p.setStream port n x).upsets = p.upsets := rfl
@[simp] theorem Part.setStream_lines (port : Nat) (n : Nat) (x : StreamSt) : (p.setStream port n x).lines = p.lines := rfl
@[simp] theorem Part.setStream_cores (port : Nat) (n : Nat) (x : StreamSt) : (p.setStream port n x).cores = p.cores := rfl
@[simp] theorem Part.setStream_seqWaits (port : Nat) (n : Nat) (x : StreamSt) : (p.setStream port n x).seqWaits = p.seqWaits := rfl
@[simp] theorem Part.setStream_banks (port : Nat) (n : Nat) (x : StreamSt) : (p.setStream port n x).banks = p.banks := rfl
@[simp] theorem Part.setStream_engines (port : Nat) (n : Nat) (x : StreamSt) : (p.setStream port n x).engines = p.engines := rfl
@[simp] theorem Part.setStream_ves (port : Nat) (n : Nat) (x : StreamSt) : (p.setStream port n x).ves = p.ves := rfl
@[simp] theorem Part.setStream_clusters (port : Nat) (n : Nat) (x : StreamSt) : (p.setStream port n x).clusters = p.clusters := rfl
@[simp] theorem Part.setStream_slots (port : Nat) (n : Nat) (x : StreamSt) : (p.setStream port n x).slots = p.slots := rfl
@[simp] theorem Part.setStream_staging (port : Nat) (n : Nat) (x : StreamSt) : (p.setStream port n x).staging = p.staging := rfl
@[simp] theorem Part.setStream_postRes (port : Nat) (n : Nat) (x : StreamSt) : (p.setStream port n x).postRes = p.postRes := rfl
@[simp] theorem Part.setStream_dies (port : Nat) (n : Nat) (x : StreamSt) : (p.setStream port n x).dies = p.dies := rfl
@[simp] theorem Part.setStream_handles (port : Nat) (n : Nat) (x : StreamSt) : (p.setStream port n x).handles = p.handles := rfl
@[simp] theorem Part.setStream_ports (port : Nat) (n : Nat) (x : StreamSt) : (p.setStream port n x).ports = p.ports := rfl
@[simp] theorem Part.setStream_flows (port : Nat) (n : Nat) (x : StreamSt) : (p.setStream port n x).flows = p.flows := rfl
@[simp] theorem Part.setStream_flipDone (port : Nat) (n : Nat) (x : StreamSt) : (p.setStream port n x).flipDone = p.flipDone := rfl
@[simp] theorem Part.setStream_arbSets (port : Nat) (n : Nat) (x : StreamSt) : (p.setStream port n x).arbSets = p.arbSets := rfl
@[simp] theorem Part.setStream_starved (port : Nat) (n : Nat) (x : StreamSt) : (p.setStream port n x).starved = p.starved := rfl
@[simp] theorem Part.setStream_msix (port : Nat) (n : Nat) (x : StreamSt) : (p.setStream port n x).msix = p.msix := rfl
@[simp] theorem Part.setStream_evSeq (port : Nat) (n : Nat) (x : StreamSt) : (p.setStream port n x).evSeq = p.evSeq := rfl
@[simp] theorem Part.setStream_time (port : Nat) (n : Nat) (x : StreamSt) : (p.setStream port n x).time = p.time := rfl
@[simp] theorem Part.setStream_retireNotices (port : Nat) (n : Nat) (x : StreamSt) : (p.setStream port n x).retireNotices = p.retireNotices := rfl
@[simp] theorem Part.setStream_bundles (port : Nat) (n : Nat) (x : StreamSt) : (p.setStream port n x).bundles = p.bundles := rfl
@[simp] theorem Part.setStream_retiredPorts (port : Nat) (n : Nat) (x : StreamSt) : (p.setStream port n x).retiredPorts = p.retiredPorts := rfl
@[simp] theorem Part.setStream_hbmFault (port : Nat) (n : Nat) (x : StreamSt) : (p.setStream port n x).hbmFault = p.hbmFault := rfl
@[simp] theorem Part.setStream_copyHeld (port : Nat) (n : Nat) (x : StreamSt) : (p.setStream port n x).copyHeld = p.copyHeld := rfl
@[simp] theorem Part.setStream_run (port : Nat) (n : Nat) (x : StreamSt) : (p.setStream port n x).run = p.run := rfl
@[simp] theorem Part.setStream_pins (port : Nat) (n : Nat) (x : StreamSt) : (p.setStream port n x).pins = p.pins := rfl
@[simp] theorem Part.setStream_flash (port : Nat) (n : Nat) (x : StreamSt) : (p.setStream port n x).flash = p.flash := rfl
@[simp] theorem Part.setStream_mgmt (port : Nat) (n : Nat) (x : StreamSt) : (p.setStream port n x).mgmt = p.mgmt := rfl
@[simp] theorem Part.setStream_levels (port : Nat) (n : Nat) (x : StreamSt) : (p.setStream port n x).levels = p.levels := rfl
@[simp] theorem Part.setStream_hot (port : Nat) (n : Nat) (x : StreamSt) : (p.setStream port n x).hot = p.hot := rfl
@[simp] theorem Part.setStream_levelAt (port : Nat) (n : Nat) (x : StreamSt) : (p.setStream port n x).levelAt = p.levelAt := rfl
@[simp] theorem Part.setStream_trip (port : Nat) (n : Nat) (x : StreamSt) : (p.setStream port n x).trip = p.trip := rfl
@[simp] theorem Part.setStream_power (port : Nat) (n : Nat) (x : StreamSt) : (p.setStream port n x).power = p.power := rfl
@[simp] theorem Part.setStream_snapAt (port : Nat) (n : Nat) (x : StreamSt) : (p.setStream port n x).snapAt = p.snapAt := rfl
@[simp] theorem Part.setStream_reply (port : Nat) (n : Nat) (x : StreamSt) : (p.setStream port n x).reply = p.reply := rfl
@[simp] theorem Part.setStream_draw (port : Nat) (n : Nat) (x : StreamSt) : (p.setStream port n x).draw = p.draw := rfl

/-! ### setSeqWait -/

@[simp] theorem Part.setSeqWait_regs (c : Nat) (x : SeqWait) : (p.setSeqWait c x).regs = p.regs := rfl
@[simp] theorem Part.setSeqWait_mem (c : Nat) (x : SeqWait) : (p.setSeqWait c x).mem = p.mem := rfl
@[simp] theorem Part.setSeqWait_host (c : Nat) (x : SeqWait) : (p.setSeqWait c x).host = p.host := rfl
@[simp] theorem Part.setSeqWait_upsets (c : Nat) (x : SeqWait) : (p.setSeqWait c x).upsets = p.upsets := rfl
@[simp] theorem Part.setSeqWait_lines (c : Nat) (x : SeqWait) : (p.setSeqWait c x).lines = p.lines := rfl
@[simp] theorem Part.setSeqWait_cores (c : Nat) (x : SeqWait) : (p.setSeqWait c x).cores = p.cores := rfl
@[simp] theorem Part.setSeqWait_banks (c : Nat) (x : SeqWait) : (p.setSeqWait c x).banks = p.banks := rfl
@[simp] theorem Part.setSeqWait_engines (c : Nat) (x : SeqWait) : (p.setSeqWait c x).engines = p.engines := rfl
@[simp] theorem Part.setSeqWait_ves (c : Nat) (x : SeqWait) : (p.setSeqWait c x).ves = p.ves := rfl
@[simp] theorem Part.setSeqWait_clusters (c : Nat) (x : SeqWait) : (p.setSeqWait c x).clusters = p.clusters := rfl
@[simp] theorem Part.setSeqWait_slots (c : Nat) (x : SeqWait) : (p.setSeqWait c x).slots = p.slots := rfl
@[simp] theorem Part.setSeqWait_staging (c : Nat) (x : SeqWait) : (p.setSeqWait c x).staging = p.staging := rfl
@[simp] theorem Part.setSeqWait_postRes (c : Nat) (x : SeqWait) : (p.setSeqWait c x).postRes = p.postRes := rfl
@[simp] theorem Part.setSeqWait_dies (c : Nat) (x : SeqWait) : (p.setSeqWait c x).dies = p.dies := rfl
@[simp] theorem Part.setSeqWait_handles (c : Nat) (x : SeqWait) : (p.setSeqWait c x).handles = p.handles := rfl
@[simp] theorem Part.setSeqWait_ports (c : Nat) (x : SeqWait) : (p.setSeqWait c x).ports = p.ports := rfl
@[simp] theorem Part.setSeqWait_flows (c : Nat) (x : SeqWait) : (p.setSeqWait c x).flows = p.flows := rfl
@[simp] theorem Part.setSeqWait_flipDone (c : Nat) (x : SeqWait) : (p.setSeqWait c x).flipDone = p.flipDone := rfl
@[simp] theorem Part.setSeqWait_arbSets (c : Nat) (x : SeqWait) : (p.setSeqWait c x).arbSets = p.arbSets := rfl
@[simp] theorem Part.setSeqWait_starved (c : Nat) (x : SeqWait) : (p.setSeqWait c x).starved = p.starved := rfl
@[simp] theorem Part.setSeqWait_streams (c : Nat) (x : SeqWait) : (p.setSeqWait c x).streams = p.streams := rfl
@[simp] theorem Part.setSeqWait_msix (c : Nat) (x : SeqWait) : (p.setSeqWait c x).msix = p.msix := rfl
@[simp] theorem Part.setSeqWait_evSeq (c : Nat) (x : SeqWait) : (p.setSeqWait c x).evSeq = p.evSeq := rfl
@[simp] theorem Part.setSeqWait_time (c : Nat) (x : SeqWait) : (p.setSeqWait c x).time = p.time := rfl
@[simp] theorem Part.setSeqWait_retireNotices (c : Nat) (x : SeqWait) : (p.setSeqWait c x).retireNotices = p.retireNotices := rfl
@[simp] theorem Part.setSeqWait_bundles (c : Nat) (x : SeqWait) : (p.setSeqWait c x).bundles = p.bundles := rfl
@[simp] theorem Part.setSeqWait_retiredPorts (c : Nat) (x : SeqWait) : (p.setSeqWait c x).retiredPorts = p.retiredPorts := rfl
@[simp] theorem Part.setSeqWait_hbmFault (c : Nat) (x : SeqWait) : (p.setSeqWait c x).hbmFault = p.hbmFault := rfl
@[simp] theorem Part.setSeqWait_copyHeld (c : Nat) (x : SeqWait) : (p.setSeqWait c x).copyHeld = p.copyHeld := rfl
@[simp] theorem Part.setSeqWait_run (c : Nat) (x : SeqWait) : (p.setSeqWait c x).run = p.run := rfl
@[simp] theorem Part.setSeqWait_pins (c : Nat) (x : SeqWait) : (p.setSeqWait c x).pins = p.pins := rfl
@[simp] theorem Part.setSeqWait_flash (c : Nat) (x : SeqWait) : (p.setSeqWait c x).flash = p.flash := rfl
@[simp] theorem Part.setSeqWait_mgmt (c : Nat) (x : SeqWait) : (p.setSeqWait c x).mgmt = p.mgmt := rfl
@[simp] theorem Part.setSeqWait_levels (c : Nat) (x : SeqWait) : (p.setSeqWait c x).levels = p.levels := rfl
@[simp] theorem Part.setSeqWait_hot (c : Nat) (x : SeqWait) : (p.setSeqWait c x).hot = p.hot := rfl
@[simp] theorem Part.setSeqWait_levelAt (c : Nat) (x : SeqWait) : (p.setSeqWait c x).levelAt = p.levelAt := rfl
@[simp] theorem Part.setSeqWait_trip (c : Nat) (x : SeqWait) : (p.setSeqWait c x).trip = p.trip := rfl
@[simp] theorem Part.setSeqWait_power (c : Nat) (x : SeqWait) : (p.setSeqWait c x).power = p.power := rfl
@[simp] theorem Part.setSeqWait_snapAt (c : Nat) (x : SeqWait) : (p.setSeqWait c x).snapAt = p.snapAt := rfl
@[simp] theorem Part.setSeqWait_reply (c : Nat) (x : SeqWait) : (p.setSeqWait c x).reply = p.reply := rfl
@[simp] theorem Part.setSeqWait_draw (c : Nat) (x : SeqWait) : (p.setSeqWait c x).draw = p.draw := rfl

/-! ### put -/

@[simp] theorem Part.put_mem (f : Fld) (i : Nat) (v : Nat) : (p.put f i v).mem = p.mem := rfl
@[simp] theorem Part.put_host (f : Fld) (i : Nat) (v : Nat) : (p.put f i v).host = p.host := rfl
@[simp] theorem Part.put_upsets (f : Fld) (i : Nat) (v : Nat) : (p.put f i v).upsets = p.upsets := rfl
@[simp] theorem Part.put_lines (f : Fld) (i : Nat) (v : Nat) : (p.put f i v).lines = p.lines := rfl
@[simp] theorem Part.put_cores (f : Fld) (i : Nat) (v : Nat) : (p.put f i v).cores = p.cores := rfl
@[simp] theorem Part.put_seqWaits (f : Fld) (i : Nat) (v : Nat) : (p.put f i v).seqWaits = p.seqWaits := rfl
@[simp] theorem Part.put_banks (f : Fld) (i : Nat) (v : Nat) : (p.put f i v).banks = p.banks := rfl
@[simp] theorem Part.put_engines (f : Fld) (i : Nat) (v : Nat) : (p.put f i v).engines = p.engines := rfl
@[simp] theorem Part.put_ves (f : Fld) (i : Nat) (v : Nat) : (p.put f i v).ves = p.ves := rfl
@[simp] theorem Part.put_clusters (f : Fld) (i : Nat) (v : Nat) : (p.put f i v).clusters = p.clusters := rfl
@[simp] theorem Part.put_slots (f : Fld) (i : Nat) (v : Nat) : (p.put f i v).slots = p.slots := rfl
@[simp] theorem Part.put_staging (f : Fld) (i : Nat) (v : Nat) : (p.put f i v).staging = p.staging := rfl
@[simp] theorem Part.put_postRes (f : Fld) (i : Nat) (v : Nat) : (p.put f i v).postRes = p.postRes := rfl
@[simp] theorem Part.put_dies (f : Fld) (i : Nat) (v : Nat) : (p.put f i v).dies = p.dies := rfl
@[simp] theorem Part.put_handles (f : Fld) (i : Nat) (v : Nat) : (p.put f i v).handles = p.handles := rfl
@[simp] theorem Part.put_ports (f : Fld) (i : Nat) (v : Nat) : (p.put f i v).ports = p.ports := rfl
@[simp] theorem Part.put_flows (f : Fld) (i : Nat) (v : Nat) : (p.put f i v).flows = p.flows := rfl
@[simp] theorem Part.put_flipDone (f : Fld) (i : Nat) (v : Nat) : (p.put f i v).flipDone = p.flipDone := rfl
@[simp] theorem Part.put_arbSets (f : Fld) (i : Nat) (v : Nat) : (p.put f i v).arbSets = p.arbSets := rfl
@[simp] theorem Part.put_starved (f : Fld) (i : Nat) (v : Nat) : (p.put f i v).starved = p.starved := rfl
@[simp] theorem Part.put_streams (f : Fld) (i : Nat) (v : Nat) : (p.put f i v).streams = p.streams := rfl
@[simp] theorem Part.put_msix (f : Fld) (i : Nat) (v : Nat) : (p.put f i v).msix = p.msix := rfl
@[simp] theorem Part.put_evSeq (f : Fld) (i : Nat) (v : Nat) : (p.put f i v).evSeq = p.evSeq := rfl
@[simp] theorem Part.put_time (f : Fld) (i : Nat) (v : Nat) : (p.put f i v).time = p.time := rfl
@[simp] theorem Part.put_retireNotices (f : Fld) (i : Nat) (v : Nat) : (p.put f i v).retireNotices = p.retireNotices := rfl
@[simp] theorem Part.put_bundles (f : Fld) (i : Nat) (v : Nat) : (p.put f i v).bundles = p.bundles := rfl
@[simp] theorem Part.put_retiredPorts (f : Fld) (i : Nat) (v : Nat) : (p.put f i v).retiredPorts = p.retiredPorts := rfl
@[simp] theorem Part.put_hbmFault (f : Fld) (i : Nat) (v : Nat) : (p.put f i v).hbmFault = p.hbmFault := rfl
@[simp] theorem Part.put_copyHeld (f : Fld) (i : Nat) (v : Nat) : (p.put f i v).copyHeld = p.copyHeld := rfl
@[simp] theorem Part.put_run (f : Fld) (i : Nat) (v : Nat) : (p.put f i v).run = p.run := rfl
@[simp] theorem Part.put_pins (f : Fld) (i : Nat) (v : Nat) : (p.put f i v).pins = p.pins := rfl
@[simp] theorem Part.put_flash (f : Fld) (i : Nat) (v : Nat) : (p.put f i v).flash = p.flash := rfl
@[simp] theorem Part.put_mgmt (f : Fld) (i : Nat) (v : Nat) : (p.put f i v).mgmt = p.mgmt := rfl
@[simp] theorem Part.put_levels (f : Fld) (i : Nat) (v : Nat) : (p.put f i v).levels = p.levels := rfl
@[simp] theorem Part.put_hot (f : Fld) (i : Nat) (v : Nat) : (p.put f i v).hot = p.hot := rfl
@[simp] theorem Part.put_levelAt (f : Fld) (i : Nat) (v : Nat) : (p.put f i v).levelAt = p.levelAt := rfl
@[simp] theorem Part.put_trip (f : Fld) (i : Nat) (v : Nat) : (p.put f i v).trip = p.trip := rfl
@[simp] theorem Part.put_power (f : Fld) (i : Nat) (v : Nat) : (p.put f i v).power = p.power := rfl
@[simp] theorem Part.put_snapAt (f : Fld) (i : Nat) (v : Nat) : (p.put f i v).snapAt = p.snapAt := rfl
@[simp] theorem Part.put_reply (f : Fld) (i : Nat) (v : Nat) : (p.put f i v).reply = p.reply := rfl
@[simp] theorem Part.put_draw (f : Fld) (i : Nat) (v : Nat) : (p.put f i v).draw = p.draw := rfl

/-! ### bump -/

@[simp] theorem Part.bump_mem (f : Fld) (i : Nat) (n : Nat) : (p.bump f i n).mem = p.mem := rfl
@[simp] theorem Part.bump_host (f : Fld) (i : Nat) (n : Nat) : (p.bump f i n).host = p.host := rfl
@[simp] theorem Part.bump_upsets (f : Fld) (i : Nat) (n : Nat) : (p.bump f i n).upsets = p.upsets := rfl
@[simp] theorem Part.bump_lines (f : Fld) (i : Nat) (n : Nat) : (p.bump f i n).lines = p.lines := rfl
@[simp] theorem Part.bump_cores (f : Fld) (i : Nat) (n : Nat) : (p.bump f i n).cores = p.cores := rfl
@[simp] theorem Part.bump_seqWaits (f : Fld) (i : Nat) (n : Nat) : (p.bump f i n).seqWaits = p.seqWaits := rfl
@[simp] theorem Part.bump_banks (f : Fld) (i : Nat) (n : Nat) : (p.bump f i n).banks = p.banks := rfl
@[simp] theorem Part.bump_engines (f : Fld) (i : Nat) (n : Nat) : (p.bump f i n).engines = p.engines := rfl
@[simp] theorem Part.bump_ves (f : Fld) (i : Nat) (n : Nat) : (p.bump f i n).ves = p.ves := rfl
@[simp] theorem Part.bump_clusters (f : Fld) (i : Nat) (n : Nat) : (p.bump f i n).clusters = p.clusters := rfl
@[simp] theorem Part.bump_slots (f : Fld) (i : Nat) (n : Nat) : (p.bump f i n).slots = p.slots := rfl
@[simp] theorem Part.bump_staging (f : Fld) (i : Nat) (n : Nat) : (p.bump f i n).staging = p.staging := rfl
@[simp] theorem Part.bump_postRes (f : Fld) (i : Nat) (n : Nat) : (p.bump f i n).postRes = p.postRes := rfl
@[simp] theorem Part.bump_dies (f : Fld) (i : Nat) (n : Nat) : (p.bump f i n).dies = p.dies := rfl
@[simp] theorem Part.bump_handles (f : Fld) (i : Nat) (n : Nat) : (p.bump f i n).handles = p.handles := rfl
@[simp] theorem Part.bump_ports (f : Fld) (i : Nat) (n : Nat) : (p.bump f i n).ports = p.ports := rfl
@[simp] theorem Part.bump_flows (f : Fld) (i : Nat) (n : Nat) : (p.bump f i n).flows = p.flows := rfl
@[simp] theorem Part.bump_flipDone (f : Fld) (i : Nat) (n : Nat) : (p.bump f i n).flipDone = p.flipDone := rfl
@[simp] theorem Part.bump_arbSets (f : Fld) (i : Nat) (n : Nat) : (p.bump f i n).arbSets = p.arbSets := rfl
@[simp] theorem Part.bump_starved (f : Fld) (i : Nat) (n : Nat) : (p.bump f i n).starved = p.starved := rfl
@[simp] theorem Part.bump_streams (f : Fld) (i : Nat) (n : Nat) : (p.bump f i n).streams = p.streams := rfl
@[simp] theorem Part.bump_msix (f : Fld) (i : Nat) (n : Nat) : (p.bump f i n).msix = p.msix := rfl
@[simp] theorem Part.bump_evSeq (f : Fld) (i : Nat) (n : Nat) : (p.bump f i n).evSeq = p.evSeq := rfl
@[simp] theorem Part.bump_time (f : Fld) (i : Nat) (n : Nat) : (p.bump f i n).time = p.time := rfl
@[simp] theorem Part.bump_retireNotices (f : Fld) (i : Nat) (n : Nat) : (p.bump f i n).retireNotices = p.retireNotices := rfl
@[simp] theorem Part.bump_bundles (f : Fld) (i : Nat) (n : Nat) : (p.bump f i n).bundles = p.bundles := rfl
@[simp] theorem Part.bump_retiredPorts (f : Fld) (i : Nat) (n : Nat) : (p.bump f i n).retiredPorts = p.retiredPorts := rfl
@[simp] theorem Part.bump_hbmFault (f : Fld) (i : Nat) (n : Nat) : (p.bump f i n).hbmFault = p.hbmFault := rfl
@[simp] theorem Part.bump_copyHeld (f : Fld) (i : Nat) (n : Nat) : (p.bump f i n).copyHeld = p.copyHeld := rfl
@[simp] theorem Part.bump_run (f : Fld) (i : Nat) (n : Nat) : (p.bump f i n).run = p.run := rfl
@[simp] theorem Part.bump_pins (f : Fld) (i : Nat) (n : Nat) : (p.bump f i n).pins = p.pins := rfl
@[simp] theorem Part.bump_flash (f : Fld) (i : Nat) (n : Nat) : (p.bump f i n).flash = p.flash := rfl
@[simp] theorem Part.bump_mgmt (f : Fld) (i : Nat) (n : Nat) : (p.bump f i n).mgmt = p.mgmt := rfl
@[simp] theorem Part.bump_levels (f : Fld) (i : Nat) (n : Nat) : (p.bump f i n).levels = p.levels := rfl
@[simp] theorem Part.bump_hot (f : Fld) (i : Nat) (n : Nat) : (p.bump f i n).hot = p.hot := rfl
@[simp] theorem Part.bump_levelAt (f : Fld) (i : Nat) (n : Nat) : (p.bump f i n).levelAt = p.levelAt := rfl
@[simp] theorem Part.bump_trip (f : Fld) (i : Nat) (n : Nat) : (p.bump f i n).trip = p.trip := rfl
@[simp] theorem Part.bump_power (f : Fld) (i : Nat) (n : Nat) : (p.bump f i n).power = p.power := rfl
@[simp] theorem Part.bump_snapAt (f : Fld) (i : Nat) (n : Nat) : (p.bump f i n).snapAt = p.snapAt := rfl
@[simp] theorem Part.bump_reply (f : Fld) (i : Nat) (n : Nat) : (p.bump f i n).reply = p.reply := rfl
@[simp] theorem Part.bump_draw (f : Fld) (i : Nat) (n : Nat) : (p.bump f i n).draw = p.draw := rfl

/-! ### count -/

@[simp] theorem Part.count_mem (d : Nat) (i : Nat) (n : Nat) : (p.count d i n).mem = p.mem := rfl
@[simp] theorem Part.count_host (d : Nat) (i : Nat) (n : Nat) : (p.count d i n).host = p.host := rfl
@[simp] theorem Part.count_upsets (d : Nat) (i : Nat) (n : Nat) : (p.count d i n).upsets = p.upsets := rfl
@[simp] theorem Part.count_lines (d : Nat) (i : Nat) (n : Nat) : (p.count d i n).lines = p.lines := rfl
@[simp] theorem Part.count_cores (d : Nat) (i : Nat) (n : Nat) : (p.count d i n).cores = p.cores := rfl
@[simp] theorem Part.count_seqWaits (d : Nat) (i : Nat) (n : Nat) : (p.count d i n).seqWaits = p.seqWaits := rfl
@[simp] theorem Part.count_banks (d : Nat) (i : Nat) (n : Nat) : (p.count d i n).banks = p.banks := rfl
@[simp] theorem Part.count_engines (d : Nat) (i : Nat) (n : Nat) : (p.count d i n).engines = p.engines := rfl
@[simp] theorem Part.count_ves (d : Nat) (i : Nat) (n : Nat) : (p.count d i n).ves = p.ves := rfl
@[simp] theorem Part.count_clusters (d : Nat) (i : Nat) (n : Nat) : (p.count d i n).clusters = p.clusters := rfl
@[simp] theorem Part.count_slots (d : Nat) (i : Nat) (n : Nat) : (p.count d i n).slots = p.slots := rfl
@[simp] theorem Part.count_staging (d : Nat) (i : Nat) (n : Nat) : (p.count d i n).staging = p.staging := rfl
@[simp] theorem Part.count_postRes (d : Nat) (i : Nat) (n : Nat) : (p.count d i n).postRes = p.postRes := rfl
@[simp] theorem Part.count_dies (d : Nat) (i : Nat) (n : Nat) : (p.count d i n).dies = p.dies := rfl
@[simp] theorem Part.count_handles (d : Nat) (i : Nat) (n : Nat) : (p.count d i n).handles = p.handles := rfl
@[simp] theorem Part.count_ports (d : Nat) (i : Nat) (n : Nat) : (p.count d i n).ports = p.ports := rfl
@[simp] theorem Part.count_flows (d : Nat) (i : Nat) (n : Nat) : (p.count d i n).flows = p.flows := rfl
@[simp] theorem Part.count_flipDone (d : Nat) (i : Nat) (n : Nat) : (p.count d i n).flipDone = p.flipDone := rfl
@[simp] theorem Part.count_arbSets (d : Nat) (i : Nat) (n : Nat) : (p.count d i n).arbSets = p.arbSets := rfl
@[simp] theorem Part.count_starved (d : Nat) (i : Nat) (n : Nat) : (p.count d i n).starved = p.starved := rfl
@[simp] theorem Part.count_streams (d : Nat) (i : Nat) (n : Nat) : (p.count d i n).streams = p.streams := rfl
@[simp] theorem Part.count_msix (d : Nat) (i : Nat) (n : Nat) : (p.count d i n).msix = p.msix := rfl
@[simp] theorem Part.count_evSeq (d : Nat) (i : Nat) (n : Nat) : (p.count d i n).evSeq = p.evSeq := rfl
@[simp] theorem Part.count_time (d : Nat) (i : Nat) (n : Nat) : (p.count d i n).time = p.time := rfl
@[simp] theorem Part.count_retireNotices (d : Nat) (i : Nat) (n : Nat) : (p.count d i n).retireNotices = p.retireNotices := rfl
@[simp] theorem Part.count_bundles (d : Nat) (i : Nat) (n : Nat) : (p.count d i n).bundles = p.bundles := rfl
@[simp] theorem Part.count_retiredPorts (d : Nat) (i : Nat) (n : Nat) : (p.count d i n).retiredPorts = p.retiredPorts := rfl
@[simp] theorem Part.count_hbmFault (d : Nat) (i : Nat) (n : Nat) : (p.count d i n).hbmFault = p.hbmFault := rfl
@[simp] theorem Part.count_copyHeld (d : Nat) (i : Nat) (n : Nat) : (p.count d i n).copyHeld = p.copyHeld := rfl
@[simp] theorem Part.count_run (d : Nat) (i : Nat) (n : Nat) : (p.count d i n).run = p.run := rfl
@[simp] theorem Part.count_pins (d : Nat) (i : Nat) (n : Nat) : (p.count d i n).pins = p.pins := rfl
@[simp] theorem Part.count_flash (d : Nat) (i : Nat) (n : Nat) : (p.count d i n).flash = p.flash := rfl
@[simp] theorem Part.count_mgmt (d : Nat) (i : Nat) (n : Nat) : (p.count d i n).mgmt = p.mgmt := rfl
@[simp] theorem Part.count_levels (d : Nat) (i : Nat) (n : Nat) : (p.count d i n).levels = p.levels := rfl
@[simp] theorem Part.count_hot (d : Nat) (i : Nat) (n : Nat) : (p.count d i n).hot = p.hot := rfl
@[simp] theorem Part.count_levelAt (d : Nat) (i : Nat) (n : Nat) : (p.count d i n).levelAt = p.levelAt := rfl
@[simp] theorem Part.count_trip (d : Nat) (i : Nat) (n : Nat) : (p.count d i n).trip = p.trip := rfl
@[simp] theorem Part.count_power (d : Nat) (i : Nat) (n : Nat) : (p.count d i n).power = p.power := rfl
@[simp] theorem Part.count_snapAt (d : Nat) (i : Nat) (n : Nat) : (p.count d i n).snapAt = p.snapAt := rfl
@[simp] theorem Part.count_reply (d : Nat) (i : Nat) (n : Nat) : (p.count d i n).reply = p.reply := rfl
@[simp] theorem Part.count_draw (d : Nat) (i : Nat) (n : Nat) : (p.count d i n).draw = p.draw := rfl

/-! ### modCore -/

@[simp] theorem Part.modCore_regs (c : Nat) (f : CoreSt → CoreSt) : (p.modCore c f).regs = p.regs := rfl
@[simp] theorem Part.modCore_mem (c : Nat) (f : CoreSt → CoreSt) : (p.modCore c f).mem = p.mem := rfl
@[simp] theorem Part.modCore_host (c : Nat) (f : CoreSt → CoreSt) : (p.modCore c f).host = p.host := rfl
@[simp] theorem Part.modCore_upsets (c : Nat) (f : CoreSt → CoreSt) : (p.modCore c f).upsets = p.upsets := rfl
@[simp] theorem Part.modCore_lines (c : Nat) (f : CoreSt → CoreSt) : (p.modCore c f).lines = p.lines := rfl
@[simp] theorem Part.modCore_seqWaits (c : Nat) (f : CoreSt → CoreSt) : (p.modCore c f).seqWaits = p.seqWaits := rfl
@[simp] theorem Part.modCore_banks (c : Nat) (f : CoreSt → CoreSt) : (p.modCore c f).banks = p.banks := rfl
@[simp] theorem Part.modCore_engines (c : Nat) (f : CoreSt → CoreSt) : (p.modCore c f).engines = p.engines := rfl
@[simp] theorem Part.modCore_ves (c : Nat) (f : CoreSt → CoreSt) : (p.modCore c f).ves = p.ves := rfl
@[simp] theorem Part.modCore_clusters (c : Nat) (f : CoreSt → CoreSt) : (p.modCore c f).clusters = p.clusters := rfl
@[simp] theorem Part.modCore_slots (c : Nat) (f : CoreSt → CoreSt) : (p.modCore c f).slots = p.slots := rfl
@[simp] theorem Part.modCore_staging (c : Nat) (f : CoreSt → CoreSt) : (p.modCore c f).staging = p.staging := rfl
@[simp] theorem Part.modCore_postRes (c : Nat) (f : CoreSt → CoreSt) : (p.modCore c f).postRes = p.postRes := rfl
@[simp] theorem Part.modCore_dies (c : Nat) (f : CoreSt → CoreSt) : (p.modCore c f).dies = p.dies := rfl
@[simp] theorem Part.modCore_handles (c : Nat) (f : CoreSt → CoreSt) : (p.modCore c f).handles = p.handles := rfl
@[simp] theorem Part.modCore_ports (c : Nat) (f : CoreSt → CoreSt) : (p.modCore c f).ports = p.ports := rfl
@[simp] theorem Part.modCore_flows (c : Nat) (f : CoreSt → CoreSt) : (p.modCore c f).flows = p.flows := rfl
@[simp] theorem Part.modCore_flipDone (c : Nat) (f : CoreSt → CoreSt) : (p.modCore c f).flipDone = p.flipDone := rfl
@[simp] theorem Part.modCore_arbSets (c : Nat) (f : CoreSt → CoreSt) : (p.modCore c f).arbSets = p.arbSets := rfl
@[simp] theorem Part.modCore_starved (c : Nat) (f : CoreSt → CoreSt) : (p.modCore c f).starved = p.starved := rfl
@[simp] theorem Part.modCore_streams (c : Nat) (f : CoreSt → CoreSt) : (p.modCore c f).streams = p.streams := rfl
@[simp] theorem Part.modCore_msix (c : Nat) (f : CoreSt → CoreSt) : (p.modCore c f).msix = p.msix := rfl
@[simp] theorem Part.modCore_evSeq (c : Nat) (f : CoreSt → CoreSt) : (p.modCore c f).evSeq = p.evSeq := rfl
@[simp] theorem Part.modCore_time (c : Nat) (f : CoreSt → CoreSt) : (p.modCore c f).time = p.time := rfl
@[simp] theorem Part.modCore_retireNotices (c : Nat) (f : CoreSt → CoreSt) : (p.modCore c f).retireNotices = p.retireNotices := rfl
@[simp] theorem Part.modCore_bundles (c : Nat) (f : CoreSt → CoreSt) : (p.modCore c f).bundles = p.bundles := rfl
@[simp] theorem Part.modCore_retiredPorts (c : Nat) (f : CoreSt → CoreSt) : (p.modCore c f).retiredPorts = p.retiredPorts := rfl
@[simp] theorem Part.modCore_hbmFault (c : Nat) (f : CoreSt → CoreSt) : (p.modCore c f).hbmFault = p.hbmFault := rfl
@[simp] theorem Part.modCore_copyHeld (c : Nat) (f : CoreSt → CoreSt) : (p.modCore c f).copyHeld = p.copyHeld := rfl
@[simp] theorem Part.modCore_run (c : Nat) (f : CoreSt → CoreSt) : (p.modCore c f).run = p.run := rfl
@[simp] theorem Part.modCore_pins (c : Nat) (f : CoreSt → CoreSt) : (p.modCore c f).pins = p.pins := rfl
@[simp] theorem Part.modCore_flash (c : Nat) (f : CoreSt → CoreSt) : (p.modCore c f).flash = p.flash := rfl
@[simp] theorem Part.modCore_mgmt (c : Nat) (f : CoreSt → CoreSt) : (p.modCore c f).mgmt = p.mgmt := rfl
@[simp] theorem Part.modCore_levels (c : Nat) (f : CoreSt → CoreSt) : (p.modCore c f).levels = p.levels := rfl
@[simp] theorem Part.modCore_hot (c : Nat) (f : CoreSt → CoreSt) : (p.modCore c f).hot = p.hot := rfl
@[simp] theorem Part.modCore_levelAt (c : Nat) (f : CoreSt → CoreSt) : (p.modCore c f).levelAt = p.levelAt := rfl
@[simp] theorem Part.modCore_trip (c : Nat) (f : CoreSt → CoreSt) : (p.modCore c f).trip = p.trip := rfl
@[simp] theorem Part.modCore_power (c : Nat) (f : CoreSt → CoreSt) : (p.modCore c f).power = p.power := rfl
@[simp] theorem Part.modCore_snapAt (c : Nat) (f : CoreSt → CoreSt) : (p.modCore c f).snapAt = p.snapAt := rfl
@[simp] theorem Part.modCore_reply (c : Nat) (f : CoreSt → CoreSt) : (p.modCore c f).reply = p.reply := rfl
@[simp] theorem Part.modCore_draw (c : Nat) (f : CoreSt → CoreSt) : (p.modCore c f).draw = p.draw := rfl

/-! ### modDie -/

@[simp] theorem Part.modDie_regs (d : Nat) (f : DieSt → DieSt) : (p.modDie d f).regs = p.regs := rfl
@[simp] theorem Part.modDie_mem (d : Nat) (f : DieSt → DieSt) : (p.modDie d f).mem = p.mem := rfl
@[simp] theorem Part.modDie_host (d : Nat) (f : DieSt → DieSt) : (p.modDie d f).host = p.host := rfl
@[simp] theorem Part.modDie_upsets (d : Nat) (f : DieSt → DieSt) : (p.modDie d f).upsets = p.upsets := rfl
@[simp] theorem Part.modDie_lines (d : Nat) (f : DieSt → DieSt) : (p.modDie d f).lines = p.lines := rfl
@[simp] theorem Part.modDie_cores (d : Nat) (f : DieSt → DieSt) : (p.modDie d f).cores = p.cores := rfl
@[simp] theorem Part.modDie_seqWaits (d : Nat) (f : DieSt → DieSt) : (p.modDie d f).seqWaits = p.seqWaits := rfl
@[simp] theorem Part.modDie_banks (d : Nat) (f : DieSt → DieSt) : (p.modDie d f).banks = p.banks := rfl
@[simp] theorem Part.modDie_engines (d : Nat) (f : DieSt → DieSt) : (p.modDie d f).engines = p.engines := rfl
@[simp] theorem Part.modDie_ves (d : Nat) (f : DieSt → DieSt) : (p.modDie d f).ves = p.ves := rfl
@[simp] theorem Part.modDie_clusters (d : Nat) (f : DieSt → DieSt) : (p.modDie d f).clusters = p.clusters := rfl
@[simp] theorem Part.modDie_slots (d : Nat) (f : DieSt → DieSt) : (p.modDie d f).slots = p.slots := rfl
@[simp] theorem Part.modDie_staging (d : Nat) (f : DieSt → DieSt) : (p.modDie d f).staging = p.staging := rfl
@[simp] theorem Part.modDie_postRes (d : Nat) (f : DieSt → DieSt) : (p.modDie d f).postRes = p.postRes := rfl
@[simp] theorem Part.modDie_handles (d : Nat) (f : DieSt → DieSt) : (p.modDie d f).handles = p.handles := rfl
@[simp] theorem Part.modDie_ports (d : Nat) (f : DieSt → DieSt) : (p.modDie d f).ports = p.ports := rfl
@[simp] theorem Part.modDie_flows (d : Nat) (f : DieSt → DieSt) : (p.modDie d f).flows = p.flows := rfl
@[simp] theorem Part.modDie_flipDone (d : Nat) (f : DieSt → DieSt) : (p.modDie d f).flipDone = p.flipDone := rfl
@[simp] theorem Part.modDie_arbSets (d : Nat) (f : DieSt → DieSt) : (p.modDie d f).arbSets = p.arbSets := rfl
@[simp] theorem Part.modDie_starved (d : Nat) (f : DieSt → DieSt) : (p.modDie d f).starved = p.starved := rfl
@[simp] theorem Part.modDie_streams (d : Nat) (f : DieSt → DieSt) : (p.modDie d f).streams = p.streams := rfl
@[simp] theorem Part.modDie_msix (d : Nat) (f : DieSt → DieSt) : (p.modDie d f).msix = p.msix := rfl
@[simp] theorem Part.modDie_evSeq (d : Nat) (f : DieSt → DieSt) : (p.modDie d f).evSeq = p.evSeq := rfl
@[simp] theorem Part.modDie_time (d : Nat) (f : DieSt → DieSt) : (p.modDie d f).time = p.time := rfl
@[simp] theorem Part.modDie_retireNotices (d : Nat) (f : DieSt → DieSt) : (p.modDie d f).retireNotices = p.retireNotices := rfl
@[simp] theorem Part.modDie_bundles (d : Nat) (f : DieSt → DieSt) : (p.modDie d f).bundles = p.bundles := rfl
@[simp] theorem Part.modDie_retiredPorts (d : Nat) (f : DieSt → DieSt) : (p.modDie d f).retiredPorts = p.retiredPorts := rfl
@[simp] theorem Part.modDie_hbmFault (d : Nat) (f : DieSt → DieSt) : (p.modDie d f).hbmFault = p.hbmFault := rfl
@[simp] theorem Part.modDie_copyHeld (d : Nat) (f : DieSt → DieSt) : (p.modDie d f).copyHeld = p.copyHeld := rfl
@[simp] theorem Part.modDie_run (d : Nat) (f : DieSt → DieSt) : (p.modDie d f).run = p.run := rfl
@[simp] theorem Part.modDie_pins (d : Nat) (f : DieSt → DieSt) : (p.modDie d f).pins = p.pins := rfl
@[simp] theorem Part.modDie_flash (d : Nat) (f : DieSt → DieSt) : (p.modDie d f).flash = p.flash := rfl
@[simp] theorem Part.modDie_mgmt (d : Nat) (f : DieSt → DieSt) : (p.modDie d f).mgmt = p.mgmt := rfl
@[simp] theorem Part.modDie_levels (d : Nat) (f : DieSt → DieSt) : (p.modDie d f).levels = p.levels := rfl
@[simp] theorem Part.modDie_hot (d : Nat) (f : DieSt → DieSt) : (p.modDie d f).hot = p.hot := rfl
@[simp] theorem Part.modDie_levelAt (d : Nat) (f : DieSt → DieSt) : (p.modDie d f).levelAt = p.levelAt := rfl
@[simp] theorem Part.modDie_trip (d : Nat) (f : DieSt → DieSt) : (p.modDie d f).trip = p.trip := rfl
@[simp] theorem Part.modDie_power (d : Nat) (f : DieSt → DieSt) : (p.modDie d f).power = p.power := rfl
@[simp] theorem Part.modDie_snapAt (d : Nat) (f : DieSt → DieSt) : (p.modDie d f).snapAt = p.snapAt := rfl
@[simp] theorem Part.modDie_reply (d : Nat) (f : DieSt → DieSt) : (p.modDie d f).reply = p.reply := rfl
@[simp] theorem Part.modDie_draw (d : Nat) (f : DieSt → DieSt) : (p.modDie d f).draw = p.draw := rfl

/-! ### What an update writes, and its neighbours -/

@[simp] theorem Part.core_setCore (c : Nat) (x : CoreSt) : (p.setCore c x).core c = x := Tab.get_set_same ..
theorem Part.core_setCore_other {c e : Nat} (x : CoreSt) (h : e ≠ c) : (p.setCore c x).core e = p.core e :=
  Tab.get_set_other _ _ _ _ h
@[simp] theorem Part.core_modCore (c : Nat) (f : CoreSt → CoreSt) : (p.modCore c f).core c = f (p.core c) :=
  Tab.get_set_same ..
theorem Part.core_modCore_other {c e : Nat} (f : CoreSt → CoreSt) (h : e ≠ c) : (p.modCore c f).core e = p.core e :=
  Tab.get_set_other _ _ _ _ h
@[simp] theorem Part.seqWait_setSeqWait (c : Nat) (x : SeqWait) : (p.setSeqWait c x).seqWait c = x := Tab.get_set_same ..
theorem Part.seqWait_setSeqWait_other {c e : Nat} (x : SeqWait) (h : e ≠ c) : (p.setSeqWait c x).seqWait e = p.seqWait e :=
  Tab.get_set_other _ _ _ _ h
@[simp] theorem Part.bank_setBank (k : Nat) (x : Bank) : (p.setBank k x).bank k = x := Tab.get_set_same ..
theorem Part.bank_setBank_other {k j : Nat} (x : Bank) (h : j ≠ k) : (p.setBank k x).bank j = p.bank j :=
  Tab.get_set_other _ _ _ _ h
@[simp] theorem Part.engine_setEngine (e : Nat) (x : EngineSt) : (p.setEngine e x).engine e = x := Tab.get_set_same ..
theorem Part.engine_setEngine_other {e j : Nat} (x : EngineSt) (h : j ≠ e) : (p.setEngine e x).engine j = p.engine j :=
  Tab.get_set_other _ _ _ _ h
@[simp] theorem Part.ve_setVe (c : Nat) (x : VeSt) : (p.setVe c x).ve c = x := Tab.get_set_same ..
theorem Part.ve_setVe_other {c j : Nat} (x : VeSt) (h : j ≠ c) : (p.setVe c x).ve j = p.ve j := Tab.get_set_other _ _ _ _ h
@[simp] theorem Part.cluster_setCluster (k : Nat) (x : ClusterSt) : (p.setCluster k x).cluster k = x := Tab.get_set_same ..
theorem Part.cluster_setCluster_other {k j : Nat} (x : ClusterSt) (h : j ≠ k) :
    (p.setCluster k x).cluster j = p.cluster j := Tab.get_set_other _ _ _ _ h
@[simp] theorem Part.slot_setSlot (k n : Nat) (x : Slot) : (p.setSlot k n x).slot k n = x := Tab.get_set_same ..
theorem Part.slot_setSlot_other {k n j m : Nat} (x : Slot) (h : 256 * j + m ≠ 256 * k + n) :
    (p.setSlot k n x).slot j m = p.slot j m := Tab.get_set_other _ _ _ _ h
@[simp] theorem Part.die_setDie (d : Nat) (x : DieSt) : (p.setDie d x).die d = x := Tab.get_set_same ..
theorem Part.die_setDie_other {d e : Nat} (x : DieSt) (h : e ≠ d) : (p.setDie d x).die e = p.die e :=
  Tab.get_set_other _ _ _ _ h
@[simp] theorem Part.die_modDie (d : Nat) (f : DieSt → DieSt) : (p.modDie d f).die d = f (p.die d) := Tab.get_set_same ..
theorem Part.die_modDie_other {d e : Nat} (f : DieSt → DieSt) (h : e ≠ d) : (p.modDie d f).die e = p.die e :=
  Tab.get_set_other _ _ _ _ h
@[simp] theorem Part.handle_setHandle (h : Nat) (x : Handle) : (p.setHandle h x).handle h = x := Tab.get_set_same ..
theorem Part.handle_setHandle_other {h g : Nat} (x : Handle) (n : g ≠ h) : (p.setHandle h x).handle g = p.handle g :=
  Tab.get_set_other _ _ _ _ n
@[simp] theorem Part.stream_setStream (port n : Nat) (x : StreamSt) : (p.setStream port n x).stream port n = x :=
  Tab.get_set_same ..
theorem Part.stream_setStream_other {port n q m : Nat} (x : StreamSt) (h : 4096 * q + m ≠ 4096 * port + n) :
    (p.setStream port n x).stream q m = p.stream q m := Tab.get_set_other _ _ _ _ h

/-! ### Records that other updates leave alone -/

@[simp] theorem Part.core_wr (r' : Reg) (i' : Nat) (w' : Word) (c : Nat) : (p.wr r' i' w').core c = p.core c := rfl
@[simp] theorem Part.bank_wr (r' : Reg) (i' : Nat) (w' : Word) (k : Nat) : (p.wr r' i' w').bank k = p.bank k := rfl
@[simp] theorem Part.engine_wr (r' : Reg) (i' : Nat) (w' : Word) (e : Nat) : (p.wr r' i' w').engine e = p.engine e := rfl
@[simp] theorem Part.ve_wr (r' : Reg) (i' : Nat) (w' : Word) (c : Nat) : (p.wr r' i' w').ve c = p.ve c := rfl
@[simp] theorem Part.cluster_wr (r' : Reg) (i' : Nat) (w' : Word) (k : Nat) : (p.wr r' i' w').cluster k = p.cluster k := rfl
@[simp] theorem Part.slot_wr (r' : Reg) (i' : Nat) (w' : Word) (k n : Nat) : (p.wr r' i' w').slot k n = p.slot k n := rfl
@[simp] theorem Part.die_wr (r' : Reg) (i' : Nat) (w' : Word) (d : Nat) : (p.wr r' i' w').die d = p.die d := rfl
@[simp] theorem Part.handle_wr (r' : Reg) (i' : Nat) (w' : Word) (h : Nat) : (p.wr r' i' w').handle h = p.handle h := rfl
@[simp] theorem Part.stream_wr (r' : Reg) (i' : Nat) (w' : Word) (port n : Nat) : (p.wr r' i' w').stream port n = p.stream port n := rfl
@[simp] theorem Part.bank_setCore (c' : Nat) (x' : CoreSt) (k : Nat) : (p.setCore c' x').bank k = p.bank k := rfl
@[simp] theorem Part.engine_setCore (c' : Nat) (x' : CoreSt) (e : Nat) : (p.setCore c' x').engine e = p.engine e := rfl
@[simp] theorem Part.ve_setCore (c' : Nat) (x' : CoreSt) (c : Nat) : (p.setCore c' x').ve c = p.ve c := rfl
@[simp] theorem Part.cluster_setCore (c' : Nat) (x' : CoreSt) (k : Nat) : (p.setCore c' x').cluster k = p.cluster k := rfl
@[simp] theorem Part.slot_setCore (c' : Nat) (x' : CoreSt) (k n : Nat) : (p.setCore c' x').slot k n = p.slot k n := rfl
@[simp] theorem Part.die_setCore (c' : Nat) (x' : CoreSt) (d : Nat) : (p.setCore c' x').die d = p.die d := rfl
@[simp] theorem Part.handle_setCore (c' : Nat) (x' : CoreSt) (h : Nat) : (p.setCore c' x').handle h = p.handle h := rfl
@[simp] theorem Part.stream_setCore (c' : Nat) (x' : CoreSt) (port n : Nat) : (p.setCore c' x').stream port n = p.stream port n := rfl
@[simp] theorem Part.rd_setCore (c' : Nat) (x' : CoreSt) (r : Reg) (i : Nat) : (p.setCore c' x').rd r i = p.rd r i := rfl
@[simp] theorem Part.get_setCore (c' : Nat) (x' : CoreSt) (f : Fld) (i : Nat) : (p.setCore c' x').get f i = p.get f i := rfl
@[simp] theorem Part.core_setBank (k' : Nat) (x' : Bank) (c : Nat) : (p.setBank k' x').core c = p.core c := rfl
@[simp] theorem Part.engine_setBank (k' : Nat) (x' : Bank) (e : Nat) : (p.setBank k' x').engine e = p.engine e := rfl
@[simp] theorem Part.ve_setBank (k' : Nat) (x' : Bank) (c : Nat) : (p.setBank k' x').ve c = p.ve c := rfl
@[simp] theorem Part.cluster_setBank (k' : Nat) (x' : Bank) (k : Nat) : (p.setBank k' x').cluster k = p.cluster k := rfl
@[simp] theorem Part.slot_setBank (k' : Nat) (x' : Bank) (k n : Nat) : (p.setBank k' x').slot k n = p.slot k n := rfl
@[simp] theorem Part.die_setBank (k' : Nat) (x' : Bank) (d : Nat) : (p.setBank k' x').die d = p.die d := rfl
@[simp] theorem Part.handle_setBank (k' : Nat) (x' : Bank) (h : Nat) : (p.setBank k' x').handle h = p.handle h := rfl
@[simp] theorem Part.stream_setBank (k' : Nat) (x' : Bank) (port n : Nat) : (p.setBank k' x').stream port n = p.stream port n := rfl
@[simp] theorem Part.rd_setBank (k' : Nat) (x' : Bank) (r : Reg) (i : Nat) : (p.setBank k' x').rd r i = p.rd r i := rfl
@[simp] theorem Part.get_setBank (k' : Nat) (x' : Bank) (f : Fld) (i : Nat) : (p.setBank k' x').get f i = p.get f i := rfl
@[simp] theorem Part.core_setEngine (e' : Nat) (x' : EngineSt) (c : Nat) : (p.setEngine e' x').core c = p.core c := rfl
@[simp] theorem Part.bank_setEngine (e' : Nat) (x' : EngineSt) (k : Nat) : (p.setEngine e' x').bank k = p.bank k := rfl
@[simp] theorem Part.ve_setEngine (e' : Nat) (x' : EngineSt) (c : Nat) : (p.setEngine e' x').ve c = p.ve c := rfl
@[simp] theorem Part.cluster_setEngine (e' : Nat) (x' : EngineSt) (k : Nat) : (p.setEngine e' x').cluster k = p.cluster k := rfl
@[simp] theorem Part.slot_setEngine (e' : Nat) (x' : EngineSt) (k n : Nat) : (p.setEngine e' x').slot k n = p.slot k n := rfl
@[simp] theorem Part.die_setEngine (e' : Nat) (x' : EngineSt) (d : Nat) : (p.setEngine e' x').die d = p.die d := rfl
@[simp] theorem Part.handle_setEngine (e' : Nat) (x' : EngineSt) (h : Nat) : (p.setEngine e' x').handle h = p.handle h := rfl
@[simp] theorem Part.stream_setEngine (e' : Nat) (x' : EngineSt) (port n : Nat) : (p.setEngine e' x').stream port n = p.stream port n := rfl
@[simp] theorem Part.rd_setEngine (e' : Nat) (x' : EngineSt) (r : Reg) (i : Nat) : (p.setEngine e' x').rd r i = p.rd r i := rfl
@[simp] theorem Part.get_setEngine (e' : Nat) (x' : EngineSt) (f : Fld) (i : Nat) : (p.setEngine e' x').get f i = p.get f i := rfl
@[simp] theorem Part.core_setVe (c' : Nat) (x' : VeSt) (c : Nat) : (p.setVe c' x').core c = p.core c := rfl
@[simp] theorem Part.bank_setVe (c' : Nat) (x' : VeSt) (k : Nat) : (p.setVe c' x').bank k = p.bank k := rfl
@[simp] theorem Part.engine_setVe (c' : Nat) (x' : VeSt) (e : Nat) : (p.setVe c' x').engine e = p.engine e := rfl
@[simp] theorem Part.cluster_setVe (c' : Nat) (x' : VeSt) (k : Nat) : (p.setVe c' x').cluster k = p.cluster k := rfl
@[simp] theorem Part.slot_setVe (c' : Nat) (x' : VeSt) (k n : Nat) : (p.setVe c' x').slot k n = p.slot k n := rfl
@[simp] theorem Part.die_setVe (c' : Nat) (x' : VeSt) (d : Nat) : (p.setVe c' x').die d = p.die d := rfl
@[simp] theorem Part.handle_setVe (c' : Nat) (x' : VeSt) (h : Nat) : (p.setVe c' x').handle h = p.handle h := rfl
@[simp] theorem Part.stream_setVe (c' : Nat) (x' : VeSt) (port n : Nat) : (p.setVe c' x').stream port n = p.stream port n := rfl
@[simp] theorem Part.rd_setVe (c' : Nat) (x' : VeSt) (r : Reg) (i : Nat) : (p.setVe c' x').rd r i = p.rd r i := rfl
@[simp] theorem Part.get_setVe (c' : Nat) (x' : VeSt) (f : Fld) (i : Nat) : (p.setVe c' x').get f i = p.get f i := rfl
@[simp] theorem Part.core_setCluster (k' : Nat) (x' : ClusterSt) (c : Nat) : (p.setCluster k' x').core c = p.core c := rfl
@[simp] theorem Part.bank_setCluster (k' : Nat) (x' : ClusterSt) (k : Nat) : (p.setCluster k' x').bank k = p.bank k := rfl
@[simp] theorem Part.engine_setCluster (k' : Nat) (x' : ClusterSt) (e : Nat) : (p.setCluster k' x').engine e = p.engine e := rfl
@[simp] theorem Part.ve_setCluster (k' : Nat) (x' : ClusterSt) (c : Nat) : (p.setCluster k' x').ve c = p.ve c := rfl
@[simp] theorem Part.slot_setCluster (k' : Nat) (x' : ClusterSt) (k n : Nat) : (p.setCluster k' x').slot k n = p.slot k n := rfl
@[simp] theorem Part.die_setCluster (k' : Nat) (x' : ClusterSt) (d : Nat) : (p.setCluster k' x').die d = p.die d := rfl
@[simp] theorem Part.handle_setCluster (k' : Nat) (x' : ClusterSt) (h : Nat) : (p.setCluster k' x').handle h = p.handle h := rfl
@[simp] theorem Part.stream_setCluster (k' : Nat) (x' : ClusterSt) (port n : Nat) : (p.setCluster k' x').stream port n = p.stream port n := rfl
@[simp] theorem Part.rd_setCluster (k' : Nat) (x' : ClusterSt) (r : Reg) (i : Nat) : (p.setCluster k' x').rd r i = p.rd r i := rfl
@[simp] theorem Part.get_setCluster (k' : Nat) (x' : ClusterSt) (f : Fld) (i : Nat) : (p.setCluster k' x').get f i = p.get f i := rfl
@[simp] theorem Part.core_setSlot (k' : Nat) (n' : Nat) (x' : Slot) (c : Nat) : (p.setSlot k' n' x').core c = p.core c := rfl
@[simp] theorem Part.bank_setSlot (k' : Nat) (n' : Nat) (x' : Slot) (k : Nat) : (p.setSlot k' n' x').bank k = p.bank k := rfl
@[simp] theorem Part.engine_setSlot (k' : Nat) (n' : Nat) (x' : Slot) (e : Nat) : (p.setSlot k' n' x').engine e = p.engine e := rfl
@[simp] theorem Part.ve_setSlot (k' : Nat) (n' : Nat) (x' : Slot) (c : Nat) : (p.setSlot k' n' x').ve c = p.ve c := rfl
@[simp] theorem Part.cluster_setSlot (k' : Nat) (n' : Nat) (x' : Slot) (k : Nat) : (p.setSlot k' n' x').cluster k = p.cluster k := rfl
@[simp] theorem Part.die_setSlot (k' : Nat) (n' : Nat) (x' : Slot) (d : Nat) : (p.setSlot k' n' x').die d = p.die d := rfl
@[simp] theorem Part.handle_setSlot (k' : Nat) (n' : Nat) (x' : Slot) (h : Nat) : (p.setSlot k' n' x').handle h = p.handle h := rfl
@[simp] theorem Part.stream_setSlot (k' : Nat) (n' : Nat) (x' : Slot) (port n : Nat) : (p.setSlot k' n' x').stream port n = p.stream port n := rfl
@[simp] theorem Part.rd_setSlot (k' : Nat) (n' : Nat) (x' : Slot) (r : Reg) (i : Nat) : (p.setSlot k' n' x').rd r i = p.rd r i := rfl
@[simp] theorem Part.get_setSlot (k' : Nat) (n' : Nat) (x' : Slot) (f : Fld) (i : Nat) : (p.setSlot k' n' x').get f i = p.get f i := rfl
@[simp] theorem Part.core_setDie (d' : Nat) (x' : DieSt) (c : Nat) : (p.setDie d' x').core c = p.core c := rfl
@[simp] theorem Part.bank_setDie (d' : Nat) (x' : DieSt) (k : Nat) : (p.setDie d' x').bank k = p.bank k := rfl
@[simp] theorem Part.engine_setDie (d' : Nat) (x' : DieSt) (e : Nat) : (p.setDie d' x').engine e = p.engine e := rfl
@[simp] theorem Part.ve_setDie (d' : Nat) (x' : DieSt) (c : Nat) : (p.setDie d' x').ve c = p.ve c := rfl
@[simp] theorem Part.cluster_setDie (d' : Nat) (x' : DieSt) (k : Nat) : (p.setDie d' x').cluster k = p.cluster k := rfl
@[simp] theorem Part.slot_setDie (d' : Nat) (x' : DieSt) (k n : Nat) : (p.setDie d' x').slot k n = p.slot k n := rfl
@[simp] theorem Part.handle_setDie (d' : Nat) (x' : DieSt) (h : Nat) : (p.setDie d' x').handle h = p.handle h := rfl
@[simp] theorem Part.stream_setDie (d' : Nat) (x' : DieSt) (port n : Nat) : (p.setDie d' x').stream port n = p.stream port n := rfl
@[simp] theorem Part.rd_setDie (d' : Nat) (x' : DieSt) (r : Reg) (i : Nat) : (p.setDie d' x').rd r i = p.rd r i := rfl
@[simp] theorem Part.get_setDie (d' : Nat) (x' : DieSt) (f : Fld) (i : Nat) : (p.setDie d' x').get f i = p.get f i := rfl
@[simp] theorem Part.core_setHandle (h' : Nat) (x' : Handle) (c : Nat) : (p.setHandle h' x').core c = p.core c := rfl
@[simp] theorem Part.bank_setHandle (h' : Nat) (x' : Handle) (k : Nat) : (p.setHandle h' x').bank k = p.bank k := rfl
@[simp] theorem Part.engine_setHandle (h' : Nat) (x' : Handle) (e : Nat) : (p.setHandle h' x').engine e = p.engine e := rfl
@[simp] theorem Part.ve_setHandle (h' : Nat) (x' : Handle) (c : Nat) : (p.setHandle h' x').ve c = p.ve c := rfl
@[simp] theorem Part.cluster_setHandle (h' : Nat) (x' : Handle) (k : Nat) : (p.setHandle h' x').cluster k = p.cluster k := rfl
@[simp] theorem Part.slot_setHandle (h' : Nat) (x' : Handle) (k n : Nat) : (p.setHandle h' x').slot k n = p.slot k n := rfl
@[simp] theorem Part.die_setHandle (h' : Nat) (x' : Handle) (d : Nat) : (p.setHandle h' x').die d = p.die d := rfl
@[simp] theorem Part.stream_setHandle (h' : Nat) (x' : Handle) (port n : Nat) : (p.setHandle h' x').stream port n = p.stream port n := rfl
@[simp] theorem Part.rd_setHandle (h' : Nat) (x' : Handle) (r : Reg) (i : Nat) : (p.setHandle h' x').rd r i = p.rd r i := rfl
@[simp] theorem Part.get_setHandle (h' : Nat) (x' : Handle) (f : Fld) (i : Nat) : (p.setHandle h' x').get f i = p.get f i := rfl
@[simp] theorem Part.core_setStream (port' : Nat) (n' : Nat) (x' : StreamSt) (c : Nat) : (p.setStream port' n' x').core c = p.core c := rfl
@[simp] theorem Part.bank_setStream (port' : Nat) (n' : Nat) (x' : StreamSt) (k : Nat) : (p.setStream port' n' x').bank k = p.bank k := rfl
@[simp] theorem Part.engine_setStream (port' : Nat) (n' : Nat) (x' : StreamSt) (e : Nat) : (p.setStream port' n' x').engine e = p.engine e := rfl
@[simp] theorem Part.ve_setStream (port' : Nat) (n' : Nat) (x' : StreamSt) (c : Nat) : (p.setStream port' n' x').ve c = p.ve c := rfl
@[simp] theorem Part.cluster_setStream (port' : Nat) (n' : Nat) (x' : StreamSt) (k : Nat) : (p.setStream port' n' x').cluster k = p.cluster k := rfl
@[simp] theorem Part.slot_setStream (port' : Nat) (n' : Nat) (x' : StreamSt) (k n : Nat) : (p.setStream port' n' x').slot k n = p.slot k n := rfl
@[simp] theorem Part.die_setStream (port' : Nat) (n' : Nat) (x' : StreamSt) (d : Nat) : (p.setStream port' n' x').die d = p.die d := rfl
@[simp] theorem Part.handle_setStream (port' : Nat) (n' : Nat) (x' : StreamSt) (h : Nat) : (p.setStream port' n' x').handle h = p.handle h := rfl
@[simp] theorem Part.rd_setStream (port' : Nat) (n' : Nat) (x' : StreamSt) (r : Reg) (i : Nat) : (p.setStream port' n' x').rd r i = p.rd r i := rfl
@[simp] theorem Part.get_setStream (port' : Nat) (n' : Nat) (x' : StreamSt) (f : Fld) (i : Nat) : (p.setStream port' n' x').get f i = p.get f i := rfl
@[simp] theorem Part.core_setSeqWait (c' : Nat) (x' : SeqWait) (c : Nat) : (p.setSeqWait c' x').core c = p.core c := rfl
@[simp] theorem Part.bank_setSeqWait (c' : Nat) (x' : SeqWait) (k : Nat) : (p.setSeqWait c' x').bank k = p.bank k := rfl
@[simp] theorem Part.engine_setSeqWait (c' : Nat) (x' : SeqWait) (e : Nat) : (p.setSeqWait c' x').engine e = p.engine e := rfl
@[simp] theorem Part.ve_setSeqWait (c' : Nat) (x' : SeqWait) (c : Nat) : (p.setSeqWait c' x').ve c = p.ve c := rfl
@[simp] theorem Part.cluster_setSeqWait (c' : Nat) (x' : SeqWait) (k : Nat) : (p.setSeqWait c' x').cluster k = p.cluster k := rfl
@[simp] theorem Part.slot_setSeqWait (c' : Nat) (x' : SeqWait) (k n : Nat) : (p.setSeqWait c' x').slot k n = p.slot k n := rfl
@[simp] theorem Part.die_setSeqWait (c' : Nat) (x' : SeqWait) (d : Nat) : (p.setSeqWait c' x').die d = p.die d := rfl
@[simp] theorem Part.handle_setSeqWait (c' : Nat) (x' : SeqWait) (h : Nat) : (p.setSeqWait c' x').handle h = p.handle h := rfl
@[simp] theorem Part.stream_setSeqWait (c' : Nat) (x' : SeqWait) (port n : Nat) : (p.setSeqWait c' x').stream port n = p.stream port n := rfl
@[simp] theorem Part.rd_setSeqWait (c' : Nat) (x' : SeqWait) (r : Reg) (i : Nat) : (p.setSeqWait c' x').rd r i = p.rd r i := rfl
@[simp] theorem Part.get_setSeqWait (c' : Nat) (x' : SeqWait) (f : Fld) (i : Nat) : (p.setSeqWait c' x').get f i = p.get f i := rfl
@[simp] theorem Part.core_put (f' : Fld) (i' : Nat) (v' : Nat) (c : Nat) : (p.put f' i' v').core c = p.core c := rfl
@[simp] theorem Part.bank_put (f' : Fld) (i' : Nat) (v' : Nat) (k : Nat) : (p.put f' i' v').bank k = p.bank k := rfl
@[simp] theorem Part.engine_put (f' : Fld) (i' : Nat) (v' : Nat) (e : Nat) : (p.put f' i' v').engine e = p.engine e := rfl
@[simp] theorem Part.ve_put (f' : Fld) (i' : Nat) (v' : Nat) (c : Nat) : (p.put f' i' v').ve c = p.ve c := rfl
@[simp] theorem Part.cluster_put (f' : Fld) (i' : Nat) (v' : Nat) (k : Nat) : (p.put f' i' v').cluster k = p.cluster k := rfl
@[simp] theorem Part.slot_put (f' : Fld) (i' : Nat) (v' : Nat) (k n : Nat) : (p.put f' i' v').slot k n = p.slot k n := rfl
@[simp] theorem Part.die_put (f' : Fld) (i' : Nat) (v' : Nat) (d : Nat) : (p.put f' i' v').die d = p.die d := rfl
@[simp] theorem Part.handle_put (f' : Fld) (i' : Nat) (v' : Nat) (h : Nat) : (p.put f' i' v').handle h = p.handle h := rfl
@[simp] theorem Part.stream_put (f' : Fld) (i' : Nat) (v' : Nat) (port n : Nat) : (p.put f' i' v').stream port n = p.stream port n := rfl
@[simp] theorem Part.core_bump (f' : Fld) (i' : Nat) (n' : Nat) (c : Nat) : (p.bump f' i' n').core c = p.core c := rfl
@[simp] theorem Part.bank_bump (f' : Fld) (i' : Nat) (n' : Nat) (k : Nat) : (p.bump f' i' n').bank k = p.bank k := rfl
@[simp] theorem Part.engine_bump (f' : Fld) (i' : Nat) (n' : Nat) (e : Nat) : (p.bump f' i' n').engine e = p.engine e := rfl
@[simp] theorem Part.ve_bump (f' : Fld) (i' : Nat) (n' : Nat) (c : Nat) : (p.bump f' i' n').ve c = p.ve c := rfl
@[simp] theorem Part.cluster_bump (f' : Fld) (i' : Nat) (n' : Nat) (k : Nat) : (p.bump f' i' n').cluster k = p.cluster k := rfl
@[simp] theorem Part.slot_bump (f' : Fld) (i' : Nat) (n' : Nat) (k n : Nat) : (p.bump f' i' n').slot k n = p.slot k n := rfl
@[simp] theorem Part.die_bump (f' : Fld) (i' : Nat) (n' : Nat) (d : Nat) : (p.bump f' i' n').die d = p.die d := rfl
@[simp] theorem Part.handle_bump (f' : Fld) (i' : Nat) (n' : Nat) (h : Nat) : (p.bump f' i' n').handle h = p.handle h := rfl
@[simp] theorem Part.stream_bump (f' : Fld) (i' : Nat) (n' : Nat) (port n : Nat) : (p.bump f' i' n').stream port n = p.stream port n := rfl
@[simp] theorem Part.core_count (d' : Nat) (i' : Nat) (n' : Nat) (c : Nat) : (p.count d' i' n').core c = p.core c := rfl
@[simp] theorem Part.bank_count (d' : Nat) (i' : Nat) (n' : Nat) (k : Nat) : (p.count d' i' n').bank k = p.bank k := rfl
@[simp] theorem Part.engine_count (d' : Nat) (i' : Nat) (n' : Nat) (e : Nat) : (p.count d' i' n').engine e = p.engine e := rfl
@[simp] theorem Part.ve_count (d' : Nat) (i' : Nat) (n' : Nat) (c : Nat) : (p.count d' i' n').ve c = p.ve c := rfl
@[simp] theorem Part.cluster_count (d' : Nat) (i' : Nat) (n' : Nat) (k : Nat) : (p.count d' i' n').cluster k = p.cluster k := rfl
@[simp] theorem Part.slot_count (d' : Nat) (i' : Nat) (n' : Nat) (k n : Nat) : (p.count d' i' n').slot k n = p.slot k n := rfl
@[simp] theorem Part.die_count (d' : Nat) (i' : Nat) (n' : Nat) (d : Nat) : (p.count d' i' n').die d = p.die d := rfl
@[simp] theorem Part.handle_count (d' : Nat) (i' : Nat) (n' : Nat) (h : Nat) : (p.count d' i' n').handle h = p.handle h := rfl
@[simp] theorem Part.stream_count (d' : Nat) (i' : Nat) (n' : Nat) (port n : Nat) : (p.count d' i' n').stream port n = p.stream port n := rfl
@[simp] theorem Part.bank_modCore (c' : Nat) (f' : CoreSt → CoreSt) (k : Nat) : (p.modCore c' f').bank k = p.bank k := rfl
@[simp] theorem Part.engine_modCore (c' : Nat) (f' : CoreSt → CoreSt) (e : Nat) : (p.modCore c' f').engine e = p.engine e := rfl
@[simp] theorem Part.ve_modCore (c' : Nat) (f' : CoreSt → CoreSt) (c : Nat) : (p.modCore c' f').ve c = p.ve c := rfl
@[simp] theorem Part.cluster_modCore (c' : Nat) (f' : CoreSt → CoreSt) (k : Nat) : (p.modCore c' f').cluster k = p.cluster k := rfl
@[simp] theorem Part.slot_modCore (c' : Nat) (f' : CoreSt → CoreSt) (k n : Nat) : (p.modCore c' f').slot k n = p.slot k n := rfl
@[simp] theorem Part.die_modCore (c' : Nat) (f' : CoreSt → CoreSt) (d : Nat) : (p.modCore c' f').die d = p.die d := rfl
@[simp] theorem Part.handle_modCore (c' : Nat) (f' : CoreSt → CoreSt) (h : Nat) : (p.modCore c' f').handle h = p.handle h := rfl
@[simp] theorem Part.stream_modCore (c' : Nat) (f' : CoreSt → CoreSt) (port n : Nat) : (p.modCore c' f').stream port n = p.stream port n := rfl
@[simp] theorem Part.rd_modCore (c' : Nat) (f' : CoreSt → CoreSt) (r : Reg) (i : Nat) : (p.modCore c' f').rd r i = p.rd r i := rfl
@[simp] theorem Part.get_modCore (c' : Nat) (f' : CoreSt → CoreSt) (f : Fld) (i : Nat) : (p.modCore c' f').get f i = p.get f i := rfl
@[simp] theorem Part.core_modDie (d' : Nat) (f' : DieSt → DieSt) (c : Nat) : (p.modDie d' f').core c = p.core c := rfl
@[simp] theorem Part.bank_modDie (d' : Nat) (f' : DieSt → DieSt) (k : Nat) : (p.modDie d' f').bank k = p.bank k := rfl
@[simp] theorem Part.engine_modDie (d' : Nat) (f' : DieSt → DieSt) (e : Nat) : (p.modDie d' f').engine e = p.engine e := rfl
@[simp] theorem Part.ve_modDie (d' : Nat) (f' : DieSt → DieSt) (c : Nat) : (p.modDie d' f').ve c = p.ve c := rfl
@[simp] theorem Part.cluster_modDie (d' : Nat) (f' : DieSt → DieSt) (k : Nat) : (p.modDie d' f').cluster k = p.cluster k := rfl
@[simp] theorem Part.slot_modDie (d' : Nat) (f' : DieSt → DieSt) (k n : Nat) : (p.modDie d' f').slot k n = p.slot k n := rfl
@[simp] theorem Part.handle_modDie (d' : Nat) (f' : DieSt → DieSt) (h : Nat) : (p.modDie d' f').handle h = p.handle h := rfl
@[simp] theorem Part.stream_modDie (d' : Nat) (f' : DieSt → DieSt) (port n : Nat) : (p.modDie d' f').stream port n = p.stream port n := rfl
@[simp] theorem Part.rd_modDie (d' : Nat) (f' : DieSt → DieSt) (r : Reg) (i : Nat) : (p.modDie d' f').rd r i = p.rd r i := rfl
@[simp] theorem Part.get_modDie (d' : Nat) (f' : DieSt → DieSt) (f : Fld) (i : Nat) : (p.modDie d' f').get f i = p.get f i := rfl

/-! ### How a command reaches the state -/

@[simp] theorem State.run_pending (s : State) (f : Part → Part) {t : State} (h : s.run f = .next t) :
    t.pending = s.pending := by
  simp only [State.run, Host.Outcome.next.injEq] at h
  exact h ▸ rfl

/-- Running an effect always answers a next state. -/
theorem State.run_eq (s : State) (f : Part → Part) :
    s.run f = .next { s with part := f { s.part with reply := .none } } := rfl

/-- In a part in service the effect of a command is run. -/
theorem State.runReady_of_ready {s : State} (f : Part → Part) (h : s.part.ready = true) : s.runReady f = s.run f := by
  have : ({ s.part with reply := .none } : Part).ready = true := h
  simp [State.runReady, State.run, this]

/-- A part that is not in service keeps its state but for the answer of the last command. -/
theorem State.runReady_of_not_ready {s : State} (f : Part → Part) (h : s.part.ready = false) :
    s.runReady f = .next { s with part := { s.part with reply := .none } } := by
  have : ({ s.part with reply := .none } : Part).ready = false := h
  simp [State.runReady, State.run, this]

/-- A command of a host whose link is up is run. -/
theorem State.runPort_of_up {s : State} {port : Nat} (f : Part → Part) (h : s.part.ready = true)
    (u : s.part.linkUp port = true) : s.runPort port f = s.run f := by
  have h' : ({ s.part with reply := .none } : Part).ready = true := h
  have u' : ({ s.part with reply := .none } : Part).linkUp port = true := u
  simp [State.runPort, State.run, h', u']

@[simp] theorem whenWf_true (r : Host.Outcome State Fault Refusal) : whenWf true r = r := rfl
@[simp] theorem whenWf_false (r : Host.Outcome State Fault Refusal) : whenWf false r = .refused .illFormed := rfl

end Sys2Proof.Machine
end

