-- ==== Sys2Proof/Laws/Reg.lean ====
section
/-! SUPPORT. The laws of registers and their fields: a field reads back what was put, and every other one stays. -/

namespace Sys2Proof.Machine

/-- Bit `i` of the mask that clears a field. -/
theorem testBit_clear {wd lo i : Nat} (h : lo + wd ≤ 64) :
    (2 ^ 64 - 1 - (2 ^ wd - 1) * 2 ^ lo).testBit i = (decide (i < 64) && !decide (lo ≤ i ∧ i < lo + wd)) := by
  have hm : (2 ^ wd - 1) * 2 ^ lo < 2 ^ 64 := by
    calc (2 ^ wd - 1) * 2 ^ lo < 2 ^ wd * 2 ^ lo := by
          apply Nat.mul_lt_mul_of_pos_right _ (by positivity)
          exact Nat.sub_lt (by positivity) (by norm_num)
      _ = 2 ^ (lo + wd) := by rw [Nat.pow_add, Nat.mul_comm]
      _ ≤ 2 ^ 64 := Nat.pow_le_pow_right (by norm_num) h
  have e : 2 ^ 64 - 1 - (2 ^ wd - 1) * 2 ^ lo = 2 ^ 64 - ((2 ^ wd - 1) * 2 ^ lo + 1) := by omega
  rw [e, Nat.testBit_two_pow_sub_succ hm]
  rw [Nat.testBit_mul_two_pow]
  by_cases h1 : i < 64 <;> by_cases h2 : lo ≤ i <;> by_cases h3 : i < lo + wd <;>
    simp [h1, h2, h3, Nat.testBit_two_pow_sub_one] <;> omega

theorem Fld.into_toNat (f : Fld) (w : Word) (v : Nat) (h : f.lo + f.width ≤ 64) :
    (f.into w v).toNat = (w.toNat &&& (2 ^ 64 - 1 - (2 ^ f.width - 1) * 2 ^ f.lo)) ||| (v % 2 ^ f.width * 2 ^ f.lo) := by
  unfold Fld.into
  rw [BitVec.toNat_ofNat]
  apply Nat.mod_eq_of_lt
  apply Nat.or_lt_two_pow
  · exact lt_of_le_of_lt Nat.and_le_left w.isLt
  · calc v % 2 ^ f.width * 2 ^ f.lo < 2 ^ f.width * 2 ^ f.lo :=
          Nat.mul_lt_mul_of_pos_right (Nat.mod_lt _ (by positivity)) (by positivity)
      _ = 2 ^ (f.lo + f.width) := by rw [Nat.pow_add, Nat.mul_comm]
      _ ≤ 2 ^ 64 := Nat.pow_le_pow_right (by norm_num) h

theorem Fld.testBit_of (f : Fld) (w : Word) (i : Nat) :
    (f.of w).testBit i = (decide (i < f.width) && w.toNat.testBit (f.lo + i)) := by
  simp [Fld.of, Nat.testBit_mod_two_pow, Nat.testBit_div_two_pow, Nat.add_comm]

/-- A field that lies within the register. -/
def Fld.ok (f : Fld) : Prop := f.lo ≤ f.hi ∧ f.hi < 64

theorem Fld.ok_width {f : Fld} (h : f.ok) : f.lo + f.width ≤ 64 := by
  unfold Fld.ok at h; unfold Fld.width; omega

/-- A field reads back the value put into it, modulo its width. -/
theorem Fld.of_into {f : Fld} (h : f.ok) (w : Word) (v : Nat) : f.of (f.into w v) = v % 2 ^ f.width := by
  have hw := Fld.ok_width h
  apply Nat.eq_of_testBit_eq
  intro i
  rw [Fld.testBit_of, Fld.into_toNat _ _ _ hw, Nat.testBit_or, Nat.testBit_and, testBit_clear hw, Nat.testBit_mul_two_pow,
    Nat.testBit_mod_two_pow]
  by_cases hi : i < f.width
  · have : f.lo + i < f.lo + f.width := by omega
    simp [hi]
  · simp [hi]

/-- A field keeps its value when another one, of other bits, is put. -/
theorem Fld.of_into_other {f g : Fld} (k : f.ok) (h : g.ok) (d : f.hi < g.lo ∨ g.hi < f.lo) (w : Word) (v : Nat) :
    f.of (g.into w v) = f.of w := by
  have hw := Fld.ok_width h
  have kw := Fld.ok_width k
  apply Nat.eq_of_testBit_eq
  intro i
  rw [Fld.testBit_of, Fld.testBit_of, Fld.into_toNat _ _ _ hw, Nat.testBit_or, Nat.testBit_and, testBit_clear hw,
    Nat.testBit_mul_two_pow, Nat.testBit_mod_two_pow]
  by_cases hi : i < f.width
  · have hb : ¬ (g.lo ≤ f.lo + i ∧ f.lo + i < g.lo + g.width) := by
      unfold Fld.ok at h k; unfold Fld.width at *; omega
    have h2 : ¬ (g.lo ≤ f.lo + i) ∨ ¬ (f.lo + i - g.lo < g.width) := by omega
    have h3 : f.lo + i < 64 := by omega
    rcases h2 with h2 | h2 <;> simp [h2, h3, hb]
  · simp [hi]

/-! ### Registers of the part -/

@[simp] theorem Part.rd_wr (p : Part) (r : Reg) (i : Nat) (w : Word) : (p.wr r i w).rd r i = w := Tab.get_set_same ..

theorem Part.rd_wr_other (p : Part) {r q : Reg} {i j : Nat} (w : Word) (h : q.off j ≠ r.off i) :
    (p.wr r i w).rd q j = p.rd q j := Tab.get_set_other _ _ _ _ h

theorem Part.rd_put (p : Part) (f : Fld) (i v : Nat) : (p.put f i v).rd f.reg i = f.into (p.rd f.reg i) v :=
  Tab.get_set_same ..

theorem Part.rd_put_other (p : Part) (f : Fld) {q : Reg} {i j : Nat} (v : Nat) (h : q.off j ≠ f.reg.off i) :
    (p.put f i v).rd q j = p.rd q j := Tab.get_set_other _ _ _ _ h

/-- A field reads back what was put. -/
theorem Part.get_put (p : Part) {f : Fld} (h : f.ok) (i v : Nat) : (p.put f i v).get f i = v % 2 ^ f.width := by
  unfold Part.get
  rw [Part.rd_put, Fld.of_into h]

/-- Other bits of the same register stay. -/
theorem Part.get_put_bits (p : Part) {f g : Fld} (k : f.ok) (h : g.ok) (r : f.reg = g.reg) (d : f.hi < g.lo ∨ g.hi < f.lo)
    (i v : Nat) : (p.put g i v).get f i = p.get f i := by
  unfold Part.get
  rw [r, Part.rd_put, Fld.of_into_other k h d]

/-- Other registers stay. -/
theorem Part.get_put_other (p : Part) {f g : Fld} {i j : Nat} (v : Nat) (h : f.reg.off j ≠ g.reg.off i) :
    (p.put g i v).get f j = p.get f j := by
  unfold Part.get
  rw [Part.rd_put_other p g v h]

/-- A field is below two to its width. -/
theorem Part.get_lt (p : Part) (f : Fld) (i : Nat) : p.get f i < 2 ^ f.width := Nat.mod_lt _ (by positivity)

end Sys2Proof.Machine
end

