-- ==== Sys2Proof/Laws/Mem.lean ====
section
/-! SUPPORT. The laws of memory: a byte reads back what was stored, every other byte stays, and every operation over memory
keeps its canonical form. -/

namespace Sys2Proof.Machine

/-! ### One byte -/

/-- Where a physical address of memory lies, and that the block stores bytes there. -/
def stored (pa : Nat) : Prop :=
  match whereIs pa with
  | .hbm _ | .tile _ _ | .host _ _ => True
  | .window _ _ | .reserved _ | .mmio | .hole => False

/-- What a host window address names. -/
theorem whereIs_host {pa port a : Nat} (h : whereIs pa = .host port a) :
    (port = 0 ∧ pa = 0x4000_0000_0000 + a ∧ a < 0x1000_0000_0000) ∨
      (port = 1 ∧ pa = 0x5000_0000_0000 + a ∧ a < 0x1000_0000_0000) := by
  unfold whereIs at h
  split_ifs at h with h0 h1 h2 h3
  · simp only [Where.host.injEq] at h; omega
  · simp only [Where.host.injEq] at h; omega
  · dsimp only at h
    split_ifs at h

/-- A stored byte reads back. -/
theorem Part.byte_setByte_same (p : Part) {pa : Nat} (b : Byte) (h : Machine.stored pa) : (p.setByte pa b).byte pa = b := by
  unfold Machine.stored at h
  unfold Part.byte Part.setByte
  split at h
  · rename_i e; simp [e]
  · rename_i e; simp [e]
  · rename_i e; simp [e, Part.hostByte]
  all_goals exact h.elim

/-- Every other byte stays. -/
theorem Part.byte_setByte_other (p : Part) {pa qa : Nat} (b : Byte) (h : qa ≠ pa) :
    (p.setByte pa b).byte qa = p.byte qa := by
  unfold Part.setByte
  split
  · rename_i port a e
    unfold Part.byte
    split
    · rename_i port' a' e'
      refine Tab.get_set_other _ _ _ _ ?_
      have h1 := whereIs_host e
      have h2 := whereIs_host e'
      omega
    all_goals rfl
  · unfold Part.byte
    split
    · rfl
    · rfl
    · exact Tab.get_set_other _ _ _ _ h
    · exact Tab.get_set_other _ _ _ _ h
    all_goals rfl
  · unfold Part.byte
    split
    · rfl
    · rfl
    · exact Tab.get_set_other _ _ _ _ h
    · exact Tab.get_set_other _ _ _ _ h
    all_goals rfl
  all_goals rfl

/-- Bytes outside a run of stored bytes stay. -/
theorem Part.byte_setBytes_other (l : List Byte) (p : Part) {pa qa : Nat} (h : qa < pa ∨ pa + l.length ≤ qa) :
    (p.setBytes pa l).byte qa = p.byte qa := by
  induction l generalizing p pa with
  | nil => rfl
  | cons b r ih =>
    simp only [List.length_cons] at h
    unfold Part.setBytes
    rw [ih _ (by omega), Part.byte_setByte_other _ _ (by omega)]

/-! ### Properties that every access to memory keeps -/

/-- How many elements an access to memory may change of a register: the error log and counters, the event queues, and the
trace's own; none of another register. -/
def memReg : Reg → Nat
  | .MEM_ERR_STATUS | .UE_LOG | .TRACE_HEAD | .TRACE_STATUS => 4
  | .COUNTER => 52
  | .EVQ_HEAD | .EVQ_STATUS => 2
  | _ => 0

/-- Two records of a die that differ only in what an access to memory may change: cached leaves and lines, correctable errors of
the scrub period, the mover's requests and peak, transfers and a pass that wait on a handle, the pager's requests and stamps,
and the trace's counters. -/
def DieSt.Near (x y : DieSt) : Prop :=
  y = { x with
    tlb := y.tlb, rlines := y.rlines, ceScrub := y.ceScrub, waiting := y.waiting, peak := y.peak, active := y.active, pass := y.pass, stamp := y.stamp, pgPin := y.pgPin, pgWait := y.pgWait
    dieSeq := y.dieSeq, traceWin := y.traceWin, traceCount := y.traceCount }

theorem DieSt.Near.refl (x : DieSt) : x.Near x := rfl

/-- A property of the part that the updates made by accesses to memory keep. -/
structure Closed (P : Part → Prop) : Prop where
  put : ∀ (p : Part) (f : Fld) (i v : Nat), i < memReg f.reg → P p → P (p.put f i v)
  byte : ∀ (p : Part) (pa : Nat) (b : Byte), P p → P (p.setByte pa b)
  host : ∀ (p : Part) (key : Nat) (b : Byte), P p → P { p with host := Tab.set 0 p.host key b }
  upsets : ∀ (p : Part) (u : Tab Upset), P p → P { p with upsets := u }
  lines : ∀ (p : Part) (u : Tab CLine), P p → P { p with lines := u }
  seqWaits : ∀ (p : Part) (u : Tab SeqWait), P p → P { p with seqWaits := u }
  draw : ∀ (p : Part) (n : Nat), P p → P { p with draw := n }
  dies : ∀ (p : Part) (x : Tab DieSt), (∀ d, (p.die d).Near (Tab.get DieSt.reset x d)) → P p → P { p with dies := x }
  handle : ∀ (p : Part) (h : Nat) (x : Handle), P p → P (p.setHandle h x)
  bank : ∀ (p : Part) (n : Nat) (x : Bank), P p → P (p.setBank n x)
  fly : ∀ (p : Part) (c o : Nat) (st : FlySt), P p → P (p.setPg c o st)
  evSeq : ∀ (p : Part) (n : Nat), P p → P { p with evSeq := n }
  msix : ∀ (p : Part) (l : List (Nat × Nat)), P p → P { p with msix := l }

variable {P : Part → Prop}

theorem Closed.setDie (k : Closed P) {p : Part} (h : P p) (d : Nat) (x : DieSt) (hx : (p.die d).Near x) : P (p.setDie d x) := by
  refine k.dies p _ (fun e => ?_) h
  by_cases he : e = d
  · subst he
    simpa using hx
  · rw [Tab.get_set_other _ _ _ _ he]
    rfl

theorem Closed.die (k : Closed P) {p : Part} (h : P p) (d : Nat) (f : DieSt → DieSt) (hf : ∀ x : DieSt, x.Near (f x)) :
    P (p.modDie d f) := k.setDie h d _ (hf _)

theorem Closed.setBytes (k : Closed P) {l : List Byte} {p : Part} (h : P p) (pa : Nat) : P (p.setBytes pa l) := by
  induction l generalizing p pa with
  | nil => exact h
  | cons b r ih => exact ih (k.byte p pa b h) (pa + 1)

theorem Closed.setHostBytes (k : Closed P) {l : List Byte} {p : Part} (h : P p) (port a : Nat) :
    P (p.setHostBytes port a l) := by
  induction l generalizing p a with
  | nil => exact h
  | cons b r ih => exact ih (k.host p _ b h) (a + 1)

/-- An effect carried over a list keeps a property when each step does. -/
theorem foldl_keeps {α : Type} (f : Part → α → Part) (hf : ∀ p a, P p → P (f p a)) (l : List α) {p : Part} (h : P p) :
    P (l.foldl f p) := by
  induction l generalizing p with
  | nil => exact h
  | cons a r ih => exact ih (hf p a h)

theorem Closed.eventTo (k : Closed P) {p : Part} (h : P p) {port : Nat} (hd : port < 2) (ty : EventTy) (st : Status) (unit info seq : Nat) :
    P (p.eventTo port ty st unit info seq) := by
  unfold Part.eventTo
  dsimp only
  generalize eventRecord _ _ _ _ _ _ _ = l
  generalize p.get Fld.EVQ_BASE.ADDR port * 4096 + _ = a
  have hs := k.put _ Fld.EVQ_HEAD.PRODUCER port (p.get Fld.EVQ_HEAD.PRODUCER port + 1) hd
    (k.setHostBytes (l := l) h port a)
  split
  · exact k.put _ _ _ _ hd h
  · split
    · exact k.msix _ _ hs
    · exact hs

theorem Closed.event (k : Closed P) {p : Part} (h : P p) (ty : EventTy) (st : Status) (unit info : Nat) :
    P (p.event ty st unit info) :=
  k.eventTo (k.eventTo (k.evSeq p _ h) (by decide) ..) (by decide) ..

theorem Closed.count (k : Closed P) {p : Part} (h : P p) {d i : Nat} (hd : d < 4) (hi : i < 13) (n : Nat) : P (p.count d i n) :=
  k.put _ _ _ _ (show 13 * d + i < 52 by omega) h

theorem Closed.countCe (k : Closed P) {p : Part} (h : P p) {d : Nat} (hd : d < 4) (pa : Nat) : P (p.countCe d pa) := by
  have hp := k.die (k.count (k.put p Fld.MEM_ERR_STATUS.CE_COUNT d (satAdd Fld.MEM_ERR_STATUS.CE_COUNT.width
    (p.get Fld.MEM_ERR_STATUS.CE_COUNT d) 1) hd h) hd (i := 8) (by decide) 1) d (fun x => { x with ceScrub := x.ceScrub + 1 })
    (by intro _; rfl)
  unfold Part.countCe
  dsimp only
  split
  · exact k.event hp ..
  · exact hp

theorem Closed.countUe (k : Closed P) {p : Part} (h : P p) {d : Nat} (hd : d < 4) (pa src : Nat) (mis : Bool) : P (p.countUe d pa src mis) := by
  have hp := k.count (k.put p Fld.MEM_ERR_STATUS.UE_COUNT d (satAdd Fld.MEM_ERR_STATUS.UE_COUNT.width
    (p.get Fld.MEM_ERR_STATUS.UE_COUNT d) 1) hd h) hd (i := 9) (by decide) 1
  unfold Part.countUe
  dsimp only
  split
  · exact k.put _ _ _ _ hd (k.put _ _ _ _ hd (k.put _ _ _ _ hd hp))
  · exact hp

theorem Closed.flipWord (k : Closed P) {p : Part} (h : P p) (pa : Nat) (m : BitVec 64) : P (p.flipWord pa m) := by
  unfold Part.flipWord
  split
  · exact h
  · exact k.setBytes h _

theorem Closed.beneath (k : Closed P) {p : Part} (h : P p) (key : Nat) (m : BitVec 64) : P (p.beneath key m) :=
  k.upsets p _ h

theorem Closed.takeWord (k : Closed P) {p : Part} (h : P p) (key : Nat) (m : BitVec 64) : P (p.takeWord key m) := by
  have hp := k.upsets p (Tab.del p.upsets key) h
  unfold Part.takeWord
  dsimp only
  split
  · exact hp
  · split
    · split
      · exact k.beneath hp ..
      · exact k.flipWord hp ..
    · split
      · exact k.flipWord hp ..
      · exact k.beneath (k.flipWord hp ..) ..
    · exact k.die hp _ _ (by intro _; rfl)

theorem Closed.checkWord (k : Closed P) {p : Part} (h : P p) (key : Nat) {d : Nat} (hd : d < 4) :
    P (p.checkWord key d).1 := by
  unfold Part.checkWord
  split
  · exact h
  · split
    · dsimp only
      split
      · exact h
      · exact k.takeWord h ..
    · exact k.countCe (k.takeWord h ..) hd _
    · exact k.countUe h hd ..

theorem Closed.checkWords (k : Closed P) {ks : List Nat} {p : Part} (h : P p) {d : Nat} (hd : d < 4) :
    P (p.checkWords ks d).1 := by
  induction ks generalizing p with
  | nil => exact h
  | cons n r ih =>
    have hk := k.checkWord h n hd
    unfold Part.checkWords
    split <;> rename_i e <;> rw [e] at hk
    · exact hk
    · exact ih hk

theorem errDie_lt (pa : Nat) : errDie pa < 4 := by
  unfold errDie
  split
  · rename_i e
    unfold whereIs at e
    split_ifs at e
    · simp only [Where.hbm.injEq] at e
      omega
    · dsimp only at e
      split_ifs at e
  · rename_i c x e
    have hc : (pa - 0x7F00_0000_0000) / 0x100_0000 = c ∧ 0x7F00_0000_0000 ≤ pa ∧ pa < 0x7F01_0000_0000 := by
      unfold whereIs at e
      split_ifs at e with h0 h1 h2 h3
      dsimp only at e
      split_ifs at e
      simp only [Where.tile.injEq] at e
      exact ⟨e.1, h3⟩
    unfold dieOf
    omega
  · decide

theorem Closed.checkRange (k : Closed P) {p : Part} (h : P p) (pa n : Nat) : P (p.checkRange pa n).1 := by
  unfold Part.checkRange
  exact foldl_keeps (P := P) _ (fun _ a hp => k.checkWord hp a (errDie_lt pa)) _ h

/-! ### The die caches -/

/-- The die of an address of HBM. -/
theorem hbm_lt {pa d : Nat} (h : whereIs pa = .hbm d) : d < 4 := by
  have := errDie_lt pa
  simpa [errDie, h] using this

theorem Closed.stores (k : Closed P) {p : Part} (h : P p) (u : Tab Upset) (l : Tab CLine) : P { p with upsets := u, lines := l } :=
  k.lines { p with upsets := u } l (k.upsets p u h)

theorem Closed.dropLine (k : Closed P) {p : Part} (h : P p) (line : Nat) : P (p.dropLine line) := by
  unfold Part.dropLine
  split
  · exact h
  · dsimp only
    split
    · have hp := k.checkWords (ks := p.lineKeys (localKey (256 * line))) h (errDie_lt (256 * line))
      exact k.stores (k.upsets _ (Tab.delRange _ (32 * line) 32) hp) _ _
    · exact k.stores h _ _

theorem Closed.crossWord (k : Closed P) {p : Part} (h : P p) (src key : Nat) {d : Nat} (hd : d < 4) :
    P (p.crossWord src key d) := by
  unfold Part.crossWord
  split
  · split
    · exact k.upsets _ _ h
    · exact k.checkWord h src hd
  · exact h

/-- A line fits a die's local portion. -/
theorem Closed.fillLine (k : Closed P) {p : Part} (h : P p) {line : Nat} (hd : 256 * line / 0x30_0000_0000 < 4) : P (p.fillLine line) := by
  have take {q : Part} (hq : P q) (ks : List Nat) (way : Nat) :
      P (let p := ks.foldl (fun (p : Part) k => p.crossWord k (localKey (8 * k)) (256 * line / 0x30_0000_0000)) q
        { p with lines := Tab.put p.lines line ⟨way, false⟩ }) :=
    k.lines _ _ (foldl_keeps (P := P) (fun (p : Part) k => p.crossWord k (localKey (8 * k)) (256 * line / 0x30_0000_0000))
      (fun _ a hp => k.crossWord hp a _ hd) _ hq)
  unfold Part.fillLine
  split
  · exact h
  · dsimp only
    split
    · exact take h ..
    · split
      · rename_i v _
        exact take (k.dropLine (k.draw p (p.draw + 1) h) v.1) ..
      · exact h

theorem Closed.reach (k : Closed P) {p : Part} (h : P p) (pa : Nat) (direct : Bool) : P (p.reach pa direct) := by
  unfold Part.reach
  split
  · rename_i d e
    split
    · exact h
    · refine k.fillLine h ?_
      have : pa < 0xC0_0000_0000 := by
        unfold whereIs at e
        split_ifs at e with h0
        · exact h0
        · dsimp only at e
          split_ifs at e
      omega
  · exact h

theorem Closed.readHome (k : Closed P) {p : Part} (h : P p) (pa n : Nat) (direct : Bool) : P (p.readHome pa n direct).1 := by
  have hk := k.checkWords (ks := (p.reach pa direct).wordKeys pa n) (k.reach h pa direct) (errDie_lt pa)
  unfold Part.readHome
  dsimp only
  split <;> rename_i e <;> rw [e] at hk <;> exact hk

theorem Closed.markDirty (k : Closed P) {p : Part} (h : P p) (line : Nat) : P (p.markDirty line) := by
  unfold Part.markDirty
  split
  · exact k.lines _ _ h
  · exact h

theorem Closed.writeHome (k : Closed P) {p : Part} (h : P p) (pa : Nat) (l : List Byte) (direct : Bool) :
    P (p.writeHome pa l direct).1 := by
  unfold Part.writeHome
  dsimp only
  have fold (ks : List Nat) (a : Part × List Nat) (ha : P a.1) :
      P (ks.foldl (fun (pb : Part × List Nat) k =>
        match pb.1.checkWord k (errDie pa) with
        | (p, true) => (p, keyPa k / 8 :: pb.2)
        | (p, false) => (p, pb.2)) a).1 := by
    induction ks generalizing a with
    | nil => exact ha
    | cons n r ih =>
      refine ih _ ?_
      have hk := k.checkWord ha n (errDie_lt pa)
      dsimp only
      split <;> rename_i e <;> rw [e] at hk <;> exact hk
  generalize hq : List.foldl _ _ _ = q
  have hw : P q.1 := by rw [← hq]; exact fold _ _ (k.upsets _ _ (k.reach h pa direct))
  refine k.markDirty ?_ _
  split
  · exact k.setBytes hw _
  · refine foldl_keeps _ (fun p a hp => ?_) _ hw
    split
    · exact hp
    · exact k.byte _ _ _ hp

theorem Closed.writeWindow (k : Closed P) {p q : Part} {n off : Nat} {l : List Byte} {a : Acc Unit} (h : P p)
    (e : p.writeWindow n off l = some (q, a)) : P q := by
  unfold Part.writeWindow at e
  split_ifs at e <;> simp only [Option.some.injEq, Prod.mk.injEq] at e <;> rw [← e.1]
  · exact h
  · exact k.bank _ _ _ h

theorem Closed.dropRemote (k : Closed P) {p : Part} (h : P p) (d line : Nat) : P (p.dropRemote d line) :=
  k.die (k.upsets p (Tab.delRange p.upsets (remoteKey d (256 * line)) 32) h) _ _ (by intro _; rfl)

theorem Closed.fillRemote (k : Closed P) {p : Part} (h : P p) (d line : Nat) : P (p.fillRemote d line) := by
  have take {q : Part} (hq : P q) (ks : List Nat) (way : Nat) :
      P (let p := ks.foldl (fun (p : Part) k => p.crossWord k (remoteKey d (keyPa k)) (errDie (256 * line))) q
        let r : RLine := ⟨p.get Fld.MEM_STATUS.REMOTE_EPOCH d, way, p.bytes (256 * line) 256⟩
        p.modDie d (fun x => { x with rlines := Tab.put x.rlines line r })) :=
    k.die (foldl_keeps (P := P) (fun (p : Part) k => p.crossWord k (remoteKey d (keyPa k)) (errDie (256 * line)))
      (fun _ a hp => k.crossWord hp a _ (errDie_lt _)) _ hq) _ _ (by intro _; rfl)
  unfold Part.fillRemote
  dsimp only
  split
  · exact take (k.dropRemote h ..) ..
  · split
    · rename_i v _
      exact take (k.dropRemote (k.draw (p.dropRemote d line) ((p.dropRemote d line).draw + 1) (k.dropRemote h d line)) d v.1) ..
    · exact k.dropRemote h ..

/-- A choice between two outcomes keeps a property when both do. -/
theorem ite_keeps {α : Type} {c : Prop} [Decidable c] {a b : Part × α} (ha : P a.1) (hb : P b.1) : P (if c then a else b).1 := by
  split <;> assumption

theorem Closed.readLine (k : Closed P) {p : Part} (h : P p) {d : Nat} (hd : d < 4) (pa n : Nat) (via : Via) :
    P (p.readLine d pa n via).1 := by
  unfold Part.readLine
  split
  · refine ite_keeps ?_ (k.readHome h ..)
    have hr := k.readHome h pa n false
    have hc := k.checkWords (ks := p.keysFrom (remoteKey d pa) pa n) h hd
    refine ite_keeps ?_ ?_
    · split <;> rename_i e <;> rw [e] at hc <;> exact hc
    · split
      · rename_i e
        rw [e] at hr
        exact k.fillRemote hr ..
      · exact hr
  · exact k.readHome h ..
  · split <;> exact h
  · split <;> exact h
  all_goals exact h

theorem Closed.writeLine (k : Closed P) {p : Part} (h : P p) (d pa : Nat) (l : List Byte) (direct : Bool) :
    P (p.writeLine d pa l direct).1 := by
  unfold Part.writeLine
  split
  · split
    · exact k.writeHome h ..
    · exact k.writeHome (k.dropRemote h ..) ..
  · split
    · exact h
    · split
      · exact k.writeHome (k.writeHome h ..) ..
      · exact k.writeHome h ..
  · rename_i n off _
    have twin : P (match p.twin (n / 4) with
      | some f => match p.writeWindow (4 * f + n % 4) off l with
        | some r => r.1
        | none => p
      | none => p) := by
      split
      · split
        · rename_i r e
          exact k.writeWindow h (q := r.1) (a := r.2) e
        · exact h
      · exact h
    have key (q : Part) (hq : P q) : P (match q.writeWindow n off l with
      | some r => r
      | none => (q, .wait 65536)).1 := by
      split
      · rename_i r e
        exact k.writeWindow hq (q := r.1) (a := r.2) e
      · exact hq
    exact key _ twin
  · split
    · exact k.setHostBytes h _ _
    · exact h
  all_goals exact h

/-! ### Accesses of a core to its own tile store -/

theorem Closed.readLocal (k : Closed P) {p : Part} (h : P p) (c a n : Nat) : P (p.readLocal c a n).1 := by
  unfold Part.readLocal
  split
  · exact h
  · split
    · exact k.readHome h ..
    · split
      · split <;> exact h
      · exact h

theorem Closed.writeLocal (k : Closed P) {p : Part} (h : P p) (c a : Nat) (l : List Byte) :
    P (p.writeLocal c a l).1 := by
  unfold Part.writeLocal
  split
  · exact h
  · split
    · split
      · exact h
      · exact k.writeHome h ..
    · split
      · split
        · rename_i r e
          exact k.writeWindow h (q := r.1) (a := r.2) e
        · exact h
      · exact h

/-! ### Translation and the pager -/

theorem Closed.readTable (k : Closed P) {p : Part} (h : P p) {d : Nat} (hd : d < 4) (pa : Nat) : P (p.readTable d pa).1 := by
  have hr := k.readLine h hd pa 8 .home
  unfold Part.readTable
  split <;> rename_i e <;> rw [e] at hr <;> exact hr

theorem Closed.walkFrom (k : Closed P) (f : Nat) {p : Part} (h : P p) {d : Nat} (hd : d < 4) (q : Req) (dva pa level : Nat) :
    P (p.walkFrom d q dva pa level f).1 := by
  induction f generalizing p pa level with
  | zero => exact h
  | succ f ih =>
    unfold Part.walkFrom
    dsimp only
    generalize (if level = 1 then bits dva 47 39 else if level = 2 then bits dva 38 30
      else if level = 3 then bits dva 29 21 else bits dva 20 16) = idx
    have hr := k.readTable h hd (pa + 8 * idx)
    split
    · exact h
    · split <;> rename_i e <;> rw [e] at hr
      · exact hr
      · split
        · exact ih hr _ _
        all_goals exact hr

theorem Closed.walk (k : Closed P) {p : Part} (h : P p) {d : Nat} (hd : d < 4) (q : Req) (dva : Nat) : P (p.walk d q dva).1 := by
  unfold Part.walk
  split
  · exact h
  · dsimp only
    split
    · exact h
    · have hr := k.walkFrom 4 h hd q dva (p.get Fld.XLATE_ROOT.ROOT d * 4096) 1
      split
      · rename_i e
        rw [e] at hr
        dsimp only at hr ⊢
        exact k.die hr _ _ (by intro _; rfl)
      · exact hr

theorem Closed.dropLeaves (k : Closed P) {p : Part} (h : P p) (base n : Nat) : P (p.dropLeaves base n) := by
  unfold Part.dropLeaves
  refine foldl_keeps _ (fun p d hp => ?_) _ h
  exact k.die hp _ _ (by intro _; rfl)

theorem Closed.writeEntries (k : Closed P) {p : Part} (h : P p) (d n : Nat) (x : Handle) (v keep : Bool) :
    P (p.writeEntries d n x v keep) := by
  unfold Part.writeEntries
  refine foldl_keeps _ (fun p a hp => ?_) _ h
  split
  · exact hp
  · exact k.writeHome hp ..

theorem Closed.notePeak (k : Closed P) {p : Part} (h : P p) (d : Nat) : P (p.notePeak d) := k.die h _ _ (by intro _; rfl)

theorem Closed.askCopy (k : Closed P) {p : Part} (h : P p) (n : Nat) : P (p.askCopy n) := by
  unfold Part.askCopy
  dsimp only
  split
  · exact k.notePeak (k.handle _ _ _ h) _
  · exact k.die h _ _ (by intro _; rfl)

theorem Closed.countWait (k : Closed P) {p : Part} (h : P p) (n since : Nat) : P (p.countWait n since) := by
  unfold Part.countWait
  dsimp only
  split
  · exact h
  · exact k.handle _ _ _ h

theorem Closed.endWaits (k : Closed P) {p : Part} (h : P p) (n st : Nat) : P (p.endWaits n st) := by
  have key {p : Part} (h : P p) (g : List Xfer → List Xfer) (o : Option Pass → Option Pass) (hg : g [] = []) (ho : o none = none) :
      P { p with dies := p.dies.map (fun x => (x.1, { x.2 with active := g x.2.active, pass := o x.2.pass })) } := by
    refine k.dies p _ (fun d => ?_) h
    rw [Tab.get_map (fun x : DieSt => { x with active := g x.active, pass := o x.pass }) (by
      show ({ DieSt.reset with active := g [], pass := o none } : DieSt) = DieSt.reset
      rw [hg, ho]; rfl)]
    rfl
  have hc : P (match p.waitSince n with | some t => p.countWait n t | none => p) := by
    split
    · exact k.countWait h ..
    · exact h
  exact k.seqWaits _ _ (key hc (List.map _) (Option.map _) rfl rfl)

theorem Closed.startOffload (k : Closed P) {p : Part} (h : P p) (n : Nat) : P (p.startOffload n).1 := by
  unfold Part.startOffload
  dsimp only
  split
  · exact h
  · dsimp only
    refine k.askCopy ?_ n
    refine k.handle _ _ _ ?_
    refine k.dropLeaves ?_ _ _
    exact k.writeEntries h _ _ _ _ _

theorem Closed.beginPrefetch (k : Closed P) {p : Part} (h : P p) (n : Nat) (l : List Nat) : P (p.beginPrefetch n l) :=
  k.askCopy (k.handle _ _ _ h) n

theorem Closed.takeHandle (k : Closed P) {p : Part} (h : P p) (d pages flags n dva : Nat) (frames : List Nat) :
    P (p.takeHandle d pages flags n dva frames) := by
  unfold Part.takeHandle Part.nextStamp
  dsimp only
  exact k.writeEntries (k.handle _ _ _ (k.die h _ _ (by intro _; rfl))) ..

theorem Closed.failPrefetch (k : Closed P) {p : Part} (h : P p) (who : Option (Nat × Nat)) (n : Nat) (st : Status) :
    P (p.failPrefetch who n st) := by
  cases who
  · exact k.endWaits h ..
  · exact k.endWaits (k.fly _ _ _ _ h) ..

theorem Closed.lateJob (k : Closed P) {p q : Part} (h : P p) (d : Nat) (j : PgJob) (e : p.lateJob d j = some q) : P q := by
  cases j with
  | alloc => cases e
  | prefetch who n pin =>
    unfold Part.lateJob at e
    dsimp only at e
    split at e
    · cases e
    · cases e
      cases who <;> cases pin <;> simp only [Bool.false_eq_true, if_false, if_true]
      · exact h
      · exact k.die h _ _ (by intro _; rfl)
      · exact k.fly _ _ _ _ h
      · exact k.die (k.fly _ _ _ _ h) _ _ (by intro _; rfl)
    · cases e
      cases who
      · exact h
      · exact k.fly _ _ _ _ h
    · cases e
      exact k.failPrefetch h ..
    · cases e
      exact k.failPrefetch h ..

theorem Closed.tryJob (k : Closed P) {p : Part} (h : P p) (d : Nat) (j : PgJob) : P (p.tryJob d j).1 := by
  unfold Part.tryJob
  split
  · rename_i q e
    exact k.lateJob h d j e
  · cases j with
    | alloc c o pages flags =>
      dsimp only
      split
      · split
        · exact k.fly _ _ _ _ (k.takeHandle h ..)
        · exact k.fly _ _ _ _ h
      · split
        · exact h
        · split
          · rename_i v hv
            have ho := k.startOffload h v
            split <;> rename_i e <;> rw [e] at ho
            · exact ho
            · exact k.fly _ _ _ _ ho
          · exact k.fly _ _ _ _ h
    | prefetch who n pin =>
      dsimp only
      split
      · have hb (l : List Nat) : P (p.beginPrefetch n l) := k.beginPrefetch h ..
        cases who <;> cases pin <;> simp only [Bool.false_eq_true, if_false, if_true]
        · exact hb _
        · exact k.die (hb _) _ _ (by intro _; rfl)
        · exact k.fly _ _ _ _ (hb _)
        · exact k.fly _ _ _ _ (k.die (hb _) _ _ (by intro _; rfl))
      · split
        · exact h
        · split
          · rename_i v hv
            have ho := k.startOffload h v
            split <;> rename_i e <;> rw [e] at ho
            · exact ho
            · exact k.failPrefetch ho ..
          · exact k.failPrefetch h ..

theorem Closed.runJobs (k : Closed P) (f : Nat) {p : Part} (h : P p) (d : Nat) : P (p.runJobs d f) := by
  induction f generalizing p with
  | zero => exact h
  | succ f ih =>
    unfold Part.runJobs
    split
    · exact h
    · rename_i j r hj
      have ht := k.tryJob h d j
      split <;> rename_i e <;> rw [e] at ht
      · exact ih (k.die ht _ _ (by intro _; rfl))
      · exact ht

theorem Closed.pagerJob (k : Closed P) {p : Part} (h : P p) (d : Nat) (j : PgJob) : P (p.pagerJob d j) := by
  unfold Part.pagerJob
  exact k.runJobs _ (k.die h _ _ (by intro _; rfl)) d

theorem Closed.touch (k : Closed P) {p : Part} (h : P p) (r : Req) (n : Nat) : P (p.touch r n).1 := by
  unfold Part.touch
  dsimp only
  split
  · exact h
  · exact h
  · exact h
  · split
    · exact h
    · split
      · exact h
      · split
        · split <;> exact k.pagerJob h ..
        · exact h

theorem Closed.translate (k : Closed P) {p : Part} (h : P p) {d : Nat} (hd : d < 4) (r : Req) (dva : Nat) : P (p.translate d r dva).1 := by
  unfold Part.translate
  split
  · exact h
  · have hw := k.walk h hd r dva
    split <;> rename_i e <;> rw [e] at hw
    · exact hw
    · exact hw
    · rename_i n
      have ht := k.touch hw r n
      split <;> rename_i e' <;> rw [e'] at ht <;> exact ht
    · dsimp only
      split <;> split <;> exact hw

theorem Closed.readParts (k : Closed P) {ls : List (Nat × Nat)} {p : Part} (h : P p) {d : Nat} (hd : d < 4) (r : Req)
    (c : Bool) :
    P (p.readParts d r c ls).1 := by
  induction ls generalizing p with
  | nil => exact h
  | cons x rest ih =>
    obtain ⟨a, n⟩ := x
    have ht := k.translate h hd r a
    unfold Part.readParts
    split <;> rename_i e <;> rw [e] at ht
    · exact ht
    · exact ht
    · rename_i pa
      split
      · exact ht
      · have hl := k.readLine ht hd pa n (if r = .updRd ∨ r = .updWr then .direct else if c then .remote else .home)
        split <;> rename_i e' <;> rw [e'] at hl
        · exact hl
        · exact hl
        · have hi := ih hl
          split <;> rename_i e''
          · rw [e''] at hi; exact hi
          · exact hi

theorem Closed.readDva (k : Closed P) {p : Part} (h : P p) {d : Nat} (hd : d < 4) (r : Req) (dva n : Nat) :
    P (p.readDva d r dva n).1 := k.readParts h hd ..

theorem Closed.writeParts (k : Closed P) {ls : List (Nat × Nat)} {p : Part} (h : P p) {d : Nat} (hd : d < 4) (r : Req)
    (data : List Byte) : P (p.writeParts d r ls data).1 := by
  induction ls generalizing p data with
  | nil => exact h
  | cons x rest ih =>
    obtain ⟨a, n⟩ := x
    have ht := k.translate h hd r a
    unfold Part.writeParts
    split <;> rename_i e <;> rw [e] at ht
    · exact ht
    · exact ht
    · rename_i pa
      split
      · exact ht
      · have hl := k.writeLine ht d pa (data.take n) (r == .updWr)
        split
        · rename_i e'; rw [e'] at hl; exact ih hl _
        · exact hl

theorem Closed.writeDva (k : Closed P) {p : Part} (h : P p) {d : Nat} (hd : d < 4) (r : Req) (dva : Nat) (data : List Byte) :
    P (p.writeDva d r dva data).1 := k.writeParts h hd ..

/-- Forming a trace record keeps every such property. -/
theorem Closed.trace (k : Closed P) {p : Part} (h : P p) {d : Nat} (hd : d < 4) (cls ev unit : Nat) (payload : List Byte) :
    P (p.trace d cls ev unit payload) := by
  have drop {q : Part} (hq : P q) : P (q.traceDrop d) := k.count (k.put q _ _ _ hd hq) hd (by decide) _
  unfold Part.trace
  split
  · exact h
  · split
    · exact h
    · dsimp only
      generalize (if (p.die d).traceWin = p.time.raw / 1000 then (p.die d).traceCount else 0) = n
      generalize e : p.setDie d _ = q
      have hq : P q := e ▸ k.setDie h d _ rfl
      generalize leBytes 8 _ ++ _ ++ _ ++ _ ++ _ = l
      split
      · exact drop hq
      · split
        · exact drop hq
        · generalize Part.get _ Fld.TRACE_BASE.BASE d * 4096 + _ = a
          have hw := k.writeDva hq hd .traceWr a l
          split <;> rename_i e
          · rw [e] at hw
            dsimp only at hw ⊢
            split
            · exact k.put _ _ _ _ hd (k.put _ _ _ _ hd hw)
            · exact k.put _ _ _ _ hd hw
          · rw [e] at hw
            exact k.event (drop (k.put _ _ _ _ hd (k.put _ _ _ _ hd hw))) ..
          · rw [e] at hw
            exact drop hw

/-! ### The canonical form -/

/-- Only the two byte tables matter. -/
theorem Memory.wf_congr {p q : Part} (m : q.mem = p.mem) (n : q.host = p.host) : Memory.wf q = Memory.wf p := by
  simp [Memory.wf, m, n]

theorem Memory.wf_setByte {p : Part} (h : Memory.wf p) (pa : Nat) (b : Byte) : Memory.wf (p.setByte pa b) := by
  simp only [Memory.wf, Bool.and_eq_true] at h ⊢
  unfold Part.setByte
  split
  · exact ⟨h.1, Tab.wf_set _ _ h.2⟩
  · exact ⟨Tab.wf_set _ _ h.1, h.2⟩
  · exact ⟨Tab.wf_set _ _ h.1, h.2⟩
  all_goals exact h

theorem Memory.wf_reset : Memory.wf State.reset.part = true := rfl

/-- Every access to memory keeps the canonical form. -/
theorem Memory.wf_closed : Closed (fun p => Memory.wf p = true) where
  put _ _ _ _ _ h := h
  byte _ pa b h := Memory.wf_setByte h pa b
  host _ _ _ h := by
    simp only [Memory.wf, Bool.and_eq_true] at h ⊢
    exact ⟨h.1, Tab.wf_set _ _ h.2⟩
  upsets _ _ h := h
  lines _ _ h := h
  seqWaits _ _ h := h
  draw _ _ h := h
  dies _ _ _ h := h
  handle _ _ _ h := h
  bank _ _ _ h := h
  fly _ _ _ _ h := h
  evSeq _ _ h := h
  msix _ _ h := h

theorem Memory.wf_zeroRange {p : Part} (h : Memory.wf p) (pa n : Nat) : Memory.wf (p.zeroRange pa n) := by
  simp only [Memory.wf, Bool.and_eq_true] at h ⊢
  unfold Part.zeroRange
  split
  · exact ⟨h.1, Tab.wf_delRange _ _ h.2⟩
  · exact ⟨Tab.wf_delRange _ _ h.1, h.2⟩

theorem Memory.wf_putCells {p : Part} (h : Memory.wf p) (pa n : Nat) (cells : List (Nat × Byte)) :
    Memory.wf (p.putCells pa n cells) :=
  foldl_keeps (P := fun p => Memory.wf p = true) _ (fun _ _ hp => Memory.wf_setByte hp _ _) _ (Memory.wf_zeroRange h pa n)

theorem Memory.wf_copyRange {p : Part} (h : Memory.wf p) (src dst n : Nat) : Memory.wf (p.copyRange src dst n) :=
  Memory.wf_putCells h ..

/-- The registers of `memReg`, one by one. -/
theorem memReg_cases {q : Reg} {j : Nat} (h : j < memReg q) :
    ((q = .MEM_ERR_STATUS ∨ q = .UE_LOG ∨ q = .TRACE_HEAD ∨ q = .TRACE_STATUS) ∧ j < 4) ∨ (q = .COUNTER ∧ j < 52) ∨
      ((q = .EVQ_HEAD ∨ q = .EVQ_STATUS) ∧ j < 2) := by
  unfold memReg at h
  split at h <;> simp_all

/-- A register that no access to memory names keeps its value through all of them. -/
theorem rd_closed (r : Reg) (i : Nat) (w : Word)
    (h : ∀ q j, j < memReg q → r.off i ≠ q.off j) : Closed (fun p => p.rd r i = w) where
  put p f j v hj hp := (Part.rd_put_other p f v (h f.reg j hj)).trans hp
  byte p pa b hp := by
    have : (p.setByte pa b).rd r i = p.rd r i := by unfold Part.setByte; split <;> rfl
    exact this.trans hp
  host _ _ _ h := h
  upsets _ _ h := h
  lines _ _ h := h
  seqWaits _ _ h := h
  draw _ _ h := h
  dies _ _ _ h := h
  handle _ _ _ h := h
  bank _ _ _ h := h
  fly _ _ _ _ h := h
  evSeq _ _ h := h
  msix _ _ h := h

/-- Whatever a core holds but its instructions in flight stays through all accesses to memory. -/
theorem core_closed {α : Type} (e : Nat) (g : CoreSt → α) (x : α) (hg : ∀ y f, g { y with fly := f } = g y) :
    Closed (fun p => g (p.core e) = x) where
  put _ _ _ _ _ h := h
  byte p pa b h := by
    have : (p.setByte pa b).core e = p.core e := by unfold Part.setByte; split <;> rfl
    rw [this]; exact h
  host _ _ _ h := h
  upsets _ _ h := h
  lines _ _ h := h
  seqWaits _ _ h := h
  draw _ _ h := h
  dies _ _ _ h := h
  handle _ _ _ h := h
  bank _ _ _ h := h
  fly p c o st h := by
    unfold Part.setPg
    by_cases he : e = c
    · subst he
      rw [Part.core_modCore]
      exact (hg _ _).trans h
    · rw [Part.core_modCore_other _ _ he]
      exact h
  evSeq _ _ h := h
  msix _ _ h := h

/-- Whatever a die holds but what `DieSt.Near` names stays through all accesses to memory. -/
theorem die_closed {α : Type} (e : Nat) (g : DieSt → α) (x : α) (hg : ∀ y z : DieSt, y.Near z → g z = g y) :
    Closed (fun p => g (p.die e) = x) where
  put _ _ _ _ _ h := h
  byte p pa b h := by
    have : (p.setByte pa b).die e = p.die e := by unfold Part.setByte; split <;> rfl
    rw [this]; exact h
  host _ _ _ h := h
  upsets _ _ h := h
  lines _ _ h := h
  seqWaits _ _ h := h
  draw _ _ h := h
  dies _ _ hn h := (hg _ _ (hn e)).trans h
  handle _ _ _ h := h
  bank _ _ _ h := h
  fly _ _ _ _ h := h
  evSeq _ _ h := h
  msix _ _ h := h

/-- The slots stay through all accesses to memory. -/
theorem slots_closed (x : Tab Slot) : Closed (fun p => p.slots = x) where
  put _ _ _ _ _ h := h
  byte p pa b h := by
    have : (p.setByte pa b).slots = p.slots := by unfold Part.setByte; split <;> rfl
    exact this.trans h
  host _ _ _ h := h
  upsets _ _ h := h
  lines _ _ h := h
  seqWaits _ _ h := h
  draw _ _ h := h
  dies _ _ _ h := h
  handle _ _ _ h := h
  bank _ _ _ h := h
  fly _ _ _ _ h := h
  evSeq _ _ h := h
  msix _ _ h := h

end Sys2Proof.Machine
end

