-- ==== Sys2Proof/Laws/Fault.lean ====
section
/-! SUPPORT. What taking an instruction fault does (R245 to R248). -/

namespace Sys2Proof.Machine

/-- The word of SEQ_FAULT shows that it holds a fault, and its status. -/
theorem seqFaultWord_valid (u : Option EUnit) (pt : Point) (w : Word) (st : Status) (ill b : Bool) :
    Fld.SEQ_FAULT.VALID.of (seqFaultWord u pt w st ill b) = 1 ∧
      Fld.SEQ_FAULT.STATUS.of (seqFaultWord u pt w st ill b) = st.code := by
  have h1 : opOf w < 256 := by unfold opOf bits; exact Nat.mod_lt _ (by norm_num)
  have h2 : unitCode u ≤ 4 := by
    cases u with
    | none => decide
    | some u => cases u <;> decide
  have h3 : pt.code ≤ 2 := by cases pt <;> decide
  have h4 : st.code < 32 := by cases st <;> decide
  have h5 : bnat ill ≤ 1 := by cases ill <;> decide
  have h6 : bnat b ≤ 1 := by cases b <;> decide
  unfold seqFaultWord
  simp only [Fld.of, Fld.width, Fld.SEQ_FAULT.VALID, Fld.SEQ_FAULT.STATUS, BitVec.toNat_ofNat]
  omega

/-- A register of one element per core is none of those that an access to memory changes. -/
theorem seqFault_apart (c : Nat) (r : Reg) (hr : r = .SEQ_FAULT ∨ r = .SEQ_FAULT_PC) :
    ∀ q j, j < memReg q → r.off c ≠ q.off j := by
  intro q j h
  rcases memReg_cases h with ⟨rfl | rfl | rfl | rfl, hj⟩ | ⟨rfl, hj⟩ | ⟨rfl | rfl, hj⟩ <;> rcases hr with rfl | rfl <;>
    simp only [Reg.off, Reg.info, dimsOff, dimsCount] <;> omega

/-- The first fault is kept. -/
theorem Part.recordFault_first (q : Part) (c pc : Nat) (u : Option EUnit) (pt : Point) (w : Word) (st : Status)
    (ill b : Bool) :
    (q.recordFault c (seqFaultWord u pt w st ill b) pc).get Fld.SEQ_FAULT.VALID c = 1 ∧
      (q.get Fld.SEQ_FAULT.VALID c = 0 →
        (q.recordFault c (seqFaultWord u pt w st ill b) pc).get Fld.SEQ_FAULT.STATUS c = st.code ∧
        (q.recordFault c (seqFaultWord u pt w st ill b) pc).rd .SEQ_FAULT_PC c = BitVec.ofNat 64 pc) := by
  have hv := seqFaultWord_valid u pt w st ill b
  generalize seqFaultWord u pt w st ill b = x at hv ⊢
  unfold Part.recordFault
  split
  · rename_i h
    exact ⟨h, fun h0 => by rw [h] at h0; cases h0⟩
  · have ho : Reg.off .SEQ_FAULT c ≠ Reg.off .SEQ_FAULT_PC c := by
      simp only [Reg.off, Reg.info, dimsOff, dimsCount]; omega
    have hr : ((q.wr .SEQ_FAULT c x).wr .SEQ_FAULT_PC c (BitVec.ofNat 64 pc)).rd .SEQ_FAULT c = x := by
      rw [Part.rd_wr_other _ _ ho, Part.rd_wr]
    refine ⟨?_, fun _ => ⟨?_, Part.rd_wr ..⟩⟩
    · exact (congrArg Fld.SEQ_FAULT.VALID.of hr).trans hv.1
    · exact (congrArg Fld.SEQ_FAULT.STATUS.of hr).trans hv.2

@[simp] theorem Part.recordFault_cores (q : Part) (c pc : Nat) (x : Word) : (q.recordFault c x pc).cores = q.cores := by
  unfold Part.recordFault
  split <;> rfl

/-- Accesses to memory keep what a fault left. -/
theorem TookFault.closed (q : Part) {c : Nat} (n pc : Nat) (st : Status) : Closed (fun t => TookFault q t c n pc st) := by
  have hs := seqFault_apart c .SEQ_FAULT (.inl rfl)
  have hp := seqFault_apart c .SEQ_FAULT_PC (.inr rfl)
  have key {t t' : Part} (h : TookFault q t c n pc st) (hc : ∀ e, ∃ f, t'.core e = { t.core e with fly := f }) (hsl : t'.slots = t.slots)
      (hrs : t'.rd .SEQ_FAULT c = t.rd .SEQ_FAULT c) (hrp : t'.rd .SEQ_FAULT_PC c = t.rd .SEQ_FAULT_PC c) :
      TookFault q t' c n pc st := by
    have hslot : t'.slot (clusterOf c) n = t.slot (clusterOf c) n := by unfold Part.slot; rw [hsl]
    obtain ⟨f, hf⟩ := hc c
    constructor
    · rw [hf]; exact h.phase
    · rw [hf]; exact h.queues
    · rw [hf]; exact h.registers
    · rw [hslot]; exact h.slot
    · exact (congrArg Fld.SEQ_FAULT.VALID.of hrs).trans h.shown
    · intro h0
      exact ⟨(congrArg Fld.SEQ_FAULT.STATUS.of hrs).trans (h.first h0).1, hrp.trans (h.first h0).2⟩
    · intro e he
      obtain ⟨f, hf⟩ := hc e
      rw [hf]
      exact h.others e he
  have same {t t' : Part} (h : t'.cores = t.cores) : ∀ e, ∃ f, t'.core e = { t.core e with fly := f } := fun e =>
    ⟨(t.core e).fly, by unfold Part.core; rw [h]⟩
  constructor
  · intro p f i v hi h
    refine key h (same rfl) rfl ?_ ?_
    · exact Part.rd_put_other p f v (hs f.reg i hi)
    · exact Part.rd_put_other p f v (hp f.reg i hi)
  · intro p pa b h
    have hb : (p.setByte pa b).cores = p.cores ∧ (p.setByte pa b).slots = p.slots ∧ (p.setByte pa b).regs = p.regs := by
      unfold Part.setByte; split <;> exact ⟨rfl, rfl, rfl⟩
    refine key h (fun e => ⟨(p.core e).fly, ?_⟩) hb.2.1 ?_ ?_
    · unfold Part.core; rw [hb.1]
    · unfold Part.rd; rw [hb.2.2]
    · unfold Part.rd; rw [hb.2.2]
  · exact fun _ _ _ h => key h (same rfl) rfl rfl rfl
  · exact fun _ _ h => key h (same rfl) rfl rfl rfl
  · exact fun _ _ h => key h (same rfl) rfl rfl rfl
  · exact fun _ _ h => key h (same rfl) rfl rfl rfl
  · exact fun _ _ h => key h (same rfl) rfl rfl rfl
  · exact fun _ _ _ h => key h (same rfl) rfl rfl rfl
  · exact fun _ _ _ h => key h (same rfl) rfl rfl rfl
  · exact fun _ _ _ h => key h (same rfl) rfl rfl rfl
  · intro p c' o s h
    refine key h (fun e => ?_) rfl rfl rfl
    unfold Part.setPg
    by_cases he : e = c'
    · subst he
      rw [Part.core_modCore]
      exact ⟨_, rfl⟩
    · rw [Part.core_modCore_other _ _ he]
      exact ⟨_, rfl⟩
  · exact fun _ _ h => key h (same rfl) rfl rfl rfl
  · exact fun _ _ h => key h (same rfl) rfl rfl rfl

/-! ### The end of a wait -/

/-- A wait that ends changes what its handle counts and the sequencer's own wait, nothing else. -/
theorem Part.leaveWait_eq (p : Part) (c : Nat) : ∃ (x : Tab Handle) (w : Tab SeqWait), p.leaveWait c = { p with handles := x, seqWaits := w } := by
  unfold Part.leaveWait Part.countWait
  dsimp only
  split
  · split <;> exact ⟨_, _, rfl⟩
  · exact ⟨_, _, rfl⟩

@[simp] theorem Part.core_leaveWait (p : Part) (c e : Nat) : (p.leaveWait c).core e = p.core e := by
  obtain ⟨x, w, h⟩ := p.leaveWait_eq c
  rw [h]
  rfl

@[simp] theorem Part.get_leaveWait (p : Part) (c : Nat) (f : Fld) (i : Nat) : (p.leaveWait c).get f i = p.get f i := by
  obtain ⟨x, w, h⟩ := p.leaveWait_eq c
  rw [h]
  rfl

@[simp] theorem Part.rd_leaveWait (p : Part) (c : Nat) (r : Reg) (i : Nat) : (p.leaveWait c).rd r i = p.rd r i := by
  obtain ⟨x, w, h⟩ := p.leaveWait_eq c
  rw [h]
  rfl

/-- Taking a fault. -/
theorem Part.fault_took {q : Part} {c n : Nat} (hc : c < 256) (hp : (q.core c).phase = .running n) (u : Option EUnit)
    (pt : Point) (w : Word) (pc : Nat) (ill : Bool) (r : FaultRec) :
    TookFault q (q.fault c u pt w pc ill r) c n pc (Status.ofCode r.status) := by
  have hf := Part.recordFault_first q c pc u pt w (Status.ofCode r.status) ill (q.core c).span.isSome
  have hco := Part.recordFault_cores q c pc (seqFaultWord u pt w (Status.ofCode r.status) ill (q.core c).span.isSome)
  unfold Part.fault
  dsimp only
  rw [hp]
  dsimp only
  generalize Part.recordFault q c (seqFaultWord u pt w (Status.ofCode r.status) ill (q.core c).span.isSome) pc = p at *
  have k := TookFault.closed q (c := c) n pc (Status.ofCode r.status)
  refine k.trace (k.event ?_ ..) (by unfold dieOf; omega) ..
  constructor
  · simp
  · simp
  · simp
  · simp
  · simpa using hf.1
  · simpa using hf.2
  · intro e he
    rw [Part.core_setSlot, Part.core_setCore_other _ _ he, Part.core_leaveWait]
    unfold Part.core
    rw [hco]

end Sys2Proof.Machine
end

