-- ==== Sys2Proof/Laws/PerInstr.lean ====
section
/-! SUPPORT. Laws for every command by itself, one lemma per constructor. OperandBounds: what the operands of a well-formed
command keep to, spelled out. -/

set_option Elab.async false

namespace Sys2Proof.Laws.OperandBounds

/-- The bounds of a command's operands beyond those of their types. -/
def bounds : Instr → Prop
  | .instructionComplete _ _ _ err ferr => (∀ x ∈ err, x.1 < 16384) ∧ ∀ x ∈ ferr, x.1 < 16384
  | .scrubPass _ flips => ∀ f ∈ flips, f.word < 0xFE0_2000_0000
  | .routerFrame _ ins bad => (∀ x ∈ ins, x.1 < 6 ∧ x.2.length = 576) ∧ ∀ q ∈ bad, q < 6
  | .bundleRetireLive _ i => ∀ f ∈ i.2, f.wf = true
  | .bar2Read _ off n => 1 ≤ n ∧ off + n ≤ 0x40_0000_0000
  | .bar2Write _ off data => 1 ≤ data.length ∧ off + data.length ≤ 0x40_0000_0000
  | .mgmt _ _ x => x.start.tries.length = 20
  | .registerWrite _ off n _ x => 1 ≤ n ∧ off + n ≤ 0x800_0000 ∧ x.start.tries.length = 20
  | .registerReadClear _ off n => 1 ≤ n ∧ off + n ≤ 0x800_0000
  | .resetNRelease x => x.tries.length = 20
  | .startStepTimeout x => x.tries.length = 20
  | .warmStart _ x => x.tries.length = 20
  | .retry _ x => x.tries.length = 20
  | .challenge _ _ nonce => nonce.length = 32
  | .getMeasurements _ _ nonce => ∀ n, nonce = some n → n.length = 32
  | .activateFirmware x => x.tries.length = 20
  | .thermalSample temps => temps.length = 48
  | _ => True

/-- A well-formed command keeps the bounds of its operands. -/
def Statement (i : Instr) : Prop := Instr.wf i = true → bounds i

theorem nop (c : Fin 256) : Statement (.nop c) := fun _ => trivial
theorem add (c : Fin 256) : Statement (.add c) := fun _ => trivial
theorem sub (c : Fin 256) : Statement (.sub c) := fun _ => trivial
theorem and (c : Fin 256) : Statement (.and c) := fun _ => trivial
theorem or (c : Fin 256) : Statement (.or c) := fun _ => trivial
theorem xor (c : Fin 256) : Statement (.xor c) := fun _ => trivial
theorem shl (c : Fin 256) : Statement (.shl c) := fun _ => trivial
theorem shr (c : Fin 256) : Statement (.shr c) := fun _ => trivial
theorem sra (c : Fin 256) : Statement (.sra c) := fun _ => trivial
theorem mul (c : Fin 256) : Statement (.mul c) := fun _ => trivial
theorem slt (c : Fin 256) : Statement (.slt c) := fun _ => trivial
theorem sltu (c : Fin 256) : Statement (.sltu c) := fun _ => trivial
theorem addi (c : Fin 256) : Statement (.addi c) := fun _ => trivial
theorem ori (c : Fin 256) : Statement (.ori c) := fun _ => trivial
theorem lih (c : Fin 256) : Statement (.lih c) := fun _ => trivial
theorem ld (c : Fin 256) : Statement (.ld c) := fun _ => trivial
theorem st (c : Fin 256) : Statement (.st c) := fun _ => trivial
theorem beq (c : Fin 256) : Statement (.beq c) := fun _ => trivial
theorem bne (c : Fin 256) : Statement (.bne c) := fun _ => trivial
theorem blt (c : Fin 256) : Statement (.blt c) := fun _ => trivial
theorem bge (c : Fin 256) : Statement (.bge c) := fun _ => trivial
theorem jal (c : Fin 256) : Statement (.jal c) := fun _ => trivial
theorem jr (c : Fin 256) : Statement (.jr c) := fun _ => trivial
theorem tdLd (c : Fin 256) : Statement (.tdLd c) := fun _ => trivial
theorem tdSt (c : Fin 256) : Statement (.tdSt c) := fun _ => trivial
theorem tdAdv (c : Fin 256) : Statement (.tdAdv c) := fun _ => trivial
theorem crRd (c : Fin 256) : Statement (.crRd c) := fun _ => trivial
theorem crWr (c : Fin 256) : Statement (.crWr c) := fun _ => trivial
theorem brk (c : Fin 256) : Statement (.brk c) := fun _ => trivial
theorem mtxMac (c : Fin 256) : Statement (.mtxMac c) := fun _ => trivial
theorem mtxL1 (c : Fin 256) : Statement (.mtxL1 c) := fun _ => trivial
theorem mtxL2s (c : Fin 256) : Statement (.mtxL2s c) := fun _ => trivial
theorem mtxMinp (c : Fin 256) : Statement (.mtxMinp c) := fun _ => trivial
theorem mtxMaxp (c : Fin 256) : Statement (.mtxMaxp c) := fun _ => trivial
theorem mtxEqc (c : Fin 256) : Statement (.mtxEqc c) := fun _ => trivial
theorem mtxGtc (c : Fin 256) : Statement (.mtxGtc c) := fun _ => trivial
theorem accClr (c : Fin 256) : Statement (.accClr c) := fun _ => trivial
theorem accLd (c : Fin 256) : Statement (.accLd c) := fun _ => trivial
theorem accDrain (c : Fin 256) : Statement (.accDrain c) := fun _ => trivial
theorem relaySend (c : Fin 256) : Statement (.relaySend c) := fun _ => trivial
theorem relayRecv (c : Fin 256) : Statement (.relayRecv c) := fun _ => trivial
theorem vAdd (c : Fin 256) : Statement (.vAdd c) := fun _ => trivial
theorem vSub (c : Fin 256) : Statement (.vSub c) := fun _ => trivial
theorem vMul (c : Fin 256) : Statement (.vMul c) := fun _ => trivial
theorem vFma (c : Fin 256) : Statement (.vFma c) := fun _ => trivial
theorem vAbs (c : Fin 256) : Statement (.vAbs c) := fun _ => trivial
theorem vNeg (c : Fin 256) : Statement (.vNeg c) := fun _ => trivial
theorem vMin (c : Fin 256) : Statement (.vMin c) := fun _ => trivial
theorem vMax (c : Fin 256) : Statement (.vMax c) := fun _ => trivial
theorem vCmp (c : Fin 256) : Statement (.vCmp c) := fun _ => trivial
theorem vSel (c : Fin 256) : Statement (.vSel c) := fun _ => trivial
theorem vCvt (c : Fin 256) : Statement (.vCvt c) := fun _ => trivial
theorem vRsum (c : Fin 256) : Statement (.vRsum c) := fun _ => trivial
theorem vRmax (c : Fin 256) : Statement (.vRmax c) := fun _ => trivial
theorem vRmin (c : Fin 256) : Statement (.vRmin c) := fun _ => trivial
theorem vAmax (c : Fin 256) : Statement (.vAmax c) := fun _ => trivial
theorem vExp2 (c : Fin 256) : Statement (.vExp2 c) := fun _ => trivial
theorem vLog2 (c : Fin 256) : Statement (.vLog2 c) := fun _ => trivial
theorem vRcp (c : Fin 256) : Statement (.vRcp c) := fun _ => trivial
theorem vRsqrt (c : Fin 256) : Statement (.vRsqrt c) := fun _ => trivial
theorem vSin (c : Fin 256) : Statement (.vSin c) := fun _ => trivial
theorem vCos (c : Fin 256) : Statement (.vCos c) := fun _ => trivial
theorem movD (c : Fin 256) : Statement (.movD c) := fun _ => trivial
theorem movFadd (c : Fin 256) : Statement (.movFadd c) := fun _ => trivial
theorem movIadd (c : Fin 256) : Statement (.movIadd c) := fun _ => trivial
theorem pgAlloc (c : Fin 256) : Statement (.pgAlloc c) := fun _ => trivial
theorem pgFree (c : Fin 256) : Statement (.pgFree c) := fun _ => trivial
theorem pgOffload (c : Fin 256) : Statement (.pgOffload c) := fun _ => trivial
theorem pgPrefetch (c : Fin 256) : Statement (.pgPrefetch c) := fun _ => trivial
theorem pgPin (c : Fin 256) : Statement (.pgPin c) := fun _ => trivial
theorem wait (c : Fin 256) : Statement (.wait c) := fun _ => trivial
theorem sig (c : Fin 256) : Statement (.sig c) := fun _ => trivial
theorem fenceAcq (c : Fin 256) : Statement (.fenceAcq c) := fun _ => trivial
theorem fenceRel (c : Fin 256) : Statement (.fenceRel c) := fun _ => trivial
theorem spanBegin (c : Fin 256) : Statement (.spanBegin c) := fun _ => trivial
theorem spanCommit (c : Fin 256) : Statement (.spanCommit c) := fun _ => trivial
theorem taskEnd (c : Fin 256) : Statement (.taskEnd c) := fun _ => trivial
theorem warm (c : Fin 256) : Statement (.warm c) := fun _ => trivial
theorem launchAt (c : Fin 256) : Statement (.launchAt c) := fun _ => trivial
theorem queueIssue (c : Fin 256) (u : EUnit) : Statement (.queueIssue c u) := fun _ => trivial
theorem instructionComplete (c : Fin 256) (u : EUnit) (i : Nat) (err ferr : List (Nat × BitVec 32)) : Statement (.instructionComplete c u i err ferr) := by
  intro h; simp [Instr.wf, elementFlipsOk] at h; exact ⟨fun x hx => h.1.2 x.1 x.2 hx, fun x hx => h.2.2 x.1 x.2 hx⟩
theorem relayWaitTimeout (c : Fin 256) (e : Fin 2) (i : Nat) : Statement (.relayWaitTimeout c e i) := fun _ => trivial
theorem bankWindowAccess (a : Accessor) : Statement (.bankWindowAccess a) := fun _ => trivial
theorem keeperWindowExpiry (e : Fin 512) : Statement (.keeperWindowExpiry e) := fun _ => trivial
theorem keeperLaneFall (e : Fin 512) : Statement (.keeperLaneFall e) := fun _ => trivial
theorem keeperLaneRise (e : Fin 512) : Statement (.keeperLaneRise e) := fun _ => trivial
theorem governorHoldRelease (d : Fin 4) : Statement (.governorHoldRelease d) := fun _ => trivial
theorem lsaRelease (d : Fin 4) : Statement (.lsaRelease d) := fun _ => trivial
theorem engineParityFault (e : Fin 512 × EngineFault) : Statement (.engineParityFault e) := fun _ => trivial
theorem veParityFault (c : Fin 256 × Nat) : Statement (.veParityFault c) := fun _ => trivial
theorem postWindowWrite (port : Fin 2) (k : Fin 32) (w : Fin 8) (v : BarData) :
    Statement (.postWindowWrite port k w v) := fun _ => trivial
theorem watchReport (c : Fin 256) (i : Nat) : Statement (.watchReport c i) := fun _ => trivial
theorem taskPull (c : Fin 256) : Statement (.taskPull c) := fun _ => trivial
theorem taskStart (c : Fin 256) : Statement (.taskStart c) := fun _ => trivial
theorem slotRelease (port : Fin 2) (k : Fin 32) (slot : Fin 256) : Statement (.slotRelease port k slot) := fun _ => trivial
theorem tokenPoke (port : Fin 2) (c : Fin 256) (v : BarData) : Statement (.tokenPoke port c v) := fun _ => trivial
theorem gaitCtrlWrite (port : Fin 2) (k : Fin 32) (v : BarData) : Statement (.gaitCtrlWrite port k v) := fun _ => trivial
theorem xlateInvalGo (port : Fin 2) (d : Fin 4) (v : BitVec 64) : Statement (.xlateInvalGo port d v) := fun _ => trivial
theorem xlateInvalComplete (d : Fin 4) : Statement (.xlateInvalComplete d) := fun _ => trivial
theorem remoteModeWrite (port : Fin 2) (d : Fin 4) (mode : Fin 4) : Statement (.remoteModeWrite port d mode) := fun _ => trivial
theorem remoteModeChangeComplete (d : Fin 4) : Statement (.remoteModeChangeComplete d) := fun _ => trivial
theorem scrubPass (d : Fin 4) (flips : List Flip) : Statement (.scrubPass d flips) := by
  intro h; simp [Instr.wf] at h; simp_all [bounds]
theorem pagerOffloadComplete (h : Fin 65536) : Statement (.pagerOffloadComplete h) := fun _ => trivial
theorem pagerPrefetchComplete (h : Fin 65536) : Statement (.pagerPrefetchComplete h) := fun _ => trivial
theorem demandLimitExpiry (a : Accessor) : Statement (.demandLimitExpiry a) := fun _ => trivial
theorem moverAdmit (d : Fin 4) : Statement (.moverAdmit d) := fun _ => trivial
theorem moverTransferComplete (d : Fin 4) (id : Nat) : Statement (.moverTransferComplete d id) := fun _ => trivial
theorem updatePassStart (d : Fin 4) : Statement (.updatePassStart d) := fun _ => trivial
theorem updateRoundWrite (d : Fin 4) (parity : Bool) : Statement (.updateRoundWrite d parity) := fun _ => trivial
theorem updatePassComplete (d : Fin 4) : Statement (.updatePassComplete d) := fun _ => trivial
theorem routerFrame (d : Fin 4) (ins : List (Nat × List Byte)) (bad : List Nat) : Statement (.routerFrame d ins bad) := by
  intro h; simp [Instr.wf, framesOk] at h; exact ⟨fun x hx => h.1.2 x.1 x.2 hx, h.2⟩
theorem bounceHoldExpiry (d : Fin 4) (i : Nat) : Statement (.bounceHoldExpiry d i) := fun _ => trivial
theorem writePacket (d : Fin 4) : Statement (.writePacket d) := fun _ => trivial
theorem relayPacket (d : Fin 4) : Statement (.relayPacket d) := fun _ => trivial
theorem sigPacket (d : Fin 4) : Statement (.sigPacket d) := fun _ => trivial
theorem postPacket (d : Fin 4) (id : Nat) : Statement (.postPacket d id) := fun _ => trivial
theorem ack (d : Fin 4) : Statement (.ack d) := fun _ => trivial
theorem nack (d : Fin 4) : Statement (.nack d) := fun _ => trivial
theorem releasePacket (d : Fin 4) : Statement (.releasePacket d) := fun _ => trivial
theorem probe (q : Fin 24) (node : BitVec 16) (far : Fin 24) (crcOk fecOk : Bool) :
    Statement (.probe q node far crcOk fecOk) := fun _ => trivial
theorem timesync (m : TimeMsg) : Statement (.timesync m) := fun _ => trivial
theorem ackDelayExpiry (i : Nat) : Statement (.ackDelayExpiry i) := fun _ => trivial
theorem gapWaitExpiry (i j : Nat) : Statement (.gapWaitExpiry i j) := fun _ => trivial
theorem resendTimeout (d : Fin 4) (i : Nat) : Statement (.resendTimeout d i) := fun _ => trivial
theorem releaseWaitExpiry (d : Fin 4) (i : Nat) : Statement (.releaseWaitExpiry d i) := fun _ => trivial
theorem recordHoldExpiry (d : Fin 4) (i : Nat) : Statement (.recordHoldExpiry d i) := fun _ => trivial
theorem portEnable (port : Fin 2) (q : Fin 24) (mode : Fin 4) : Statement (.portEnable port q mode) := fun _ => trivial
theorem portDisable (port : Fin 2) (q : Fin 24) (mode : Fin 4) : Statement (.portDisable port q mode) := fun _ => trivial
theorem portTrainingComplete (q : Fin 24) (lanes : BitVec 4) (delay : BitVec 8) :
    Statement (.portTrainingComplete q lanes delay) := fun _ => trivial
theorem portTestComplete (q : Fin 24) : Statement (.portTestComplete q) := fun _ => trivial
theorem portDown (q : Fin 24) : Statement (.portDown q) := fun _ => trivial
theorem bankConfirm (port : Fin 2) (d : Fin 4) (b : Fin 2) (v : BitVec 64) :
    Statement (.bankConfirm port d b v) := fun _ => trivial
theorem epochFlipAtWrite (port : Fin 2) (m : BitVec 64) : Statement (.epochFlipAtWrite port m) := fun _ => trivial
theorem epochFlip : Statement .epochFlip := fun _ => trivial
theorem epochBankReopen : Statement .epochBankReopen := fun _ => trivial
theorem bundleRetireLive (d : Fin 4) (i : Fin 2176 × List BundleFrame) : Statement (.bundleRetireLive d i) := by
  intro h; simp [Instr.wf] at h; simp_all [bounds]
theorem retirementNoticeAck (d : Fin 4) (i : Fin 2176) (flashOk : Bool) :
    Statement (.retirementNoticeAck d i flashOk) := fun _ => trivial
theorem meridianDieCompare (behind d1 d2 d3 : Bool) : Statement (.meridianDieCompare behind d1 d2 d3) := fun _ => trivial
theorem pllLocked : Statement .pllLocked := fun _ => trivial
theorem holdoverEntry : Statement .holdoverEntry := fun _ => trivial
theorem surveyGo (port : Fin 2) (v : BitVec 64) : Statement (.surveyGo port v) := fun _ => trivial
theorem timesyncRetry : Statement .timesyncRetry := fun _ => trivial
theorem surveyTimeout : Statement .surveyTimeout := fun _ => trivial
theorem jobOffsetWrite (port : Fin 2) (v : BitVec 64) : Statement (.jobOffsetWrite port v) := fun _ => trivial
theorem slewEnd : Statement .slewEnd := fun _ => trivial
theorem digestRecordReceive (d : Fin 4) : Statement (.digestRecordReceive d) := fun _ => trivial
theorem tandemWaitExpiry (i : Nat) : Statement (.tandemWaitExpiry i) := fun _ => trivial
theorem mismatchNotice (d : Fin 4) : Statement (.mismatchNotice d) := fun _ => trivial
theorem tandemRelease (port : Fin 2) (v : BitVec 64) : Statement (.tandemRelease port v) := fun _ => trivial
theorem pairEnable (port : Fin 2) (d i : Fin 4) (v : BitVec 64) : Statement (.pairEnable port d i v) := fun _ => trivial
theorem replayDecision (c : Fin 256) : Statement (.replayDecision c) := fun _ => trivial
theorem coreExchange (c : Fin 256) : Statement (.coreExchange c) := fun _ => trivial
theorem helperWaitExpiry (c : Fin 256) : Statement (.helperWaitExpiry c) := fun _ => trivial
theorem decisionDrainCompare (c : Fin 256) : Statement (.decisionDrainCompare c) := fun _ => trivial
theorem pairMismatchDecision (c : Fin 256) : Statement (.pairMismatchDecision c) := fun _ => trivial
theorem farrierTestDue (c : Fin 256) : Statement (.farrierTestDue c) := fun _ => trivial
theorem farrierTestStart (d : Fin 4) : Statement (.farrierTestStart d) := fun _ => trivial
theorem farrierTestEnd (d : Fin 4) (fails : BitVec 5) : Statement (.farrierTestEnd d fails) := fun _ => trivial
theorem dueWindowExpiry (c : Fin 256) : Statement (.dueWindowExpiry c) := fun _ => trivial
theorem testNow (port : Fin 2) (d : Fin 4) (n : Fin 64) : Statement (.testNow port d n) := fun _ => trivial
theorem defer (port : Fin 2) (d : Fin 4) (n : Fin 64) : Statement (.defer port d n) := fun _ => trivial
theorem partnerCopyStart : Statement .partnerCopyStart := fun _ => trivial
theorem partnerCopyComplete (d : Fin 4) : Statement (.partnerCopyComplete d) := fun _ => trivial
theorem partnerCopyFail (d : Fin 4) : Statement (.partnerCopyFail d) := fun _ => trivial
theorem partnerPairing (port : Fin 2) (v : BitVec 64) : Statement (.partnerPairing port v) := fun _ => trivial
theorem partnerPeerTimeout : Statement .partnerPeerTimeout := fun _ => trivial
theorem remountGo (port : Fin 2) (d : Fin 4) (v : BitVec 64) : Statement (.remountGo port d v) := fun _ => trivial
theorem remountComplete (d : Fin 4) : Statement (.remountComplete d) := fun _ => trivial
theorem bar2Read (port : Fin 2) (off n : Nat) : Statement (.bar2Read port off n) := by
  intro h; simp [Instr.wf, barAccessOk, bar2Size] at h; exact ⟨h.1, of_decide_eq_true h.2⟩
theorem bar2Write (port : Fin 2) (off : Nat) (data : List Byte) : Statement (.bar2Write port off data) := by
  intro h; simp [Instr.wf, barAccessOk, bar2Size] at h; exact ⟨h.1, of_decide_eq_true h.2⟩
theorem streamDoorbell (port : Fin 2) (s : Fin 4096) (v : BitVec 32) : Statement (.streamDoorbell port s v) := fun _ => trivial
theorem launch (port : Fin 2) (s : Fin 4096) (err : Option (Fin 256)) : Statement (.launch port s err) := fun _ => trivial
theorem copy (port : Fin 2) (s : Fin 4096) : Statement (.copy port s) := fun _ => trivial
theorem reserve (port : Fin 2) (s : Fin 4096) : Statement (.reserve port s) := fun _ => trivial
theorem mgmt (port : Fin 2) (s : Fin 4096) (x : Env) : Statement (.mgmt port s x) := by
  intro h; simp [Instr.wf, StartFacts.wf] at h; simp_all [bounds]
theorem query (port : Fin 2) (s : Fin 4096) : Statement (.query port s) := fun _ => trivial
theorem registerWrite (port : Fin 2) (off n : Nat) (v : BitVec 64) (x : Env) : Statement (.registerWrite port off n v x) := by
  intro h; simp [Instr.wf, barAccessOk, bar0Size, StartFacts.wf] at h; exact ⟨h.1.1, of_decide_eq_true h.1.2, h.2.1⟩
theorem registerReadClear (port : Fin 2) (off n : Nat) : Statement (.registerReadClear port off n) := by
  intro h; simp [Instr.wf, barAccessOk, bar0Size] at h; exact ⟨h.1, of_decide_eq_true h.2⟩
theorem arbCommitGo (port : Fin 2) (d : Fin 4) (g : Fin 81) : Statement (.arbCommitGo port d g) := fun _ => trivial
theorem arbSetApply (d : Fin 4) (g : Fin 81) : Statement (.arbSetApply d g) := fun _ => trivial
theorem starvationDetect (d : Fin 4) (g : Fin 81) (inst : Fin 32) (req : Fin 12) :
    Statement (.starvationDetect d g inst req) := fun _ => trivial
theorem leaseClaim (port : Fin 2) : Statement (.leaseClaim port) := fun _ => trivial
theorem leaseRenew (port : Fin 2) : Statement (.leaseRenew port) := fun _ => trivial
theorem leaseRelease (port : Fin 2) : Statement (.leaseRelease port) := fun _ => trivial
theorem leaseExpiry : Statement .leaseExpiry := fun _ => trivial
theorem hostLinkDown (port : Fin 2) : Statement (.hostLinkDown port) := fun _ => trivial
theorem functionLevelReset (port : Fin 2) : Statement (.functionLevelReset port) := fun _ => trivial
theorem hostCompletionTimeout (port : Fin 2) (r : HostReq) : Statement (.hostCompletionTimeout port r) := fun _ => trivial
theorem resetNRelease (x : StartFacts) : Statement (.resetNRelease x) := by
  intro h; simp [Instr.wf, StartFacts.wf] at h; simp_all [bounds]
theorem startStepTimeout (x : StartFacts) : Statement (.startStepTimeout x) := by
  intro h; simp [Instr.wf, StartFacts.wf] at h; simp_all [bounds]
theorem resetNAssert : Statement .resetNAssert := fun _ => trivial
theorem perstDeassert (port : Fin 2) : Statement (.perstDeassert port) := fun _ => trivial
theorem warmStart (port : Fin 2) (x : StartFacts) : Statement (.warmStart port x) := by
  intro h; simp [Instr.wf, StartFacts.wf] at h; simp_all [bounds]
theorem retry (port : Fin 2) (x : StartFacts) : Statement (.retry port x) := by
  intro h; simp [Instr.wf, StartFacts.wf] at h; simp_all [bounds]
theorem rollbackCommit (port : Fin 2) : Statement (.rollbackCommit port) := fun _ => trivial
theorem rootRetire (port : Fin 2) (root : BitVec 8) : Statement (.rootRetire port root) := fun _ => trivial
theorem fwUpdateGo (port : Fin 2) (v : BitVec 64) : Statement (.fwUpdateGo port v) := fun _ => trivial
theorem fwUpdateComplete (x back : ImageFacts) : Statement (.fwUpdateComplete x back) := fun _ => trivial
theorem submit (port : Fin 2) (x : CertFacts) : Statement (.submit port x) := fun _ => trivial
theorem getVersion (t : Fin 3) : Statement (.getVersion t) := fun _ => trivial
theorem getCapabilities (t v : Fin 3) : Statement (.getCapabilities t v) := fun _ => trivial
theorem negotiateAlgorithms (t : Fin 3) (sha384 : Bool) : Statement (.negotiateAlgorithms t sha384) := fun _ => trivial
theorem getDigests (t : Fin 3) : Statement (.getDigests t) := fun _ => trivial
theorem getCertificate (t : Fin 3) (slot : Fin 8) (off len : Fin 65536) :
    Statement (.getCertificate t slot off len) := fun _ => trivial
theorem challenge (t : Fin 3) (slot : Fin 8) (nonce : List Byte) : Statement (.challenge t slot nonce) := by
  intro h; simp [Instr.wf] at h; simp_all [bounds]
theorem getMeasurements (t : Fin 3) (index : Fin 256) (nonce : Option (List Byte)) : Statement (.getMeasurements t index nonce) := by
  intro h; simp [Instr.wf] at h; cases nonce <;> simp_all [bounds]
theorem mctpControl (eid : Option (Fin 256)) : Statement (.mctpControl eid) := fun _ => trivial
theorem pldmFirmwareUpdate (slot : Fin 3) (image : List Byte) (x back : ImageFacts) :
    Statement (.pldmFirmwareUpdate slot image x back) := fun _ => trivial
theorem activateFirmware (x : StartFacts) : Statement (.activateFirmware x) := by
  intro h; simp [Instr.wf, StartFacts.wf] at h; simp_all [bounds]
theorem pldmPlatformMonitoring (n : Fin 68) : Statement (.pldmPlatformMonitoring n) := fun _ => trivial
theorem alertResponseRead : Statement .alertResponseRead := fun _ => trivial
theorem smbusClockTimeout : Statement .smbusClockTimeout := fun _ => trivial
theorem unlockInstrument (obj : List Byte) (x : CertFacts) : Statement (.unlockInstrument obj x) := fun _ => trivial
theorem bypass : Statement .bypass := fun _ => trivial
theorem idcode : Statement .idcode := fun _ => trivial
theorem samplePreload : Statement .samplePreload := fun _ => trivial
theorem extest : Statement .extest := fun _ => trivial
theorem levelStep (d : Fin 4) (announce : Bool) : Statement (.levelStep d announce) := fun _ => trivial
theorem capLoop (early : Option (Fin 4)) : Statement (.capLoop early) := fun _ => trivial
theorem thermalSample (temps : List (BitVec 16)) : Statement (.thermalSample temps) := by
  intro h; simp [Instr.wf] at h; simp_all [bounds]
theorem avsbusPoll (readings : List (Fin 16 × Option (BitVec 16 × BitVec 16))) :
    Statement (.avsbusPoll readings) := fun _ => trivial
theorem avsbusTimeout (r : Fin 16) : Statement (.avsbusTimeout r) := fun _ => trivial
theorem droopAssert (d : Fin 4) : Statement (.droopAssert d) := fun _ => trivial
theorem droopDeassert (d : Fin 4) : Statement (.droopDeassert d) := fun _ => trivial
theorem droopStretchEnd (d : Fin 4) : Statement (.droopStretchEnd d) := fun _ => trivial
theorem droopStuck (d : Fin 4) : Statement (.droopStuck d) := fun _ => trivial
theorem throttleAssert : Statement .throttleAssert := fun _ => trivial
theorem throttleRelease : Statement .throttleRelease := fun _ => trivial
theorem throttleStuck : Statement .throttleStuck := fun _ => trivial
theorem refclkPcieLoss (port : Fin 2) : Statement (.refclkPcieLoss port) := fun _ => trivial
theorem refclkSdLoss : Statement .refclkSdLoss := fun _ => trivial
theorem refclkPkgLoss : Statement .refclkPkgLoss := fun _ => trivial
theorem pdSwitch (port : Fin 2) (v : BarData) : Statement (.pdSwitch port v) := fun _ => trivial
theorem pdPowerUpComplete (n : Fin 40) : Statement (.pdPowerUpComplete n) := fun _ => trivial
theorem tileStoreClearComplete (k : Fin 32) : Statement (.tileStoreClearComplete k) := fun _ => trivial
theorem counterSnapGo (port : Fin 2) : Statement (.counterSnapGo port) := fun _ => trivial
theorem counterLatch : Statement .counterLatch := fun _ => trivial
theorem halt (port : Fin 2) (c : Fin 256) (arm : Fin 2) : Statement (.halt port c arm) := fun _ => trivial
theorem step (port : Fin 2) (c : Fin 256) (arm : Fin 2) : Statement (.step port c arm) := fun _ => trivial
theorem resume (port : Fin 2) (c : Fin 256) (arm : Fin 2) : Statement (.resume port c arm) := fun _ => trivial
theorem dbgSnapGo (port : Fin 2) (c : Fin 256) (v : BitVec 64) : Statement (.dbgSnapGo port c v) := fun _ => trivial
theorem jobTimeReached (c : Fin 256) : Statement (.jobTimeReached c) := fun _ => trivial
theorem hostLinkUp (port : Fin 2) (speed : Fin 7) (width : Fin 17) (patternOk : Bool)  (tests : Option (List (Fin 256 × BitVec 5))) :
    Statement (.hostLinkUp port speed width patternOk tests) := fun _ => trivial
theorem configRequest (port : Fin 2) : Statement (.configRequest port) := fun _ => trivial
theorem doeDiscovery (port : Fin 2) (index : Fin 256) : Statement (.doeDiscovery port index) := fun _ => trivial
theorem droopStuckClear (d : Fin 4) : Statement (.droopStuckClear d) := fun _ => trivial
theorem peerPairingAnswer (feed : Fin 16) : Statement (.peerPairingAnswer feed) := fun _ => trivial

end Sys2Proof.Laws.OperandBounds
end

