-- ==== Sys2Proof/Laws/Seq.lean ====
section
/-! SUPPORT. The laws of dispatch: what a sequencer instruction and a queued instruction do when they may run. -/

namespace Sys2Proof.Machine

/-! ### Dispatch -/

/-- A legal instruction that core `c` dispatches carries out its body. -/
theorem Part.dispatch_of {p q : Part} {c : Nat} {w : Word} (h : Dispatches p c w q) (is : Nat → Bool)
    (body : Part → Word → Disp) (ho : is (opOf w) = true) :
    p.dispatch c is body = match body q w with
      | .done r n => r.dispatched c n
      | .held r => r
      | .refuse st ill => q.dispatchFault c w (p.core c).pc st ill
      | .fail r st => r.fault c none .execution w (p.core c).pc false (r.faultIn c st none (r.tsRun c w))
      | .stall => p := by
  simp only [Part.dispatch, h.free, h.fetched, ho, h.runs, h.legal]
  rfl

/-- The part once an instruction took its wait and its dispatch number (R67). -/
def Part.begun (q : Part) (c : Nat) (w : Word) : Part :=
  ((q.takeWait c w).nextOrder c).1.countHeld c (heldBy w)

/-- A sequencer instruction that may begin runs its own effect. -/
theorem Part.seqOp_of {p q : Part} {c : Nat} {w : Word} (h : Dispatches p c w q) (m : MayBegin q c w)
    (is : Nat → Bool) (check : Part → Word → Option Status) (run : Part → Word → Nat → SeqOut) (ho : is (opOf w) = true)
    (hc : check q w = none) :
    p.seqOp c is check run = match run (q.begun c w) w (q.core c).pc with
      | .ok r => (r.signalAt c w ((q.takeWait c w).core c).order (r.spanOpen c)).dispatched c ((q.core c).pc + 8)
      | .jump r n => (r.signalAt c w ((q.takeWait c w).core c).order (r.spanOpen c)).dispatched c n
      | .fail r st => r.fault c none .execution w (p.core c).pc false (r.faultIn c st none (r.tsRun c w))
      | .held r => r
      | .stall => p := by
  rw [Part.seqOp, Part.dispatch_of h _ _ ho, hc, m.span, m.waited]
  simp only [Part.begun, Part.nextOrder]
  generalize run _ w _ = r
  cases r <;> rfl

/-- A command of a part in service runs its effect on what it meets. -/
theorem State.runReady_met {s : State} (f : Part → Part) (h : s.met.ready = true) : s.runReady f = s.after (f s.met) := by
  rw [State.runReady_of_ready f h]
  rfl

/-! ### What the steps around an effect leave alone -/

/-- Two cores alike in all that an instruction's own effect may name. -/
structure CoreSt.Like (x y : CoreSt) : Prop where
  g : x.g = y.g
  td : x.td = y.td
  controls : x.seed = y.seed ∧ x.step = y.step ∧ x.deny = y.deny
  queues : x.q = y.q ∧ x.fly = y.fly
  phase : x.phase = y.phase

theorem CoreSt.Like.refl (x : CoreSt) : x.Like x := ⟨rfl, rfl, ⟨rfl, rfl, rfl⟩, ⟨rfl, rfl⟩, rfl⟩

theorem CoreSt.Like.trans {x y z : CoreSt} (h : x.Like y) (k : y.Like z) : x.Like z :=
  ⟨h.g.trans k.g, h.td.trans k.td,
   ⟨h.controls.1.trans k.controls.1, h.controls.2.1.trans k.controls.2.1, h.controls.2.2.trans k.controls.2.2⟩,
   ⟨h.queues.1.trans k.queues.1, h.queues.2.trans k.queues.2⟩, h.phase.trans k.phase⟩

/-- An update of a core alone. -/
structure OnlyCore (q t : Part) (c : Nat) : Prop where
  others : ∀ e, e ≠ c → t.core e = q.core e
  rest : t = { q with cores := t.cores }

theorem OnlyCore.refl (q : Part) (c : Nat) : OnlyCore q q c := ⟨fun _ _ => rfl, rfl⟩

theorem OnlyCore.trans {p q r : Part} {c : Nat} (h : OnlyCore p q c) (k : OnlyCore q r c) : OnlyCore p r c :=
  ⟨fun e he => (k.others e he).trans (h.others e he), by rw [k.rest, h.rest]⟩

theorem OnlyCore.modCore (p : Part) (c : Nat) (f : CoreSt → CoreSt) : OnlyCore p (p.modCore c f) c :=
  ⟨fun _ he => Part.core_modCore_other _ _ he, rfl⟩

/-- Taking a wait changes the counters of the core alone. -/
theorem Part.takeWait_only (q : Part) (c : Nat) (w : Word) : OnlyCore q (q.takeWait c w) c := by
  unfold Part.takeWait
  split
  · unfold Part.tokTake Part.noteTok
    exact (OnlyCore.modCore ..).trans (OnlyCore.modCore ..)
  · exact OnlyCore.refl ..

theorem Part.begun_only (q : Part) (c : Nat) (w : Word) : OnlyCore q (q.begun c w) c := by
  refine ((Part.takeWait_only q c w).trans (OnlyCore.modCore _ c fun x => { x with order := x.order + 1 })).trans ?_
  change OnlyCore _ (Part.countHeld _ c (heldBy w)) c
  unfold Part.countHeld
  exact OnlyCore.modCore ..

theorem CoreSt.like_setToken (x : CoreSt) (t v : Nat) : (x.setToken t v).Like x := ⟨rfl, rfl, ⟨rfl, rfl, rfl⟩, ⟨rfl, rfl⟩, rfl⟩

theorem CoreSt.like_hitWatches (x : CoreSt) (t : Nat) : (x.hitWatches t).Like x := ⟨rfl, rfl, ⟨rfl, rfl, rfl⟩, ⟨rfl, rfl⟩, rfl⟩

theorem CoreSt.token_setToken (x : CoreSt) (t v k : Nat) : (x.setToken t v).token k = if k = t then v else x.token k := by
  unfold CoreSt.setToken CoreSt.token
  by_cases h : k = t
  · subst h; simp
  · simp only [h, if_false]; exact Tab.get_set_other _ _ _ _ h

@[simp] theorem CoreSt.token_hitWatches (x : CoreSt) (t k : Nat) : (x.hitWatches t).token k = x.token k := rfl

/-- What taking the wait leaves of the core. -/
theorem Part.takeWait_core (q : Part) (c : Nat) (w : Word) :
    ((q.takeWait c w).core c).Like (q.core c) ∧ ((q.takeWait c w).core c).order = (q.core c).order ∧
      ((q.takeWait c w).core c).pc = (q.core c).pc ∧ ((q.takeWait c w).core c).stepping = (q.core c).stepping ∧
      ((q.takeWait c w).core c).span.isSome = (q.core c).span.isSome ∧
      (∀ k, ((q.takeWait c w).core c).token k =
        if waitEn w ∧ k = waitTok w then (q.core c).token k - 1 else (q.core c).token k) := by
  unfold Part.takeWait
  by_cases hw : waitEn w = true
  · simp only [hw, if_true, Part.tokTake, Part.noteTok, Part.core_modCore]
    cases hs : ((q.core c).setToken (waitTok w) ((q.core c).token (waitTok w) - 1)).span with
    | none =>
      have hs' : (q.core c).span = none := hs
      refine ⟨CoreSt.like_setToken .., rfl, rfl, rfl, rfl, fun k => ?_⟩
      rw [CoreSt.token_setToken]
      by_cases hk : k = waitTok w <;> simp [hk]
    | some s =>
      have hs' : (q.core c).span = some s := hs
      refine ⟨⟨rfl, rfl, ⟨rfl, rfl, rfl⟩, ⟨rfl, rfl⟩, rfl⟩, rfl, rfl, rfl, by simp [hs'], fun k => ?_⟩
      refine (CoreSt.token_setToken (q.core c) (waitTok w) _ k).trans ?_
      by_cases hk : k = waitTok w <;> simp [hk]
  · simp only [hw]
    exact ⟨CoreSt.Like.refl _, rfl, rfl, rfl, rfl, fun k => by simp⟩

/-- The core once an instruction has begun: all but its counters, its dispatch number and its span stays. -/
theorem Part.begun_core (q : Part) (c : Nat) (w : Word) :
    ((q.begun c w).core c).Like (q.core c) ∧ ((q.begun c w).core c).order = (q.core c).order + 1 ∧
      ((q.begun c w).core c).pc = (q.core c).pc ∧ ((q.begun c w).core c).stepping = (q.core c).stepping ∧
      ((q.begun c w).core c).span.isSome = (q.core c).span.isSome ∧
      (∀ k, ((q.begun c w).core c).token k =
        if waitEn w ∧ k = waitTok w then (q.core c).token k - 1 else (q.core c).token k) := by
  obtain ⟨hl, ho, hp, hst, hs, ht⟩ := Part.takeWait_core q c w
  unfold Part.begun Part.nextOrder Part.countHeld
  simp only [Part.core_modCore]
  cases hsp : ((q.takeWait c w).core c).span with
  | none =>
    exact ⟨⟨hl.g, hl.td, hl.controls, hl.queues, hl.phase⟩, by simp [ho], hp, hst, by simpa [hsp] using hs, ht⟩
  | some s =>
    exact ⟨⟨hl.g, hl.td, hl.controls, hl.queues, hl.phase⟩, by simp [ho], hp, hst, by simpa [hsp] using hs, ht⟩

theorem Part.core_congr {p q : Part} (h : q.cores = p.cores) {c : Nat} : q.core c = p.core c := by
  unfold Part.core; rw [h]

/-- An event reaches no core. -/
@[simp] theorem Part.eventTo_cores (p : Part) (port : Nat) (ty : EventTy) (st : Status) (unit info seq : Nat) :
    (p.eventTo port ty st unit info seq).cores = p.cores := by
  have hb (l : List Byte) (p : Part) (port a : Nat) : (p.setHostBytes port a l).cores = p.cores := by
    induction l generalizing p a with
    | nil => rfl
    | cons b r ih => unfold Part.setHostBytes; rw [ih]
  unfold Part.eventTo
  dsimp only
  split
  · simp
  · split <;> simp [hb]

@[simp] theorem Part.event_cores (p : Part) (ty : EventTy) (st : Status) (unit info : Nat) :
    (p.event ty st unit info).cores = p.cores := by
  simp [Part.event, Part.eventOn]

/-- An increment of a counter: the core's other state and the other cores stay. -/
theorem Part.tokAdd_core (p : Part) (c t n : Nat) :
    ((p.tokAdd c t n).core c) = ((p.core c).setToken t (min ((p.core c).token t + n) 0xFFFF)).hitWatches t ∧
      (∀ e, e ≠ c → (p.tokAdd c t n).core e = p.core e) := by
  have hc : (p.tokAdd c t n).cores =
      (p.modCore c (fun x => (x.setToken t (min ((p.core c).token t + n) 0xFFFF)).hitWatches t)).cores := by
    unfold Part.tokAdd
    dsimp only
    split
    · rfl
    · simp
  constructor
  · rw [Part.core_congr hc, Part.core_modCore]
  · intro e he
    rw [Part.core_congr hc, Part.core_modCore_other _ _ he]

/-- An increment that does not saturate changes the core alone. -/
theorem Part.tokAdd_only {p : Part} {c t n : Nat} (h : (p.core c).token t + n ≤ 0xFFFF) : OnlyCore p (p.tokAdd c t n) c := by
  unfold Part.tokAdd
  simp only [h, if_true]
  exact OnlyCore.modCore ..

/-- Holding a signal and noting a change leave all but the span of the core. -/
theorem Part.holdSig_core (p : Part) (c : Nat) (h : HeldSig) :
    ((p.holdSig c h).core c).Like (p.core c) ∧ ((p.holdSig c h).core c).order = (p.core c).order ∧
      ((p.holdSig c h).core c).stepping = (p.core c).stepping ∧ ((p.holdSig c h).core c).tc = (p.core c).tc := by
  unfold Part.holdSig
  rw [Part.core_modCore]
  split <;> exact ⟨⟨rfl, rfl, ⟨rfl, rfl, rfl⟩, ⟨rfl, rfl⟩, rfl⟩, rfl, rfl, rfl⟩

theorem Part.noteTok_core (p : Part) (c t : Nat) (d : Int) :
    ((p.noteTok c t d).core c).Like (p.core c) ∧ ((p.noteTok c t d).core c).order = (p.core c).order ∧
      ((p.noteTok c t d).core c).stepping = (p.core c).stepping ∧ ((p.noteTok c t d).core c).tc = (p.core c).tc := by
  unfold Part.noteTok
  rw [Part.core_modCore]
  split <;> exact ⟨⟨rfl, rfl, ⟨rfl, rfl, rfl⟩, ⟨rfl, rfl⟩, rfl⟩, rfl, rfl, rfl⟩

/-- What giving the signal leaves of the core (R68, R459). -/
theorem Part.signalAt_core (p : Part) (c : Nat) (w : Word) (o : Nat) :
    ((p.signalAt c w o (p.spanOpen c)).core c).Like (p.core c) ∧
      ((p.signalAt c w o (p.spanOpen c)).core c).order = (p.core c).order ∧
      ((p.signalAt c w o (p.spanOpen c)).core c).stepping = (p.core c).stepping ∧
      (∀ k, ((p.signalAt c w o (p.spanOpen c)).core c).token k =
        if sigEn w ∧ k = sigTok w ∧ ¬ ((p.core c).span.isSome ∧ 32 ≤ k) then min ((p.core c).token k + 1) 0xFFFF
        else (p.core c).token k) := by
  unfold Part.signalAt
  split
  · rename_i hs
    exact ⟨CoreSt.Like.refl _, rfl, rfl, fun k => by rw [if_neg]; rintro ⟨h, _⟩; simp [h] at hs⟩
  · rename_i hs
    have hs : sigEn w = true := by simpa using hs
    split
    · rename_i hh
      rw [Bool.and_eq_true, decide_eq_true_eq] at hh
      obtain ⟨h1, h2, h3, h4⟩ := Part.holdSig_core p c ⟨o, 0xFFFF, c, sigTok w, 1⟩
      refine ⟨h1, h2, h3, fun k => ?_⟩
      rw [if_neg]
      · unfold CoreSt.token; rw [h4]
      · rintro ⟨_, rfl, hn⟩
        exact hn hh
    · rename_i hh
      have hh : ¬ ((p.core c).span.isSome = true ∧ 32 ≤ sigTok w) := by
        rw [Bool.and_eq_true, decide_eq_true_eq] at hh; exact hh
      obtain ⟨ht, _⟩ := Part.tokAdd_core p c (sigTok w) 1
      have h1 : ((p.tokAdd c (sigTok w) 1).core c).Like (p.core c) := by
        rw [ht]; exact (CoreSt.like_hitWatches ..).trans (CoreSt.like_setToken ..)
      have h2 : ((p.tokAdd c (sigTok w) 1).core c).order = (p.core c).order := by rw [ht]; rfl
      have h3 : ((p.tokAdd c (sigTok w) 1).core c).stepping = (p.core c).stepping := by rw [ht]; rfl
      have h4 (k : Nat) : ((p.tokAdd c (sigTok w) 1).core c).token k =
          if sigEn w ∧ k = sigTok w ∧ ¬ ((p.core c).span.isSome ∧ 32 ≤ k) then min ((p.core c).token k + 1) 0xFFFF
          else (p.core c).token k := by
        rw [ht, CoreSt.token_hitWatches, CoreSt.token_setToken]
        by_cases hk : k = sigTok w
        · subst hk; simp [hs, hh]
        · simp [hk]
      dsimp only
      split
      · obtain ⟨n1, n2, n3, n4⟩ := Part.noteTok_core (p.tokAdd c (sigTok w) 1) c (sigTok w) 1
        refine ⟨n1.trans h1, n2.trans h2, n3.trans h3, fun k => ?_⟩
        rw [← h4 k]
        unfold CoreSt.token
        rw [n4]
      · exact ⟨h1, h2, h3, h4⟩

/-- Giving the signal leaves the other cores alone. -/
theorem Part.signalAt_others (p : Part) (c : Nat) (w : Word) (o : Nat) (b : Bool) {e : Nat} (he : e ≠ c) :
    (p.signalAt c w o b).core e = p.core e := by
  unfold Part.signalAt
  split
  · rfl
  · split
    · exact Part.core_modCore_other _ _ he
    · dsimp only
      split
      · exact (Part.core_modCore_other _ _ he).trans ((Part.tokAdd_core p c (sigTok w) 1).2 e he)
      · exact (Part.tokAdd_core p c (sigTok w) 1).2 e he

/-- A signal to a counter that does not saturate changes the core alone. -/
theorem Part.signalAt_only {p : Part} {c : Nat} {w : Word} (o : Nat) (b : Bool)
    (h : sigEn w = true → (p.core c).token (sigTok w) < 0xFFFF) : OnlyCore p (p.signalAt c w o b) c := by
  unfold Part.signalAt
  split
  · exact OnlyCore.refl ..
  · rename_i hs
    have hs : sigEn w = true := by simpa using hs
    split
    · exact OnlyCore.modCore ..
    · have ht : OnlyCore p (p.tokAdd c (sigTok w) 1) c := Part.tokAdd_only (by have := h hs; omega)
      dsimp only
      split
      · exact ht.trans (OnlyCore.modCore ..)
      · exact ht

/-- A core that is not stepped goes on at the next program counter. -/
theorem Part.dispatched_eq {p : Part} {c : Nat} (pc : Nat) (h : (p.core c).stepping = false) :
    p.dispatched c pc = (p.modCore c (fun x => { x with pc := pc % 2 ^ 48, passBreak := false })).setSeqWait c SeqWait.reset := by
  unfold Part.dispatched
  simp [h]

/-- What is left of an instruction once its own effect is done: its signal, and the next program counter. `r` is what the
effect made of the begun state. -/
theorem SeqDone.of_effect {q r : Part} {c : Nat} {w : Word} {x : CoreSt} (pc o : Nat)
    (hl : (r.core c).Like x)
    (hk : (r.core c).order = x.order + 1 ∧ (r.core c).stepping = false ∧
      (r.core c).span.isSome = (q.core c).span.isSome ∧ (r.core c).tc = ((q.begun c w).core c).tc)
    (ho : OnlyCore q r c) :
    SeqDone q ((r.signalAt c w o (r.spanOpen c)).dispatched c pc) c w x pc := by
  obtain ⟨sl, so, ss, stk⟩ := Part.signalAt_core r c w o
  obtain ⟨_, _, _, _, _, bt⟩ := Part.begun_core q c w
  rw [Part.dispatched_eq pc (ss.trans hk.2.1)]
  have htok : ∀ k, (r.core c).token k = if waitEn w ∧ k = waitTok w then (q.core c).token k - 1 else (q.core c).token k := by
    intro k
    rw [← bt k]
    unfold CoreSt.token
    rw [hk.2.2.2]
  have hl' := sl.trans hl
  constructor
  · rw [Part.core_setSeqWait, Part.core_modCore]; exact hl'.g
  · rw [Part.core_setSeqWait, Part.core_modCore]; exact hl'.td
  · rw [Part.core_setSeqWait, Part.core_modCore]; exact hl'.controls
  · rw [Part.core_setSeqWait, Part.core_modCore]; exact hl'.queues
  · rw [Part.core_setSeqWait, Part.core_modCore]; exact hl'.phase
  · rw [Part.core_setSeqWait, Part.core_modCore]
  · rw [Part.core_setSeqWait, Part.core_modCore]; exact so.trans hk.1
  · intro k
    rw [Part.core_setSeqWait, Part.core_modCore]
    refine (stk k).trans ?_
    rw [htok k, hk.2.2.1]
    rfl
  · intro e he
    rw [Part.core_setSeqWait, Part.core_modCore_other _ _ he, Part.signalAt_others _ _ _ _ _ he]
    exact ho.others e he
  · intro hq
    have hs : sigEn w = true → (r.core c).token (sigTok w) < 0xFFFF := by
      intro h
      rw [htok]
      have := hq h
      split <;> omega
    have h := ((ho.trans (Part.signalAt_only o (r.spanOpen c) hs)).trans (OnlyCore.modCore _ c fun x => { x with
      pc := pc % 2 ^ 48, passBreak := false })).rest
    exact congrArg (fun p : Part => p.setSeqWait c SeqWait.reset) h

/-! ### Sequencer instructions that change their core alone -/

theorem CoreSt.Like.gr {x y : CoreSt} (h : x.Like y) (n : Nat) : x.gr n = y.gr n := by simp [CoreSt.gr, h.g]

theorem CoreSt.Like.tdr {x y : CoreSt} (h : x.Like y) (n : Nat) : x.tdr n = y.tdr n := by simp [CoreSt.tdr, h.td]

theorem CoreSt.Like.setG {x y : CoreSt} (h : x.Like y) (n : Nat) (v : Word) : (x.setG n v).Like (y.setG n v) := by
  unfold CoreSt.setG
  split
  · exact h
  · exact ⟨by simp [h.g], h.td, h.controls, h.queues, h.phase⟩

/-- Fields of a core that no effect of a sequencer instruction on the core alone may change. -/
structure CoreSt.Keeps (f : CoreSt → CoreSt) : Prop where
  like : ∀ x y : CoreSt, x.Like y → (f x).Like (f y)
  order : ∀ x, (f x).order = x.order
  stepping : ∀ x, (f x).stepping = x.stepping
  span : ∀ x, (f x).span = x.span
  tc : ∀ x, (f x).tc = x.tc

theorem CoreSt.keeps_setG (n : Nat) (v : Word) : CoreSt.Keeps (fun x => x.setG n v) where
  like _ _ h := h.setG n v
  order x := by unfold CoreSt.setG; split <;> rfl
  stepping x := by unfold CoreSt.setG; split <;> rfl
  span x := by unfold CoreSt.setG; split <;> rfl
  tc x := by unfold CoreSt.setG; split <;> rfl

/-- An effect on the core alone completes. -/
theorem SeqDone.of_core {q : Part} {c : Nat} {w : Word} (m : MayBegin q c w) (f : CoreSt → CoreSt) (k : CoreSt.Keeps f)
    (pc o : Nat) :
    SeqDone q ((((q.begun c w).modCore c f).signalAt c w o (((q.begun c w).modCore c f).spanOpen c)).dispatched c pc)
      c w (f (q.core c)) pc := by
  obtain ⟨b1, b2, _, b4, b5, _⟩ := Part.begun_core q c w
  refine SeqDone.of_effect pc o ?_ ?_ ((Part.begun_only ..).trans (OnlyCore.modCore ..))
  · rw [Part.core_modCore]
    exact k.like _ _ b1
  · rw [Part.core_modCore]
    exact ⟨by rw [k.order, b2, k.order], by rw [k.stepping, b4, m.free], by rw [k.span, b5], k.tc _⟩

/-- An instruction that only waits, signals and goes on completes. -/
theorem SeqDone.of_none {q : Part} {c : Nat} {w : Word} (m : MayBegin q c w) (pc o : Nat) :
    SeqDone q (((q.begun c w).signalAt c w o ((q.begun c w).spanOpen c)).dispatched c pc) c w (q.core c) pc := by
  obtain ⟨b1, b2, _, b4, b5, _⟩ := Part.begun_core q c w
  exact SeqDone.of_effect pc o b1 ⟨b2, by rw [b4, m.free], b5, rfl⟩ (Part.begun_only ..)

/-- The register-register form (R228). -/
theorem Part.scalarRR_done {p q : Part} {c : Nat} {w : Word} (h : Dispatches p c w q) (m : MayBegin q c w) (op : Nat)
    (ho : opOf w = op) :
    SeqDone q (p.scalarRR c op) c w
      ((q.core c).setG (fA w) (aluRR op ((q.core c).gr (fB w)) ((q.core c).gr (fC w)))) ((q.core c).pc + 8) := by
  have hb := (Part.begun_core q c w).1
  unfold Part.scalarRR
  rw [Part.seqOp_of h m _ _ _ (by simp [ho]) rfl]
  dsimp only
  rw [hb.gr, hb.gr]
  exact SeqDone.of_core m _ (CoreSt.keeps_setG ..) ..

/-- The immediate form (R228). -/
theorem Part.scalarRI_done {p q : Part} {c : Nat} {w : Word} (h : Dispatches p c w q) (m : MayBegin q c w) (op : Nat)
    (ho : opOf w = op) :
    SeqDone q (p.scalarRI c op) c w
      ((q.core c).setG (fA w) (aluRI op ((q.core c).gr (fB w)) w)) ((q.core c).pc + 8) := by
  have hb := (Part.begun_core q c w).1
  unfold Part.scalarRI
  rw [Part.seqOp_of h m _ _ _ (by simp [ho]) rfl]
  dsimp only
  rw [hb.gr]
  exact SeqDone.of_core m _ (CoreSt.keeps_setG ..) ..

/-- The sign-extended immediate. -/
theorem immS_eq (w : Word) : immS w = (BitVec.ofNat 32 (immOf w)).signExtend 64 := by
  unfold immS
  rw [BitVec.signExtend]
  congr 1
  unfold signed
  rw [BitVec.toInt_eq_toNat_cond, BitVec.toNat_ofNat]
  have : immOf w % 2 ^ 32 % 2 ^ 32 = immOf w % 2 ^ 32 := Nat.mod_mod _ _
  by_cases h : immOf w % 2 ^ 32 < 2 ^ 31
  · rw [if_pos (by simpa using h), if_pos (by omega)]
  · rw [if_neg (by simpa using h), if_neg (by omega)]

end Sys2Proof.Machine
end

