-- ==== Sys2Proof/Tests/States.lean ====
section
/-! SUPPORT. Small states for the tests, and Bool forms of the conditions that the statements use. -/

namespace Sys2Proof.Tests

open Sys2Proof Sys2Proof.Machine

/-! ### Small states -/

/-- A part in service: both links up, every domain on, the lease with port 0. -/
def up : Part :=
  let p : Part := { Part.reset with run := .ready, pins := { Pins.reset with resetN := true, perstN := (true, true) } }
  { ((((p.put Fld.HOST_PORT_STATUS.LINK_UP 0 1).put Fld.HOST_PORT_STATUS.LINK_UP 1 1).put Fld.PD_STATUS.ON 0 (2 ^ 40 - 1)).put
    Fld.LEASE_STATUS.HOLDER 0 0).put Fld.LEASE_EXPIRES.EXPIRES 0 (2 ^ 63) with time := { TimeSt.reset with raw := 5000 } }

def at_ (p : Part) : State := ⟨p, []⟩

/-- The part after a command. -/
def after (i : Instr) (p : Part) : Part :=
  match exec i (at_ p) with
  | .next s => s.part
  | _ => Part.reset

/-- A cached leaf that maps the DVAs `[0, 2^21)` of a die to HBM at `pa` with every permission. -/
def leafAt (pa : Nat) : Leaf := ⟨0, 2 ^ 21, BitVec.ofNat 64 (pa + 0x11D)⟩

/-- `p` with core 0 working on slot 3 at DVA 0, whose code lies at the first address of HBM and begins with `w`. -/
def running (p : Part) (w : Word) : Part :=
  ((p.setCore 0 { p.core 0 with phase := .running 3 }).modDie 0 (fun x => { x with tlb := [leafAt 0] })).setBytes 0
    (leBytes 8 w.toNat) |>.setSlot 0 3 ⟨.running, List.replicate 64 0, 0, 0, 0, 0, 0⟩

/-- An instruction word: opcode, three 5-bit fields and the immediate. -/
def word (op a b c imm : Nat) : Word := BitVec.ofNat 64 (op * 2 ^ 56 + a * 2 ^ 37 + b * 2 ^ 32 + c * 2 ^ 27 + imm)

/-- Registers and counters with something in them. -/
def rich (p : Part) : Part :=
  p.modCore 0 (fun x => { x with
    g := [(1, 0x40#64), (2, 0xFFFFFFFFFFFFFFFE#64), (3, 0x0123456789ABCDEF#64), (4, 0xA00010#64), (5, 0x13#64), (31, 7#64)],
    td := [(1, 0x123456789ABCDEF0123456789ABCDEF0#128), (2, 1#128)], tc := [(5, 3), (6, 0xFFFF), (40, 0xFFFE)],
    seed := 9#64, step := 77 })

/-- A state in which core 0 meets the word `w`. -/
def meeting (w : Word) (f : Part → Part := id) : State := at_ (f (rich (running up w)))

/-- A queue entry of the word `w`. -/
def entry (w : Word) : QEntry := ⟨w, 0x100, [], [], 0, 0, 0, 0, false, 0, false⟩

/-- What a start finds in these tests: each die tries its own recovery record and gets a serial, nothing else. -/
def facts : StartFacts :=
  { Env.none.start with tries := (List.range 20).map (fun i => [⟨Fin.ofNat 20 i, 0, BitVec.ofNat 64 (100 + i), 0, 0xFFFFFFFF⟩]) }

def env : Env := { Env.none with start := facts }

/-- Node 5 whose dies may send to node 9. -/
def linked (p : Part) : Part :=
  (List.range 4).foldl (fun (p : Part) d => (p.put Fld.RT_STATUS.BANK0_STATE d 2).wr .ROUTE ((2 * d) * 32768 + 4) (BitVec.ofNat 64 (2 ^ 63 + 2 ^ 56)))
    (p.put Fld.FAB_NODE.NODE 0 5)

def node5 : Part := linked up

/-- Bytes with fields (offset, size, value) set. -/
def bytesWith (n : Nat) (fs : List (Nat × Nat × Nat)) : List Byte :=
  leBytes n (fs.foldl (fun v f => v + f.2.2 % 2 ^ (8 * f.2.1) * 2 ^ (8 * f.1)) 0)

/-- A transfer in the table of die 0 on behalf of `src`. -/
def xferOf (id : Nat) (src : XferSrc) (desc : List Byte) : Xfer := ⟨id, src, desc, 0, none, 0, none, 0, [], none, false, false, none, none⟩

/-- MOV.IADD of one element of a tile into DVA 0x1000. -/
def addOne : QEntry :=
  { entry (word 0x62 1 2 0 0) with tds := [BitVec.ofNat 128 (4 * 2 ^ 64 + 8 * 2 ^ 60 + 2 ^ 40 + 2 ^ 24)], gs := [0x1000, 4] }

/-! ### Conditions -/

def acceptedB (p : Part) (port : Nat) (r : Reg) (i : Nat) (d : BarData) : Bool :=
  p.barServed port && decide (p.leaseTick = p) && p.mayWrite port r i && p.serves r &&
    decide (p.orderStatus ⟨port, r, i, barMask d, barVal d⟩ = .ok)

theorem accepted {p : Part} {port : Nat} {r : Reg} {i : Nat} {d : BarData} (h : acceptedB p port r i d = true) :
    Accepted p port r i d := by
  simp only [acceptedB, Bool.and_eq_true, decide_eq_true_eq] at h
  exact ⟨h.1.1.1.1, h.1.1.1.2, h.1.1.2, h.1.2, h.2⟩

def dispatchesB (p : Part) (c : Nat) (w : Word) : Bool :=
  p.ready && p.canDispatch c && (match (p.fetch c).2 with | .ok v => decide (v = w) | _ => false) &&
    decide (p.haltsBefore c w = none) && !illegal w

theorem dispatches {p : Part} {c : Nat} {w : Word} (h : dispatchesB p c w = true) : Dispatches p c w (p.fetch c).1 := by
  simp only [dispatchesB, Bool.and_eq_true, decide_eq_true_eq, Bool.not_eq_true'] at h
  obtain ⟨⟨⟨⟨h1, h2⟩, h3⟩, h4⟩, h5⟩ := h
  refine ⟨h1, h2, ?_, h4, h5⟩
  split at h3
  · rename_i v hv
    exact Prod.ext rfl (by rw [hv, of_decide_eq_true h3])
  · cases h3

def mayBeginB (q : Part) (c : Nat) (w : Word) : Bool :=
  decide (q.spanCheck c w 0 = none) && q.waitOk c w && !(q.core c).stepping

theorem mayBegin {q : Part} {c : Nat} {w : Word} (h : mayBeginB q c w = true) : MayBegin q c w := by
  simp only [mayBeginB, Bool.and_eq_true, decide_eq_true_eq, Bool.not_eq_true'] at h
  exact ⟨h.1.1, h.1.2, h.2⟩

/-- Core 0 dispatches `w` in the state `meeting w f`, and may begin it. -/
def runsB (w : Word) (f : Part → Part := id) : Bool :=
  dispatchesB (meeting w f).met 0 w && mayBeginB ((meeting w f).met.fetch 0).1 0 w

theorem runs {w : Word} {f : Part → Part} (h : runsB w f = true) :
    Dispatches (meeting w f).met 0 w ((meeting w f).met.fetch 0).1 ∧ MayBegin ((meeting w f).met.fetch 0).1 0 w := by
  simp only [runsB, Bool.and_eq_true] at h
  exact ⟨dispatches h.1, mayBegin h.2⟩

/-- `up` with its first die changed. -/
def dieUp (f : DieSt → DieSt) : Part := up.modDie 0 f

/-- Words that core 0 dispatches and may begin in `meeting w f`. -/
def Begins (w : Word) (f : Part → Part := id) : Prop :=
  Dispatches (meeting w f).met 0 w ((meeting w f).met.fetch 0).1 ∧ MayBegin ((meeting w f).met.fetch 0).1 0 w

theorem all_begin {l : List Word} {f : Part → Part} (h : l.all (fun w => runsB w f) = true) : ∀ w ∈ l, Begins w f :=
  fun w hw => runs (List.all_eq_true.mp h w hw)

/-- Words that core 0 dispatches in `meeting w f`, whatever their wait. -/
def Meets (w : Word) (f : Part → Part := id) : Prop := Dispatches (meeting w f).met 0 w ((meeting w f).met.fetch 0).1

theorem all_meet {l : List Word} {f : Part → Part} (h : l.all (fun w => dispatchesB (meeting w f).met 0 w) = true) :
    ∀ w ∈ l, Meets w f :=
  fun w hw => dispatches (List.all_eq_true.mp h w hw)

/-- What core 0 meets once it has fetched its word. -/
def meets0 (w : Word) (f : Part → Part := id) : Part := ((meeting w f).met.fetch 0).1

/-- An access that ended well. -/
def isOk {α : Type} : Acc α → Bool
  | .ok _ => true
  | _ => false

/-- An access that failed. -/
def isFail {α : Type} : Acc α → Bool
  | .fail _ => true
  | _ => false

end Sys2Proof.Tests
end

