-- ==== Sys2Proof/Tests/Slice0.lean ====
section
/-! SUPPORT. The tests: worked examples of the spec, terms that are not well formed, and for each statement with hypotheses a
state and operands that meet them. -/

namespace Sys2Proof.Tests

set_option Elab.async false

open Sys2Proof Sys2Proof.Machine

/-! ### Worked examples of the spec -/

/-- The example after R268. -/
theorem test_check_code_example : checkBits 1 0 = 0x4377 ∧ eccDecode ⟨0, 0, 0x20, 0⟩ = .bad true := by decide +kernel

/-- The example after R177: terms 16, 3 x 2^-24, -5 x 2^-23 and 0.25 into +0. -/
theorem test_group_sum_example :
    groupAdd 0 [.fin false 16 0, .fin false 3 (-24), .fin true 5 (-23), .fin false 1 (-2)] (.fin false 1 0) = 0x41820000 := by
  decide +kernel

/-- The example after R164: 625 and 23.125 drained to E4M3. -/
theorem test_drain_example :
    toFloat .e4m3 ⟨0, false, 0⟩ (.fin false 625 0) = 0x7F ∧ toFloat .e4m3 ⟨0, true, 0⟩ (.fin false 625 0) = 0x7E ∧
      toFloat .e4m3 ⟨1, false, 0⟩ (.fin false 625 0) = 0x7E ∧ toFloat .e4m3 ⟨0, false, 0⟩ (.fin false 185 (-3)) = 0x5C ∧
      toFloat .e4m3 ⟨1, false, 0⟩ (.fin false 185 (-3)) = 0x5B ∧ toFloat .e4m3 ⟨2, false, 0x7000⟩ (.fin false 185 (-3)) = 0x5C ∧
      toFloat .e4m3 ⟨2, false, 0x6FFF⟩ (.fin false 185 (-3)) = 0x5B := by
  decide +kernel

/-- The example after R166: 0x3F80_4C00 to BF16 with SR. -/
theorem test_stochastic_rounding_example :
    convert .fp32 .bf16 ⟨2, false, 0xC123⟩ 0x3F804C00 = 0x3F81 ∧ convert .fp32 .bf16 ⟨2, false, 0x1234⟩ 0x3F804C00 = 0x3F80 := by
  decide +kernel

/-- The example after R151: an INT4 row. -/
theorem test_int4_row_example : packRow .int4 [0x3, 0xE, 0x7, 0x8, 0x1] = [0xE3, 0x87, 0x01] := by decide +kernel

/-- The example after R191: the order of additions in a ring. -/
theorem test_ring_order_example :
    f32Add (f32Add 0x3F800000 0x33800000) 0x33800000 = 0x3F800000 ∧ f32Add (f32Add 0x33800000 0x33800000) 0x3F800000 = 0x3F800001 := by
  decide +kernel

/-- The example after R208: V.RSUM adds by the tree. -/
theorem test_row_sum_example :
    reduceRow f32Add [0x33800000, 0x3F800000, 0x33800000, 0x33800000, 0x3F000000] = 0x3FC00001 := by decide +kernel

/-- The example after R209: absmax 37.5, target E4M3, POW2 = 1. -/
theorem test_absmax_scale_example : amaxScale 448 true 0x42160000 = (0x3E000000, 0x41000000) := by decide +kernel

/-- The example after R44: the repair entry of a bundle whose wires 5 and 40 fail. -/
theorem test_repair_entry_example : surveyEntry true [5, 40] = 0x20001405 := by decide +kernel

/-- The encoding examples: ORI and LIH build the target of a signal in g7. -/
theorem test_encoding_examples :
    (let p := after (.ori 0) (rich (running up 0x0D0000E00013FFFF))
     (p.core 0).gr 7 = 0x13FFFF) ∧
    (let p := after (.lih 0) ((rich (running up 0x0E0000E700000128)).modCore 0 (fun x => x.setG 7 0x13FFFF))
     (p.core 0).gr 7 = 0x00000128_0013FFFF) ∧
    (let w : Word := 0x71C400E000000000
     opOf w = 0x71 ∧ waitEn w = true ∧ waitTok w = 34 ∧ fA w = 7 ∧ illegal w = false) ∧
    (let w : Word := 0x2091262160000000
     opOf w = 0x20 ∧ waitTok w = 8 ∧ sigEn w = true ∧ sigTok w = 9 ∧ engOf w = 1 ∧ bankOf w = 0 ∧ tdA w = 4 ∧ tdB w = 5 ∧
      gsizeOf w = 2 ∧ illegal w = false) := by
  decide +kernel

/-! ### Terms that are not well formed are refused -/

def refusedIll (i : Instr) : Bool :=
  !i.wf && (match exec i (at_ up) with | .refused .illFormed => true | _ => false)

theorem smoke_element_flips : refusedIll (.instructionComplete 0 .me0 0 [(16384, 1)] []) = true := by decide +kernel
theorem smoke_follower_flips : refusedIll (.instructionComplete 0 .me0 0 [] [(3, 1), (3, 1)]) = true := by decide +kernel
theorem smoke_scrub_flips : refusedIll (.scrubPass 0 [⟨0xFE0_2000_0000, 1, 0, none, 1⟩]) = true := by decide +kernel
theorem smoke_frame_size : refusedIll (.routerFrame 0 [(0, [1, 2])] []) = true := by decide +kernel
theorem smoke_frame_port : refusedIll (.routerFrame 0 [] [6]) = true := by decide +kernel
theorem smoke_bar2_read : refusedIll (.bar2Read 0 0x40_0000_0000 1) = true := by decide +kernel
theorem smoke_bar2_write : refusedIll (.bar2Write 0 0 []) = true := by decide +kernel
theorem smoke_register_write : refusedIll (.registerWrite 0 0x7FF_FFFC 8 0 env) = true := by decide +kernel
theorem smoke_register_write_facts : refusedIll (.registerWrite 0 0 8 0 { env with start := { facts with tries := [] } }) = true := by
  decide +kernel
theorem smoke_register_read_clear : refusedIll (.registerReadClear 0 0 0) = true := by decide +kernel
theorem smoke_start_facts :
    (let x : StartFacts := { facts with tries := [] }
     refusedIll (.mgmt 0 0 ⟨x, env.cert⟩) && refusedIll (.resetNRelease x) && refusedIll (.startStepTimeout x) &&
      refusedIll (.warmStart 0 x) && refusedIll (.retry 0 x) && refusedIll (.activateFirmware x)) = true := by
  decide +kernel
theorem smoke_wire_samples :
    refusedIll (.resetNRelease { facts with wires := [⟨0, 0, true, [], [⟨0, 70000, 0, true⟩]⟩] }) = true := by decide +kernel
theorem smoke_bundle_frames : refusedIll (.bundleRetireLive 0 (0, [⟨true, 1, []⟩])) = true := by decide +kernel
theorem smoke_core_tests : refusedIll (.hostLinkUp 0 5 16 true (some [(3, 5), (3, 6)])) = true := by decide +kernel
theorem smoke_nonces : (refusedIll (.challenge 0 0 []) && refusedIll (.getMeasurements 0 1 (some [1]))) = true := by decide +kernel
theorem smoke_readings : refusedIll (.avsbusPoll [(2, none), (1, none)]) = true := by decide +kernel
theorem smoke_temperatures : refusedIll (.thermalSample []) = true := by decide +kernel

/-! ### Witnesses of the statements -/

/-! ### Witnesses: for each statement, concrete states and operands that meet its hypotheses, clause by clause -/

theorem witness_StepRunsTheFrontCommand :
    (up.pins.resetN = true ∧ up.pins.refPkg = true ∧ up.run ≠ .dead) ∧ ({ up with run := .dead } : Part).run = .dead := by
  decide +kernel

theorem witness_EveryWaitingCommandCompletes :
    (∀ i ∈ [Instr.nop 0, .thermalSample (List.replicate 48 0)], Instr.wf i = true) ∧ Instr.wf (.thermalSample []) = false := by
  decide +kernel

theorem witness_ALostPartStaysLost :
    Instr.wf (.nop 0) = true ∧ (at_ { up with run := .dead }).met.run = .dead ∧ Instr.nop 0 ≠ .resetNAssert ∧
      ∀ x, Instr.nop 0 ≠ .resetNRelease x := by
  exact ⟨by decide +kernel, by decide +kernel, by decide +kernel, fun x h => by cases h⟩

theorem witness_MemoryKeepsItsCanonicalForm :
    Memory.wf (at_ (up.setBytes 0x1000 [1, 2, 3])).met = true ∧ Instr.wf (.bar2Write 0 0 [1]) = true ∧
      Instr.wf (.bar2Read 0 0 8) = true ∧ Instr.wf (.scrubPass 0 [⟨5, 1, 0, none, 1⟩]) = true := by
  decide +kernel

/-- Terms of a group: 16, 3 x 2^-24, a zero of each sign, the infinities and a NaN. -/
def term : List FVal := [.fin false 16 0, .fin false 3 (-24), .fin false 0 0, .fin true 0 0, .inf false, .inf true]

theorem witness_GroupSumsFollowTheTable :
    (([FVal.inf false, .inf true] : List FVal).any FVal.isNan = true ∨ (.inf false ∈ [FVal.inf false, .inf true] ∧ .inf true ∈ [FVal.inf false, .inf true])) ∧
    ([FVal.inf false].any FVal.isNan = false ∧ .inf false ∈ [FVal.inf false] ∧ .inf true ∉ [FVal.inf false]) ∧
    ([FVal.inf true].any FVal.isNan = false ∧ .inf true ∈ [FVal.inf true] ∧ .inf false ∉ [FVal.inf true]) ∧
    (∀ t ∈ [FVal.fin true 0 0], ∃ e, t = .fin true 0 e) ∧
    ((∀ t ∈ [FVal.fin true 0 0, .fin false 0 0], ∃ s e, t = .fin s 0 e) ∧ ∃ t ∈ [FVal.fin true 0 0, .fin false 0 0], ∃ e, t = .fin false 0 e) ∧
    ((∀ t ∈ term.take 4, t.isFin = true) ∧ (∃ t ∈ term.take 4, t.live = true ∧ t.lead = 4) ∧ ∀ t ∈ term.take 4, t.live = true → t.lead ≤ 4) := by
  refine ⟨by decide +kernel, by decide +kernel, by decide +kernel, ?_, ⟨?_, ?_⟩, by decide +kernel⟩
  · intro t h; exact ⟨0, by simpa using h⟩
  · intro t h
    simp only [List.mem_cons, List.not_mem_nil, or_false] at h
    rcases h with h | h
    · exact ⟨true, 0, h⟩
    · exact ⟨false, 0, h⟩
  · exact ⟨.fin false 0 0, by simp, 0, rfl⟩

def ones (u : Upset) : Nat × Nat :=
  ((List.range 64).countP (fun k => u.data.getLsbD k) + (List.range 16).countP (fun k => u.check.getLsbD k),
    (List.range 28).countP (fun k => u.addr.getLsbD k))

theorem witness_CheckCodeKeepsItsGuarantees :
    ones ⟨0, 0, 0, 1⟩ = (0, 0) ∧ ones ⟨1, 0x8000, 0, 1⟩ = (2, 0) ∧ ones ⟨3, 1, 0, 1⟩ = (3, 0) ∧ ones ⟨1, 0, 3, 1⟩ = (1, 2) ∧
      ones ⟨0, 0, 7, 1⟩ = (0, 3) := by
  decide +kernel

/-- The opcodes of the register-register group. -/
def scalarOps : List Nat := [0x01, 0x02, 0x03, 0x04, 0x05, 0x06, 0x07, 0x08, 0x09, 0x0A, 0x0B]

theorem witness_ScalarOperationsWriteTheirResult : ∀ op ∈ scalarOps,
    opOf (word op 7 1 2 0) = op ∧ Dispatches (meeting (word op 7 1 2 0)).met 0 (word op 7 1 2 0)
      ((meeting (word op 7 1 2 0)).met.fetch 0).1 ∧ MayBegin ((meeting (word op 7 1 2 0)).met.fetch 0).1 0 (word op 7 1 2 0) := by
  have h : ∀ op ∈ scalarOps, opOf (word op 7 1 2 0) = op ∧ runsB (word op 7 1 2 0) = true := by decide +kernel
  exact fun op ho => ⟨(h op ho).1, runs (h op ho).2⟩

theorem witness_ImmediateOperationsWriteTheirResult :
    ∀ w ∈ [word 0x0C 7 1 0 5, word 0x0D 7 1 0 5, word 0x0E 7 1 0 5, word 0x19 1 1 0 5], Begins w :=
  all_begin (by decide +kernel)

theorem witness_BranchesAndJumpsGoWhereTheyName :
    (∀ w ∈ [word 0x11 1 2 0 5, word 0x12 1 2 0 5, word 0x13 1 2 0 5, word 0x14 1 2 0 5, word 0x15 1 0 0 5, word 0x16 0 1 0 0,
      word 0x16 0 5 0 0], Begins w) ∧
    (((meeting (word 0x16 0 1 0 0)).met.fetch 0).1.core 0).gr 1 = 0x40 ∧
      (((meeting (word 0x16 0 5 0 0)).met.fetch 0).1.core 0).gr 5 = 0x13 :=
  ⟨all_begin (by decide +kernel), by decide +kernel, by decide +kernel⟩

theorem witness_NopAndControlRegisters :
    ∀ w ∈ [word 0x00 0 0 0 0, word 0x1C 0 0 0 0, word 0x1A 1 0 0 2, word 0x1A 1 0 0 3, word 0x1A 1 0 0 4, word 0x1A 1 0 0 9,
      word 0x1B 0 1 0 2, word 0x1B 0 1 0 3, word 0x1B 0 1 0 4, word 0x1B 0 1 0 5], Begins w :=
  all_begin (by decide +kernel)

theorem witness_DroopPinStretchesItsDie :
    (at_ up).met.ready = true ∧
    ((dieUp (fun x => { x with stretch := true })).ready = true ∧ ((dieUp (fun x => { x with stretch := true })).die 0).droop = false ∧
      ((dieUp (fun x => { x with stretch := true })).die 0).stretchAt + 2000 < 2 ^ 64) ∧
    ((dieUp (fun x => { x with droop := true })).ready = true ∧ ((dieUp (fun x => { x with droop := true })).die 0).droop = true) ∧
    ((dieUp (fun x => { x with droopStuck := true })).ready = true ∧ Tab.get true up.pins.droopN 0 = true) := by
  decide +kernel

theorem witness_LevelsFollowTheirLimits :
    (at_ up).met.ready = true ∧
    (let p : Part := { up with pins := { up.pins with throttleN := false } }; p.ready = true ∧ p.pins.throttleN = false ∧ p.pins.throttleTold = false) ∧
    (let p : Part := { up.put Fld.POWER_CTRL.POWER_CAP_W 0 100 with power := [200000] }
     p.ready = true ∧ 1000 * p.get Fld.POWER_CTRL.POWER_CAP_W 0 < p.meanPower) ∧
    (let p := up.put Fld.POWER_CTRL.POWER_CAP_W 0 100 |>.modDie 0 (fun x => { x with capLevel := 5 })
     100 * p.meanPower < 97 * (1000 * p.get Fld.POWER_CTRL.POWER_CAP_W 0) ∧ (p.die 0).capLevel < p.get Fld.POWER_CTRL.MAX_LEVEL 0) := by
  decide +kernel

theorem witness_RailTelemetryIsPolledAndLost :
    (at_ up).met.ready = true ∧ up.readingOk 4 (railNominal 4) 10 = true ∧ up.readingOk 4 5000 10 = false ∧
      up.get Fld.RAIL_STATUS.TELEMETRY_LOST 4 = 0 := by
  decide +kernel

theorem witness_ThermalSampleStepsDownOrTrips :
    (at_ up).met.ready = true ∧ (List.replicate 48 (1920 : BitVec 16)).length = 48 ∧
    (1920 : Int) ≤ ((List.replicate 48 (1920 : BitVec 16)).getD 0 0).toInt ∧
    (∀ n : Fin 48, ¬ (if n.val < 36 then (1920 : Int) else 1680) ≤ ((List.replicate 48 (1600 : BitVec 16)).getD n 0).toInt) := by
  decide +kernel

theorem witness_DomainsSwitchOnlyWhenIdle :
    (let p := up.wr .PD_CTRL 0 0xF_FFFF_FFFF; p.ready = true ∧ Accepted p 0 .PD_CTRL 0 (.full 0xF_FFFF_FFFE)) ∧
    (let p := (up.wr .PD_CTRL 0 0xF_FFFF_FFFF).put Fld.PD_STATUS.ON 0 0; p.ready = true ∧ p.domainOn 3 = false ∧ bit (p.rd .PD_CTRL 0).toNat (pdBit 3) = true) ∧
    up.domainOn 3 = true ∧ up.linkUp 0 = true :=
  ⟨⟨by decide +kernel, accepted (by decide +kernel)⟩, by decide +kernel, by decide +kernel, by decide +kernel⟩

theorem witness_LeaseChangesHandsAndExpires :
    Accepted up 0 .LEASE_ACTION 0 (wordOf 1) ∧ Accepted up 0 .LEASE_ACTION 0 (wordOf 2) ∧
    Accepted up 0 .LEASE_ACTION 0 (wordOf 3) ∧ (up.alive = true ∧ up.get Fld.LEASE_STATUS.HOLDER 0 ≠ 3) :=
  ⟨accepted (by decide +kernel), accepted (by decide +kernel), accepted (by decide +kernel), by decide +kernel⟩

theorem witness_RefusedOrderChangesNothingElse :
    Instr.wf (.registerWrite 1 (Reg.off .LEASE_CTRL 0) 8 100 env) = true ∧ (at_ up).met.barServed 1 = true ∧
    (at_ up).met.leaseTick = (at_ up).met ∧ barAligned (Reg.off .LEASE_CTRL 0) 8 = true ∧
    Reg.decode (Reg.off .LEASE_CTRL 0 / 8 * 8) = some (.LEASE_CTRL, 0) ∧ up.mayWrite 1 .LEASE_CTRL 0 = false := by
  decide +kernel

theorem witness_PlainRegistersAreWrittenAndRead :
    Reg.decode (Reg.off .LEASE_CTRL 0) = some (.LEASE_CTRL, 0) ∧ Accepted up 0 .LEASE_CTRL 0 (.full 100) ∧
    Instr.wf (.registerWrite 0 (Reg.off .LEASE_CTRL 0) 8 100 env) = true ∧ up.barServed 1 = true :=
  ⟨by decide +kernel, accepted (by decide +kernel), by decide +kernel, by decide +kernel⟩

/-- A descriptor with BIND 0xFF (any core) and no precondition. -/
def postable : List Byte := List.replicate 0x14 0 ++ [0xFF] ++ List.replicate 43 0

theorem witness_PostWindowStagesAndPosts :
    (let p : Part := { up with staging := [(512 * 2 + 256, postable)] }
     Accepted p 0 .POST_WINDOW (8 * 2 + 7) (.full 0) ∧ (p.stage 2 256).length = 64 ∧
      p.postStatus 2 ((p.stage 2 256).take 56 ++ leBytes 8 0 ++ (p.stage 2 256).drop 64) = .ok ∧ p.freeSlot 2 = some 0) ∧
    (Accepted up 0 .POST_WINDOW (8 * 2 + 3) (.full 5) ∧ (up.stage 2 256).length = 64) ∧
    (Accepted up 0 .POST_WINDOW (8 * 2 + 7) (.full (2 ^ 63)) ∧
      up.postStatus 2 (List.replicate 56 0 ++ leBytes 8 (2 ^ 63)) ≠ .ok) :=
  ⟨⟨accepted (by decide +kernel), by decide +kernel⟩, ⟨accepted (by decide +kernel), by decide +kernel⟩,
    accepted (by decide +kernel), by decide +kernel⟩

/-- Core 9 works on slot 3 of cluster 1, and both are FAULTED. -/
def faulted : Part := (up.setCore 9 { CoreSt.reset with phase := .faulted 3 }).setSlot 1 3 ⟨.faulted, [], 0, 1, 0, 9, 0⟩

/-- Cluster 1 in the midst of a gait step. -/
def gaiting : Part := (up.put Fld.DIST_CTRL.GAIT_EN 1 1).setCluster 1 { ClusterSt.reset with pairIdx := 2, pulled := 1 }

theorem witness_HostOrdersToTheDistributor :
    (Accepted up 0 .TOKEN_POKE 9 (.full 0x070001) ∧ (0x070001 : BitVec 64).toNat % 256 ≠ 0) ∧
    (faulted.ready = true ∧ faulted.linkUp 0 = true ∧ faulted.leaseTick = faulted ∧ faulted.holdsLease 0 = true ∧
      (faulted.slot 1 3).st = .faulted ∧ (faulted.slot 1 4).st ≠ .faulted ∧ (faulted.core (8 * 1 + 1)).phase = .faulted 3) ∧
    (Accepted gaiting 0 .GAIT_CTRL 1 (.full 0x0100030008) ∧ gaiting.gaitOn 1 = true) :=
  ⟨⟨accepted (by decide +kernel), by decide +kernel⟩, by decide +kernel, accepted (by decide +kernel), by decide +kernel⟩

theorem witness_TranslationAndCacheOrders :
    (Accepted (dieUp (fun x => { x with tlb := [leafAt 0] })) 0 .XLATE_INVAL 0 (withBit 0x0001000000200000 0) ∧
      up.get Fld.XLATE_INVAL.BUSY 0 = 0) ∧
    (let p := up.put Fld.XLATE_INVAL.BUSY 1 1; p.ready = true ∧ p.get Fld.XLATE_INVAL.BUSY 1 = 1) ∧
    (Accepted up 0 .DCACHE_CTRL 0 (wordOf 2) ∧ 2 ≠ 3 ∧ 2 ≠ up.get Fld.DCACHE_CTRL.REMOTE_MODE 0) ∧
    (let p := up.put Fld.MEM_STATUS.MODE_BUSY 1 1; p.ready = true ∧ p.get Fld.MEM_STATUS.MODE_BUSY 1 = 1 ∧ p.upsets = []) :=
  ⟨⟨accepted (by decide +kernel), by decide +kernel⟩, by decide +kernel, ⟨accepted (by decide +kernel), by decide +kernel⟩,
    by decide +kernel⟩

/-- Core 0 halted in its task, with a leaf that maps the snapshot's place. -/
def halted : Part := (running up (word 1 0 0 0 0)).put Fld.DBG_STATUS.HALTED 0 1

theorem witness_DebugAndCounterOrders :
    Accepted up 0 .COUNTER_SNAP 0 (wordOf 1) ∧
    (let p := up.put Fld.COUNTER_SNAP.PENDING 0 1; p.ready = true ∧ p.get Fld.COUNTER_SNAP.PENDING 0 = 1) ∧
    (Accepted (running up 0) 0 .DBG_CTRL 0 (wordOf (8 * 1 + 1)) ∧ (running up 0).isHalted 0 = false ∧
      ((running up 0).core 0).phase = .running 3 ∧ ((running up 0).core 0).hold = .none) ∧
    (up.core 0).phase = .idle ∧ Accepted halted 0 .DBG_CTRL 0 (wordOf (8 * 1 + 2)) ∧
    Accepted halted 0 .DBG_CTRL 0 (wordOf (8 * 1 + 3)) ∧ Accepted halted 0 .DBG_SNAP 0 (withBit 0x1000 0) ∧
    isOk (halted.writeDva 0 .moverWr 0x1000 (halted.snapshot 0)).2 = true :=
  ⟨accepted (by decide +kernel), by decide +kernel, ⟨accepted (by decide +kernel), by decide +kernel⟩, by decide +kernel,
    accepted (by decide +kernel), accepted (by decide +kernel), accepted (by decide +kernel), by decide +kernel⟩

/-- The address of a load or store at RA + IMM of core 0. -/
def addr0 (w : Word) (f : Part → Part := id) : Nat :=
  (((meets0 w f).core 0).gr (fB w) + (BitVec.ofNat 32 (immOf w)).signExtend 64).toNat

/-- Bank 0 filling. -/
def filling (p : Part) : Part := p.setBank 0 { p.bank 0 with st := .filling }

/-- Engine 0 stopped. -/
def engineDown (p : Part) : Part := p.setEngine 0 { p.engine 0 with stopped := true }

theorem witness_LoadsReadTheTileStore :
    (∀ w ∈ [word 0x0F 3 1 0 0, word 0x17 3 1 0 0, word 0x0F 3 4 0 0, word 0x17 3 4 0 0, word 0x0F 3 5 0 0, word 0x17 3 5 0 0,
      word 0x0F 3 0 0 0xB00000, word 0x17 3 0 0 0xB00000], Begins w) ∧
    (∀ w ∈ [word 0x0F 3 4 0 0, word 0x17 3 4 0 0], Begins w filling) ∧
    (∀ w ∈ [word 0x0F 3 4 0 0, word 0x17 3 4 0 0], Begins w engineDown) ∧
    (addr0 (word 0x0F 3 1 0 0) = 0x40 ∧ addr0 (word 0x17 3 1 0 0) = 0x40 ∧
      (meets0 (word 0x0F 3 1 0 0)).wordKeys (tileBase 0 + 0x40) 8 = [] ∧
      (meets0 (word 0x17 3 1 0 0)).wordKeys (tileBase 0 + 0x40) 16 = []) ∧
    (windowOf 0 (addr0 (word 0x0F 3 4 0 0)) 8 = some (0, 16) ∧ windowOf 0 (addr0 (word 0x17 3 4 0 0)) 16 = some (0, 16) ∧
      addr0 (word 0x17 3 4 0 0) % 16 = 0 ∧
      (∀ f ∈ [id, filling], ((meets0 (word 0x0F 3 4 0 0) f).engine ((meets0 (word 0x0F 3 4 0 0) f).engineOfBank 0)).stopped = false) ∧
      ((meets0 (word 0x0F 3 4 0 0)).bank 0).st ≠ .filling ∧ ((meets0 (word 0x0F 3 4 0 0) filling).bank 0).st = .filling ∧
      ((meets0 (word 0x17 3 4 0 0) filling).bank 0).st = .filling ∧
      ((meets0 (word 0x17 3 4 0 0) engineDown).engine ((meets0 (word 0x17 3 4 0 0) engineDown).engineOfBank 0)).stopped = true) ∧
    (((meets0 (word 0x0F 3 5 0 0)).core 0).phase = .running 3 ∧ addr0 (word 0x0F 3 5 0 0) % 8 ≠ 0 ∧
      addr0 (word 0x17 3 5 0 0) % 16 ≠ 0 ∧ inData (addr0 (word 0x17 3 0 0 0xB00000)) 16 = false ∧
      windowOf 0 (addr0 (word 0x17 3 0 0 0xB00000)) 16 = none) := by
  refine ⟨all_begin (by decide +kernel), all_begin (by decide +kernel), all_begin (by decide +kernel), by decide +kernel,
    ⟨by decide +kernel, by decide +kernel, by decide +kernel, ?_, by decide +kernel⟩, by decide +kernel⟩
  intro f hf
  simp only [List.mem_cons, List.not_mem_nil, or_false] at hf
  rcases hf with rfl | rfl <;> decide +kernel

/-- An open span whose record guards its shadow area from address 0 of the tile store. -/
def guarding (p : Part) : Part :=
  p.modCore 0 (fun x => { x with span := some ⟨0, [], [], 0, 0, false, leBytes 8 (2 ^ 63), [], 0, [], [], 0, false, false, 0, [], []⟩ })

theorem witness_StoresWriteTheTileStore :
    (∀ w ∈ [word 0x10 3 1 0 0, word 0x18 3 1 0 0, word 0x10 3 4 0 0, word 0x18 3 4 0 0, word 0x10 3 5 0 0, word 0x18 3 5 0 0,
      word 0x10 3 0 0 0xB00000, word 0x18 3 0 0 0xB00000], Begins w) ∧
    (∀ w ∈ [word 0x10 3 4 0 0, word 0x18 3 4 0 0], Begins w filling) ∧
    (∀ w ∈ [word 0x10 3 1 0 0, word 0x18 3 1 0 0], Quiet (meets0 w) 0 w ∧ (meets0 w).follower 0 = none ∧ addr0 w = 0x40 ∧
      (meets0 w).wordKeys (tileBase 0 + 0x40) 16 = [] ∧ (meets0 w).guardHit 0 0x40 16 = false ∧
      (meets0 w).wordKeys (tileBase 0 + 0x40) 8 = [] ∧ (meets0 w).guardHit 0 0x40 8 = false) ∧
    (((meets0 (word 0x10 3 4 0 0)).bank 0).st = .empty ∧ ((meets0 (word 0x18 3 4 0 0) filling).bank 0).st = .filling ∧
      windowOf 0 (addr0 (word 0x10 3 4 0 0)) 8 = some (0, 16) ∧ windowOf 0 (addr0 (word 0x18 3 4 0 0)) 16 = some (0, 16) ∧
      ((meets0 (word 0x10 3 4 0 0)).engine ((meets0 (word 0x10 3 4 0 0)).engineOfBank 0)).stopped = false) ∧
    (((meets0 (word 0x10 3 5 0 0)).core 0).phase = .running 3 ∧ addr0 (word 0x10 3 5 0 0) % 8 ≠ 0 ∧
      addr0 (word 0x18 3 5 0 0) % 16 ≠ 0 ∧ inData (addr0 (word 0x10 3 0 0 0xB00000)) 8 = false ∧
      windowOf 0 (addr0 (word 0x10 3 0 0 0xB00000)) 8 = none) ∧
    (∀ w ∈ [word 0x10 3 1 0 0, word 0x18 3 1 0 0], Begins w guarding) ∧
    ((meets0 (word 0x10 3 1 0 0) guarding).guardHit 0 0x40 8 = true ∧ (meets0 (word 0x18 3 1 0 0) guarding).guardHit 0 0x40 16 = true) := by
  refine ⟨all_begin (by decide +kernel), all_begin (by decide +kernel), ?_, by decide +kernel, by decide +kernel,
    all_begin (by decide +kernel), by decide +kernel⟩
  intro w hw
  simp only [List.mem_cons, List.not_mem_nil, or_false] at hw
  rcases hw with rfl | rfl <;>
    exact ⟨fun h => absurd h (by decide +kernel), by decide +kernel, by decide +kernel, by decide +kernel, by decide +kernel,
      by decide +kernel, by decide +kernel⟩

/-- A word of each queued instruction. -/
def queuedWords : List Word :=
  ([0x20, 0x21, 0x22, 0x23, 0x24, 0x25, 0x26, 0x31, 0x32, 0x33, 0x34, 0x77] : List Nat).map (fun o => word o 0 0 0 0) ++ [word 0x30 16 0 0 0, word 0x60 1 0 0 0] ++
  ([0x40, 0x41, 0x42, 0x43, 0x46, 0x47, 0x48, 0x49] : List Nat).map (fun o => word o 1 2 3 0) ++
  ([0x44, 0x45, 0x4A, 0x50, 0x51, 0x52, 0x53, 0x58, 0x59, 0x5A, 0x5B, 0x5C, 0x5D, 0x61, 0x62, 0x68, 0x69, 0x6A, 0x6B, 0x6C] :
    List Nat).map (fun o => word o 1 2 0 0)

theorem witness_QueuedInstructionsEnterTheirQueue :
    (∀ w ∈ queuedWords, Meets w) ∧
    (∀ u ∈ [EUnit.me0, .me1, .ve, .mover], ∀ w ∈ queuedWords, (((meets0 w).core 0).queue u).length < 32) ∧
    (∀ w ∈ queuedWords, ((meets0 w).core 0).stepping = false ∧ ((meets0 w).core 0).span = none ∧ fB w ≠ 31 ∧
      ((meets0 w).core 0).deny = false ∧ (meets0 w).get Fld.REPRO_CTRL.FORCE_DENY_ORDER_DEP 0 = 0) := by
  have h : queuedWords.all (fun w => ([EUnit.me0, .me1, .ve, .mover] : List EUnit).all (fun u =>
      decide ((((meets0 w).core 0).queue u).length < 32))) = true := by decide +kernel
  have k : queuedWords.all (fun w => decide (((meets0 w).core 0).stepping = false ∧ ((meets0 w).core 0).span = none ∧ fB w ≠ 31 ∧
      ((meets0 w).core 0).deny = false ∧ (meets0 w).get Fld.REPRO_CTRL.FORCE_DENY_ORDER_DEP 0 = 0)) = true := by decide +kernel
  exact ⟨all_meet (by decide +kernel),
    fun u hu w hw => of_decide_eq_true (List.all_eq_true.mp (List.all_eq_true.mp h w hw) u hu),
    fun w hw => of_decide_eq_true (List.all_eq_true.mp k w hw)⟩

/-- ACC.CLR of bank 0 on engine 0, waiting for counter 5. -/
def clr : QEntry := entry (word 0x30 0 0 0 (2 ^ 55 + 5 * 2 ^ 49))

/-- V.ADD of two scalars into a 1 x 1 FP32 tile at 0x100. -/
def addScalars : QEntry :=
  { entry (word 0x40 1 2 3 (2 ^ 21 + 2 ^ 20 + 2 ^ 19)) with
    tds := [BitVec.ofNat 128 (4 * 2 ^ 64 + 2 ^ 40 + 2 ^ 24 + 0x100)], gs := [0x3F800000, 0x40000000, 0] }

/-- V.ABS of a 1 x 1 FP32 tile. -/
def absTile : QEntry :=
  { entry (word 0x44 1 2 0 0) with
    tds := [BitVec.ofNat 128 (4 * 2 ^ 64 + 2 ^ 40 + 2 ^ 24 + 0x100), BitVec.ofNat 128 (4 * 2 ^ 64 + 2 ^ 40 + 2 ^ 24), 0, 0], gs := [0, 0, 0, 0, 0] }

theorem witness_QueueHeadsIssueAndComplete :
    (let p := (up.modCore 0 (fun x => { x with tc := [(5, 1)] })).modCore 0 (fun x => (x.setQueue .me0 [clr]).setQueue .me1
        [{ clr with word := clr.word ||| (2 ^ 41 : Nat) }])
     p.ready = true ∧ (p.core 0).deciding = false ∧ p.follower 0 = none ∧
      (p.core 0).queue .me1 = [{ clr with word := clr.word ||| (2 ^ 41 : Nat) }] ∧ waitEn (clr.word ||| (2 ^ 41 : Nat)) = true ∧
      p.remainder 0 (waitTok (clr.word ||| (2 ^ 41 : Nat))) .me1 = 0) ∧
    (let p := (rich up).modCore 0 (fun x => x.setQueue .me0 [clr])
     p.ready = true ∧ (p.core 0).deciding = false ∧ p.follower 0 = none ∧ (p.core 0).queue .me0 = [clr] ∧ opOf clr.word = 0x30 ∧
      engOf clr.word = bnat false ∧ (p.engine (p.physEng 0 (bnat false))).stopped = false ∧ p.waitOk 0 clr.word = true ∧
      p.remainder 0 (waitTok clr.word) .me0 ≠ 0 ∧ (p.core 0).portBusy .me0 = false ∧
      p.engineGone 0 (bnat false) = false ∧ (p.bank (bankNo 0 clr.word)).st = .empty) ∧
    (let p := up.modCore 0 (fun x => x.setQueue .ve [absTile])
     (p.core 0).queue .ve = [absTile] ∧ (p.ve (p.phys 0)).stopped = false ∧ p.waitOk 0 absTile.word = true ∧
      waitEn absTile.word = false ∧ (p.core 0).flying .ve = [] ∧ p.coreRetired 0 = false ∧ vCheck p (dieOf 0) absTile = none) ∧
    (let e := entry (word 0x30 0 0 0 0)
     let p := (up.modCore 0 (fun x => x.setFlying .me0 [⟨e, none, none, .run⟩])).setBank 0 { Bank.reset with st := .filling }
     (p.core 0).flying .me0 = [⟨e, none, none, .run⟩] ∧ sigEn e.word = false ∧ e.inSpan = false ∧ engOf e.word = bnat false ∧
      (p.engine (p.physEng 0 (bnat false))).stopped = false ∧ (p.bank (bankNo 0 e.word)).st = .filling) ∧
    (let e := addScalars
     let o := tileOf (e.tds.getD 0 0)
     let p := up.modCore 0 (fun x => x.setFlying .ve [⟨e, none, none, .run⟩])
     (p.core 0).flying .ve = [⟨e, none, none, .run⟩] ∧ aSc e.word = true ∧ bSc e.word = true ∧ cSc e.word = true ∧ o.rows = 1 ∧ o.cols = 1 ∧
      o.fmt = 0 ∧ o.kind = 0 ∧ o.base + 4 ≤ 0xA0_0000 ∧ vStat e.word = false ∧ roundOf (vConv e.word) = 0 ∧
      p.get Fld.VE_CTRL.NF_TRAP 0 = 0 ∧ (p.ve (p.phys 0)).stopped = false ∧ sigEn e.word = false ∧ e.inSpan = false ∧ p.upsets = []) := by
  decide +kernel

/-- Job time valid at a reference part. -/
def timed (p : Part) : Part := (p.put Fld.TIME_CTRL.ROLE 0 1).put Fld.TIME_STATUS.JOB_TIME_VALID 0 1

theorem witness_SequencerWaits :
    (∀ w ∈ [word 0x70 0 0 0 (2 ^ 55 + 5 * 2 ^ 49 + 3), word 0x70 0 0 0 (2 ^ 55 + 5 * 2 ^ 49 + 4), word 0x70 0 0 0 (2 ^ 55), word 0x72 0 0 0 0,
      word 0x73 0 0 0 0, word 0x78 1 0 0 0], Meets w) ∧
    (∀ w ∈ [word 0x78 1 0 0 0, word 0x78 2 0 0 0], Meets w timed) ∧
    (let w := word 0x70 0 0 0 (2 ^ 55 + 5 * 2 ^ 49 + 3)
     (meets0 w).spanCheck 0 w 0 = none ∧ ((meets0 w).core 0).stepping = false ∧ waitEn w = true ∧ countOf w = 3 ∧ sigEn w = false ∧
      ((meets0 w).core 0).token (waitTok w) = 3 ∧ countOf (word 0x70 0 0 0 (2 ^ 55 + 5 * 2 ^ 49 + 4)) = 4 ∧
      countOf (word 0x70 0 0 0 (2 ^ 55)) = 0) ∧
    (let w := word 0x73 0 0 0 0
     (meets0 w).waitOk 0 w = true ∧ (meets0 w).spanCheck 0 w 0 = none ∧ ((meets0 w).core 0).movesPending = false ∧
      ((meets0 w (fun p => p.modCore 0 (fun x => x.setQueue .mover [entry (word 0x60 1 0 0 0)]))).core 0).movesPending = true) ∧
    (let w := word 0x72 0 0 0 0
     ((meets0 w).get Fld.MEM_STATUS.REMOTE_EPOCH 0 + 1) % 2 ^ 16 ≠ 0 ∧
      ((meets0 w (fun p => p.put Fld.MEM_STATUS.REMOTE_EPOCH 0 0xFFFF)).get Fld.MEM_STATUS.REMOTE_EPOCH 0 + 1) % 2 ^ 16 = 0) ∧
    (let w := word 0x78 1 0 0 0
     (meets0 w).jobValid = false ∧ (meets0 w timed).jobValid = true ∧ (meets0 w timed).waitOk 0 w = true ∧
      (meets0 w timed).spanCheck 0 w 0 = none ∧ (((meets0 w timed).core 0).gr (fA w)).toNat ≤ (meets0 w timed).jobTimeOn (dieOf 0) ∧
      (meets0 w timed).jobTimeOn (dieOf 0) < (((meets0 w timed).core 0).gr 2).toNat) ∧
    (let w := word 0x78 1 0 0 0
     let p := (timed up).modCore 0 (fun x => { x with hold := .launch w 6000 })
     p.ready = true ∧ (p.core 0).hold = .launch w 6000 ∧ p.jobValid = true ∧ sigEn w = false ∧ (p.core 0).stepping = false ∧
      (let p := (timed up).modCore 0 (fun x => { x with hold := .launch w 4000 })
       4000 ≤ p.jobTimeOn (dieOf 0) ∧ 4000 ≤ p.jobTime)) :=
  ⟨all_meet (by decide +kernel), all_meet (by decide +kernel), by decide +kernel, by decide +kernel, by decide +kernel, by decide +kernel,
    by decide +kernel⟩

/-- SIG to counter 40 of core 9 of this part, 3 up; and the same with an amount of 0. -/
def sigTo (amount : Nat) (p : Part) : Part :=
  p.modCore 0 (fun x => { x with g := [(1, BitVec.ofNat 64 (0xFFFF + 9 * 2 ^ 16 + 40 * 2 ^ 32 + amount * 2 ^ 40))] })

def spanNow : SpanSt := ⟨0, [], [], 0, 0, false, [], [], 0, [], [], 0, false, false, 0, [], []⟩

def inSpan (p : Part) : Part := p.modCore 0 (fun x => { x with span := some spanNow })

/-- SIG to counter 8 of core 9 of node 9, with and without a route. -/
def sigAway (routed : Bool) (p : Part) : Part :=
  (if routed then linked p else p).modCore 0 (fun x => { x with g := [(1, BitVec.ofNat 64 (9 + 9 * 2 ^ 16 + 8 * 2 ^ 32 + 3 * 2 ^ 40))] })

theorem witness_SignalsReachTheirCounter :
    (let w := word 0x71 1 0 0 0
     let q := meets0 w (sigTo 3)
     let v := (q.core 0).gr (fA w)
     Meets w (sigTo 3) ∧ (q.spanCheck 0 w 1 = none ∧ q.waitOk 0 w = true ∧ (q.core 0).stepping = false ∧ opOf w = 0x71 ∧ waitEn w = false ∧
      sigFieldsOk v = true ∧ (q.core 0).span = none ∧ q.isSelf (sigNode v) = true ∧ q.sigCheck (sigCore v) (sigTokOf v) (sigAmount v) = .ok)) ∧
    (let w := word 0x71 1 0 0 0
     let q := meets0 w (fun p => (sigTo 3 p).put Fld.PD_STATUS.ON 0 (2 ^ 40 - 3))
     let v := (q.core 0).gr (fA w)
     Meets w (fun p => (sigTo 3 p).put Fld.PD_STATUS.ON 0 (2 ^ 40 - 3)) ∧ q.sigCheck (sigCore v) (sigTokOf v) (sigAmount v) ≠ .ok ∧
      (q.core 0).phase = .running 3) ∧
    (let w := word 0x71 1 0 0 0
     let q := meets0 w (fun p => inSpan (sigTo 3 p))
     Meets w (fun p => inSpan (sigTo 3 p)) ∧ q.spanCheck 0 w 1 = none ∧ (q.core 0).span = some spanNow) ∧
    (∀ b, b = true ∨ b = false →
     let w := word 0x71 1 0 0 0
     let q := meets0 w (sigAway b)
     let v := (q.core 0).gr (fA w)
     Meets w (sigAway b) ∧ q.spanCheck 0 w 1 = none ∧ sigFieldsOk v = true ∧ (q.core 0).span = none ∧ q.isSelf (sigNode v) = false ∧
      (((((q.takeWait 0 w).nextOrder 0).1.countHeld 0 (heldBy w)).endSends (.sig 0)).sendSig 0 (sigNode v) (sigCore v) (sigTokOf v)
        (sigAmount v) (.sig 0)).2 = b) ∧
    (let w := word 0x71 1 0 0 0
     let q := meets0 w (sigTo 0)
     Meets w (sigTo 0) ∧ sigFieldsOk ((q.core 0).gr (fA w)) = false ∧ (q.core 0).phase = .running 3) := by
  refine ⟨⟨dispatches (by decide +kernel), by decide +kernel⟩, ⟨dispatches (by decide +kernel), by decide +kernel⟩,
    ⟨dispatches (by decide +kernel), by decide +kernel⟩, ?_, dispatches (by decide +kernel), by decide +kernel⟩
  rintro b (rfl | rfl) <;> exact ⟨dispatches (by decide +kernel), by decide +kernel⟩

/-- A FULL bank, and a record at 0x40 that saves the banks at 0x10000. -/
def saving (p : Part) : Part := (p.setBank 1 { Bank.reset with st := .full }).setBytes (tileBase 0 + 0x40) (leBytes 8 (2 ^ 63 + 0x10000))

def busyCore (p : Part) : Part := p.modCore 0 (fun x => x.setQueue .mover [entry (word 0x60 1 0 0 0)])

/-- Whether the saving of SPAN.BEGIN of core 0, whose record lies at 0x40, ends well. -/
def savesWell (q : Part) : Bool :=
  let l := q.bytes (tileBase 0 + 0x40) 128
  let save := fieldAt l 0 8
  isOk ((if bit save 63 then q.saveBanks 0 (bits save 23 0) else q).saveCopies 0 (bits (fieldAt l 8 8) 47 0) ((spanRanges l).filter isCopy)).2

theorem witness_SpansOpenAndCommit :
    (∀ f, f = id ∨ f = saving →
     let w := word 0x74 1 0 0 0
     let q := meets0 w f
     let a := ((q.core 0).gr (fA w)).toNat
     Meets w f ∧ ((q.core 0).stepping = false ∧ q.waitOk 0 w = true ∧ q.get Fld.TANDEM_STATUS.HALTED 0 = 0 ∧
      (q.core 0).span = none ∧ (q.core 0).quiet = true ∧ a = 0x40 ∧ a % 64 = 0 ∧ a + 128 ≤ 0xA0_0000 ∧ q.wordKeys (tileBase 0 + a) 128 = [] ∧
      ((q.fullBanks 0).any id = true → bit (fieldAt (q.bytes (tileBase 0 + a) 128) 0 8) 63 = true) ∧
      spanRecordOk (q.bytes (tileBase 0 + a) 128) = true ∧ savesWell q = true)) ∧
    (let w := word 0x74 1 0 0 0
     Meets w inSpan ∧ spanNow.replaying = false ∧ ((meets0 w inSpan).core 0).phase = .running 3) ∧
    (let w := word 0x74 1 0 0 0
     let f := fun (p : Part) => p.modCore 0 (fun x => { x with span := some { spanNow with replaying := true } })
     Meets w f ∧ ((meets0 w f).core 0).span = some { spanNow with replaying := true }) ∧
    (let w := word 0x75 0 0 0 0
     let q := meets0 w inSpan
     Meets w inSpan ∧ (q.core 0).quiet = true ∧ waitEn w = false ∧ spanNow.held = [] ∧ (q.core 0).intervals = []) ∧
    (let w := word 0x75 0 0 0 0
     Meets w ∧ ((meets0 w).core 0).span = none ∧ ((meets0 w).core 0).phase = .running 3) ∧
    (Meets (word 0x74 1 0 0 0) busyCore ∧ Meets (word 0x75 0 0 0 0) (fun p => inSpan (busyCore p)) ∧
      ((meets0 (word 0x74 1 0 0 0) busyCore).core 0).quiet = false) := by
  refine ⟨?_, ⟨dispatches (by decide +kernel), by decide +kernel⟩, ⟨dispatches (by decide +kernel), by decide +kernel⟩,
    ⟨dispatches (by decide +kernel), by decide +kernel⟩, ⟨dispatches (by decide +kernel), by decide +kernel⟩,
    dispatches (by decide +kernel), dispatches (by decide +kernel), by decide +kernel⟩
  rintro f (rfl | rfl) <;> exact ⟨dispatches (by decide +kernel), by decide +kernel⟩

/-- Slot 3 of cluster 0 with a COMPLETION that names counter 40 of core 9, 3 up; and with cluster 1 switched off. -/
def completing (p : Part) : Part :=
  p.setSlot 0 3 { p.slot 0 3 with desc := List.replicate 56 0 ++ leBytes 8 (2 ^ 63 + 9 * 2 ^ 22 + 40 * 2 ^ 16 + 3) }

def completingOff (p : Part) : Part := (completing p).put Fld.PD_STATUS.ON 0 (2 ^ 40 - 3)

theorem witness_TaskEndFreesItsSlot :
    let w := word 0x76 0 0 0 0
    (∀ f, f = id ∨ f = completing ∨ f = completingOff →
      let q := meets0 w f
      Meets w f ∧ (q.core 0).stepping = false ∧ q.waitOk 0 w = true ∧ q.get Fld.TANDEM_STATUS.HALTED 0 = 0 ∧ (q.core 0).phase = .running 3 ∧
        (q.core 0).quiet = true ∧ (q.core 0).span = none) ∧
    bit (descCompletion ((meets0 w).slot (clusterOf 0) 3).desc) 63 = false ∧
    (let v := descCompletion ((meets0 w completing).slot (clusterOf 0) 3).desc
     bit v 63 = true ∧ (meets0 w completing).sigCheck (bits v 29 22) (bits v 21 16) (bits v 7 0) = .ok ∧
      (meets0 w completingOff).sigCheck (bits v 29 22) (bits v 21 16) (bits v 7 0) ≠ .ok) ∧
    (Meets w busyCore ∧ ((meets0 w busyCore).core 0).quiet = false ∧ ((meets0 w busyCore).core 0).span = none) ∧
    (Meets w inSpan ∧ ((meets0 w inSpan).core 0).span.isSome = true) := by
  refine ⟨?_, by decide +kernel, by decide +kernel, ⟨dispatches (by decide +kernel), by decide +kernel⟩, dispatches (by decide +kernel),
    by decide +kernel⟩
  rintro f (rfl | rfl | rfl) <;> exact ⟨dispatches (by decide +kernel), by decide +kernel⟩

theorem witness_IllegalInstructionsFaultAtDispatch :
    ([word 0xFF 0 0 0 0, word 0x00 1 0 0 0, word 0x01 1 0 0 1] : List Word).all (fun w =>
      let p := (meeting w).met
      p.ready && p.canDispatch 0 && (match (p.fetch 0).2 with | .ok v => decide (v = w) | _ => false) &&
        decide (p.haltsBefore 0 w = none) && illegal w && decide (((p.fetch 0).1.core 0).phase = .running 3)) = true := by
  decide +kernel

/-- Engine 3 (the second engine of core 1) changed. -/
def eng3 (f : EngineSt → EngineSt) (p : Part) : Part := p.setEngine 3 (f (p.engine 3))

/-- Engine 3 in a gap, or at work; and the same die with a step of engine 5 held in each direction. -/
def gapping (window : Bool) (p : Part) : Part := eng3 (fun x => { x with level := 5, gap := true, window := window }) p
def atWork (p : Part) : Part :=
  eng3 (fun x => { x with level := 7 }) (p.modCore 1 (fun x => x.setFlying .me1 [⟨entry (word 0x20 16 0 0 0), none, none, .run⟩]))
def holdsSteps (p : Part) : Part := p.setEngine 5 { p.engine 5 with level := 4, held := [true, false] }

def grantedB (p : Part) (rise : Bool) : Bool :=
  p.ledgerFits 0 (p.ledgerSum 0 + (if rise then 1 else -1)) && !p.heldDir 0 rise

theorem witness_KeeperStepsByOneEighth :
    (∀ f ∈ [id, holdsSteps], (f up).ready = true ∧ (f up).physEng 1 1 = 3 ∧
      (f (gapping true up)).get Fld.ME_CTRL.KEEPER_HOLD 3 = 0 ∧ ((f (gapping true up)).engine 3).gap = true ∧
      ((f (gapping true up)).engine 3).window = true ∧ ((f (gapping true up)).engine 3).fallen ≠ 0 ∧
      ((f (gapping false up)).engine 3).window = false ∧ ((f (gapping false up)).engine 3).fallen ≠ 0 ∧
      (f (atWork up)).hasWork 1 1 = true ∧ ((f (atWork up)).engine 3).risen < 8 ∧ ((f (atWork up)).engine 3).stopped = false) ∧
    (grantedB (gapping true up) false = true ∧ grantedB (gapping false up) false = true ∧ grantedB (atWork up) true = true) ∧
    (grantedB (holdsSteps (gapping true up)) false = false ∧ grantedB (holdsSteps (gapping false up)) false = false ∧
      grantedB (holdsSteps (atWork up)) true = false) ∧
    ((eng3 (fun x => { x with level := 7, held := [true, false] }) up).heldEngines 0 = [3] ∧
      (eng3 (fun x => { x with level := 7, held := [false] }) up).heldEngines 0 = [3] ∧ (up.die 0).lsaAt + 2000 < 2 ^ 64) ∧
    (let p := dieUp (fun x => { x with lsa := true, lsaAt := 4000, lsaEnd := 4500, ledger := [(4600, true)] })
     (p.die 0).lsa = true ∧ (p.die 0).stretch = false ∧ p.heldEngines 0 = [] ∧ (p.die 0).lsaEnd + 2000 < 2 ^ 64 ∧
      p.ledgerEnd 0 + 2000 < 2 ^ 64) := by
  refine ⟨?_, by decide +kernel, by decide +kernel, by decide +kernel, by decide +kernel⟩
  intro f hf
  simp only [List.mem_cons, List.not_mem_nil, or_false] at hf
  rcases hf with rfl | rfl <;> decide +kernel

/-- A load of an accumulator window, and a relay instruction. -/
def windowLoad : Word := word 0x0F 3 4 0 0
def relaySend : QEntry := entry (word 0x33 0 0 0 0)

/-- Core 1 works on slot 4; MTX.EQC runs on its second engine, V.ADD on its vector engine. -/
def working (p : Part) : Part :=
  (p.setCore 1 ((({ CoreSt.reset with phase := .running 4 }).setFlying .me1 [⟨entry (word 0x25 16 0 0 0), none, none, .run⟩]).setFlying .ve
    [⟨addScalars, none, none, .run⟩])).setSlot 0 4 ⟨.running, List.replicate 64 0, 0, 0, 0, 0, 0⟩

theorem witness_WindowsStopsAndRelayLimits :
    (let p := (rich (running up windowLoad)).modCore 0 (fun x => { x with hold := .window windowLoad })
     p.ready = true ∧ (p.core 0).hold = .window windowLoad ∧ opOf windowLoad = 0x0F ∧ sigEn windowLoad = false ∧
      (p.core 0).stepping = false ∧ p.tsAddr 0 windowLoad % 8 = 0 ∧ windowOf 0 (p.tsAddr 0 windowLoad) 8 = some (0, 16) ∧
      (p.engine (p.engineOfBank 0)).stopped = false ∧ (p.bank 0).st ≠ .filling) ∧
    (EngineFault.clocking ≠ .registers ∧ (up.engine (up.physEng 1 1)).stopped = false ∧ (up.core (up.issuer 1)).flying .me1 = []) ∧
    (((working up).engine ((working up).physEng 1 1)).stopped = false ∧
      ((working up).core ((working up).issuer 1)).flying .me1 = [⟨entry (word 0x25 16 0 0 0), none, none, .run⟩] ∧
      ((working up).core ((working up).issuer 1)).phase = .running 4 ∧ ((working up).core 1).phase = .running 4) ∧
    ((up.ve (up.phys 0)).stopped = false ∧ (up.core (up.issuer 0)).flying .ve = []) ∧
    (((working up).ve ((working up).phys 1)).stopped = false ∧
      ((working up).core ((working up).issuer 1)).flying .ve = [⟨addScalars, none, none, .run⟩]) ∧
    (∀ st, st = FlySt.relayWait ∨ st = FlySt.relayAsk →
     let f : Fly := ⟨relaySend, some { Bank.reset with st := .full }, none, st⟩
     let p := ((running up relaySend.word).modCore 0 (fun x => x.setFlying .me0 [f])).put Fld.RELAY_CTRL.RELAY_WAIT_LIMIT 0 5
     (p.core 0).flying .me0 = [f] ∧ engOf f.e.word = bnat false ∧ isRelay f.e = true ∧ f.st = st ∧ p.follower 0 = none ∧
      f.prior = some { Bank.reset with st := .full } ∧ (p.core 0).phase = .running 3 ∧
      p.get Fld.RELAY_CTRL.RELAY_WAIT_LIMIT (clusterOf 0) ≠ 0) := by
  refine ⟨by decide +kernel, by decide +kernel, by decide +kernel, by decide +kernel, by decide +kernel, ?_⟩
  rintro st (rfl | rfl) <;> decide +kernel

/-- A READY task for any core in slot 5 of cluster 0. -/
def offering : Part :=
  (up.put Fld.DIST_CTRL.ENABLE 0 1).setSlot 0 5 ⟨.ready, List.replicate 0x14 0 ++ [0xFF] ++ List.replicate 43 0, 0, 0, 0, 0, 0⟩

theorem witness_TasksAreReadiedPulledAndStarted :
    (let p := (up.setCore 0 { CoreSt.reset with watches := [⟨1, 5, 0, 40, 3, true⟩] }).setSlot 1 5
        ⟨.waiting, List.replicate 0x15 0 ++ [1] ++ List.replicate 42 0, 0, 0, 0, 0, 0⟩
     p.ready = true ∧ (p.core 0).watches = [⟨1, 5, 0, 40, 3, true⟩] ∧ (p.slot 1 5).st = .waiting ∧
      (p.slot 1 5).met ||| 2 ^ 0 = 2 ^ descPre (p.slot 1 5).desc - 1) ∧
    (offering.mayPull 0 = true ∧ (offering.core 0).quiet = true ∧ (offering.core 0).helperFor = none ∧ offering.pullSlot 0 = some 5 ∧
      offering.lowerTakes 0 5 = false ∧ offering.gaitOn (clusterOf 0) = false) ∧
    (offering.mayPull 2 = true ∧ (offering.core 2).quiet = true ∧ (offering.core 2).helperFor = none ∧ offering.pullSlot 2 = some 5 ∧
      offering.lowerTakes 2 5 = true) ∧
    ((up.setCore 0 { CoreSt.reset with phase := .pulled 5 }).core 0).phase = .pulled 5 := by
  decide +kernel

theorem witness_ScrubberCorrectsOrReports :
    (up.ready = true ∧ up.upsets = [] ∧ whereIs (8 * 5) = .hbm 0) ∧
    (Instr.wf (.scrubPass 0 [⟨0, 0, 0, none, 0⟩]) = true ∧ (dieUp (fun x => { x with tlb := [leafAt 0] })).upsets = []) ∧
    (∀ i : Fin 64, Instr.wf (.scrubPass 0 [⟨5, BitVec.ofNat 64 (2 ^ i.val), 0, none, 1⟩]) = true) ∧
    (∀ i : Fin 28, Instr.wf (.scrubPass 0 [⟨5, 0, 0, some (up.wordAddr 5 ^^^ BitVec.ofNat 28 (2 ^ i.val)), 1⟩]) = true) := by
  decide +kernel

/-- A handle of one page in a state, its copy in the transfer table: frame at 2 MiB, chunk 2. -/
def handleIn (st : HandleSt) : Handle := ⟨st, 0x40000000, 1, [0x200000], [2], true, false, false, false, 0, 0, 0, true⟩

/-- A die with a reserve behind port 0 and handle 0. -/
def paging (st : HandleSt) : Part :=
  { (up.put Fld.PAGER_RESERVE.SIZE_2M 0 10).put Fld.PAGER_RESERVE.BASE 0 (0x4000_0000_0000 / 2 ^ 21) with handles := [(0, handleIn st)] }

def linkless (st : HandleSt) : Part := (paging st).put Fld.HOST_PORT_STATUS.LINK_UP 0 0

/-- An update pass on its way. -/
def passAt (wait : Option Nat) : Pass := ⟨[], [], 0, true, 0, 0, 0, 0, false, 0, 0, 0, [], wait, 4000, 0, 0⟩

theorem witness_PagerMovesHandles :
    (let p := (paging .offloading).put Fld.PAGER_CTRL.DEMAND_EN 0 0
     p.ready = true ∧ (p.handle 0).st = .offloading ∧ (p.handle 0).entry = true ∧ p.reserveUp 0 = true ∧ p.upsets = [] ∧
      (p.die 0).pgWait = [] ∧ p.get Fld.PAGER_CTRL.DEMAND_EN 0 = 0 ∧ (p.handle 0).frames = [0x200000] ∧ (p.handle 0).chunks = [2] ∧
      whereIs (p.chunkPa 0 2) = .host 0 0x400000 ∧ 0x400000 + 2 ^ 21 ≤ 2 ^ 44 ∧ Memory.wf p = true ∧
      (p.copyOut 0 ((p.handle 0).frames.zip (p.handle 0).chunks)).2 = true) ∧
    (((linkless .offloading).handle 0).st = .offloading ∧ (linkless .offloading).reserveUp 0 = false ∧
      ((linkless .prefetching).handle 0).st = .prefetching ∧ (linkless .prefetching).reserveUp 0 = false ∧
      ((linkless .offloading).die 0).pgWait = []) ∧
    (((paging .prefetching).handle 0).st = .prefetching ∧ ((paging .prefetching).handle 0).entry = true ∧
      (paging .prefetching).reserveUp 0 = true) ∧
    (let p := (((paging .offloaded).setCore 3 { CoreSt.reset with phase := .running 3 }).setSeqWait 3 ⟨some 0, 4000, 0⟩).put
        Fld.PAGER_CTRL.DEMAND_LIMIT_US 0 10
     (p.seqWait 3).on = some 0 ∧ p.get Fld.PAGER_CTRL.DEMAND_LIMIT_US 0 ≠ 0 ∧ (p.core 3).phase = .running 3 ∧
      p.get Fld.TRACE_CTRL.ENABLE (dieOf 3) = 0 ∧ (p.seqWait 3).since + 1000 * p.get Fld.PAGER_CTRL.DEMAND_LIMIT_US 0 < 2 ^ 64) ∧
    (let y := { xferOf 9 (.core 0 addOne) [] with waitHandle := some 0, waitAt := 4000 }
     let p := ((paging .offloaded).modDie 0 (fun x => { x with active := [y] })).put Fld.PAGER_CTRL.DEMAND_LIMIT_US 0 10
     (p.die 0).active.find? (fun z => z.id == 9) = some y ∧ y.waitHandle = some 0) ∧
    (let p := ((paging .offloaded).modDie 0 (fun x => { x with pass := some (passAt (some 0)) })).put Fld.PAGER_CTRL.DEMAND_LIMIT_US 0 10
     (p.die 0).pass = some (passAt (some 0)) ∧ (passAt (some 0)).wait = some 0) := by
  decide +kernel

/-- That add in the transfer table as transfer 9. -/
def adding : Part :=
  ((up.setCore 0 (CoreSt.reset.setFlying .mover [⟨addOne, none, none, .moverRun 9⟩])).modDie 0 (fun x => { x with
    tlb := [leafAt 0], active := [xferOf 9 (.core 0 addOne) []] })).setBytes (tileBase 0) [5]

/-- Whether the blocks of an add end well. -/
def addsWell : MoveOut → Bool
  | .done q x => decide (x.st = .ok) && !q.tandemOn && decide (q.get Fld.TRACE_CTRL.ENABLE 0 = 0)
  | _ => false

/-- A descriptor that moves four FP32 elements from DVA 0x1000 to 0x2000, and the MOV.D that names it at 0x200. -/
def moveDesc : List Byte :=
  bytesWith 128 [(0, 6, 0x1000), (8, 6, 0x2000), (0xE, 2, 0xFFFF), (0x10, 4, 4), (0x14, 4, 1), (0x18, 4, 1), (0x1C, 4, 1), (0x20, 4, 1)]

def moveIt : QEntry := { entry (word 0x60 1 0 0 0) with gs := [0x200] }

/-- The head of the mover queue of core 0 asks die 0 for an entry. -/
def asking (e : QEntry) : Part :=
  ((up.setCore 0 (CoreSt.reset.setQueue .mover [e])).modDie 0 (fun x => { x with waiting := [.core 0 e] })).setBytes (tileBase 0 + 0x200) moveDesc

/-- The pager copy of a handle asks. -/
def copyAsks : Part :=
  ({ paging .offloading with handles := [(0, { handleIn .offloading with entry := false })] } : Part).modDie 0 (fun x => { x with
    waiting := [.copy 0] })

theorem witness_MoverAdmitsAndCompletes :
    (((asking addOne).die 0).waiting.filter (asking addOne).asks).find? ((asking addOne).mayGrant 0) = some (.core 0 addOne) ∧
    (isAtomic addOne = true ∧ atomicAdmit addOne = none) ∧
    ((((asking moveIt).die 0).waiting.filter (asking moveIt).asks).find? ((asking moveIt).mayGrant 0) = some (.core 0 moveIt) ∧
      isAtomic moveIt = false ∧ moveIt.inSpan = false ∧ (asking moveIt).toOther (mdescOf moveDesc) = false ∧
      (let p := asking moveIt
       let ws := (p.die 0).waiting.filter p.asks
       let r := (p.setDie 0 { p.die 0 with waiting := ws }).readLocal 0 (moveIt.gs.getD 0 0).toNat 128
       (match r.2 with | .ok l => decide (l = moveDesc) | _ => false) = true ∧ r.1.mdescCheck moveDesc = none)) ∧
    ((copyAsks.die 0).waiting.filter copyAsks.asks).find? (copyAsks.mayGrant 0) = some (.copy 0) ∧
    ((up.die 0).waiting.filter up.asks).find? (up.mayGrant 0) = none ∧
    ((adding.die 0).active.find? (fun z => z.id == 9) = some (xferOf 9 (.core 0 addOne) []) ∧ adding.follower 0 = none ∧
      addOne.inSpan = false ∧ bit (atCtl addOne) 63 = false ∧ sigEn addOne.word = false ∧
      addsWell ((adding.modXfer 0 9 (fun z => { z with waitHandle := none })).addBlocks 0 0 addOne none ((atomicBlocks addOne).drop 0) 0 []) =
        true) := by
  decide +kernel

/-- A pass descriptor: one instruction at 0x8000, four elements, an FP32 input at 0x10000 and an FP32 output at 0x20000. -/
def passDesc : List Byte := bytesWith 256 [(0, 6, 0x8000), (6, 1, 1), (8, 6, 4), (0x14, 1, 0x11), (0x80, 6, 0x10000), (0xC0, 6, 0x20000)]

/-- Its program: output 0 is input 0. -/
def passProg : List Byte := leBytes 4 (0x0B * 2 ^ 27)

/-- A die whose ring at 0x100000 holds that descriptor, one entry posted. -/
def ringed : Part :=
  ((((((up.put Fld.UPD_RING.ENABLE 0 1).put Fld.UPD_RING.BASE 0 0x100).modDie 0 (fun x => { x with tlb := [leafAt 0] })).setBytes 0x100000
    [1]).setBytes 0x100100 passDesc).setBytes 0x8000 passProg).setBytes 0x10000 [0, 0, 0x80, 0x3F, 0, 0, 0, 0x40]

def ringRead : Part := (ringed.ringHeader 0).1
def descRead : Part := (ringRead.readDva 0 .updRd 0x100100 256).1
def progRead : Part := (descRead.readDva 0 .updRd 0x8000 4).1

/-- The program, decoded. -/
def passInstrs : List UInstr := uInstrs passProg 1

/-- The die with that pass admitted, and with its one round written. -/
def passing : Part := after (.updatePassStart 0) ringed
def passed : Part := after (.updateRoundWrite 0 false) passing

theorem witness_UpdateUnitRunsItsRing_start :
    ringed.ready = true ∧ ringed.ringServed 0 = true ∧ ringed.get Fld.TANDEM_STATUS.HALTED 0 = 0 ∧ (ringed.die 0).pass = none ∧
      (match (ringed.ringHeader 0).2 with | some (.ok x) => decide (x = (1, 0)) | _ => false) = true ∧
      ringRead.readDva 0 .updRd (ringRead.ringBase 0 + 0x100 + 256 * (0 % ringRead.ringSize 0)) 256 = (descRead, .ok passDesc) ∧
      uFieldsOk passDesc = true ∧ uProgram passDesc % 64 = 0 ∧
      descRead.readDva 0 .updRd (uProgram passDesc) (4 * uNInstr passDesc) = (progRead, .ok passProg) ∧
      uEarly passDesc (uAmax passInstrs).isSome = none ∧ uValid passDesc passInstrs = true ∧
      uOverlap (uStreams passDesc passInstrs) = false ∧
      (match (progRead.allPages 0 (uStreams passDesc passInstrs) [] none).2 with
        | .got rs none => decide (rs = [(0x10000, 16), (0x20000, 16)]) | _ => false) = true := by
  decide +kernel

/-- What reading a round leaves, and what readies its outputs. -/
def roundRead : Part × Acc (List (List Nat)) × Nat := passing.readRound 0 passDesc 0 4 [0]

/-- Whether the outputs of the round are ready to be written. -/
def roundReady : Bool :=
  match roundRead.2.1 with
  | .ok rows => (match (roundRead.1.readyRound 0 (uOutputs passDesc (uEval passDesc passInstrs 0
      ((List.range 4).map (fun j => rows.map (fun r => r.getD j 0)))) 0)).2 with
    | .ok none => true
    | _ => false)
  | _ => false

/-- What counting the pass and writing the ring's CONSUMER leave. -/
def countWritten : Part × Acc Unit :=
  (passed.bump Fld.UPD_COUNTS.PASSES_DONE 0 1).writeDva 0 .updWr (passed.ringBase 0 + 8) (leBytes 4 1)

/-- The ring read again after the pass. -/
def ringAfter : Option (Except Status (Nat × Nat)) :=
  (((countWritten.1.modDie 0 (fun y => { y with pass := none, holds := y.holds.filter (fun h => !h.2.2) })).put
    Fld.UPD_STATUS.CONSUMER 0 1).ringHeader 0).2

theorem witness_UpdateUnitRunsItsRing_rounds :
    ((passing.die 0).pass.map (fun x => (x.admitted, x.wait, x.given)) = some (true, none, 0) ∧
      (passing.die 0).pass.map (fun x => (x.stage, x.status, x.done)) = some (0, 0, 0)) ∧
    ((passing.die 0).pass.map (fun x => (uCount x.desc, uNfStop x.desc)) = some (4, false) ∧
      (passing.die 0).pass.map (fun x => (uNIn x.desc, roundLen x.desc (uAmax passInstrs).isSome 0)) = some (1, 4)) ∧
    isOk roundRead.2.1 = true ∧ roundReady = true ∧ passed.bytes 0x20000 8 = [0, 0, 0x80, 0x3F, 0, 0, 0, 0x40] ∧
    ((passed.die 0).pass.map (fun x => (x.admitted, x.wait, x.stage)) = some (true, none, 0) ∧
      (passed.die 0).pass.map (fun x => (x.status, x.done)) = some (0, 4) ∧
      (passed.die 0).pass.map (fun x => (uStatusPtr x.desc, bit (uCompletion x.desc) 63)) = some (0, false)) ∧
    (passed.tandemOn = false ∧ passed.get Fld.TRACE_CTRL.ENABLE 0 = 0 ∧ isOk countWritten.2 = true) ∧
    (match ringAfter with | some (.ok x) => decide (x = (1, 1)) | _ => false) = true := by
  refine ⟨⟨?_, ?_⟩, ⟨?_, ?_⟩, ?_, ?_, ?_, ⟨?_, ?_, ?_⟩, ⟨?_, ?_, ?_⟩, ?_⟩ <;> decide +kernel

/-- Port 7 in a state, enabled. -/
def portIn (st : Nat) : Part := (up.put Fld.PORT_STATUS.STATE 7 st).put Fld.PORT_CTRL.ENABLE 7 1

theorem witness_FabricPortsComeUpAndGoDown :
    (Accepted up 0 .PORT_CTRL 7 (wordOf (2 * 1 + 1)) ∧ up.get Fld.PORT_CTRL.ENABLE 7 = 0 ∧ up.portState 7 = 0) ∧
    (Accepted (portIn 3) 0 .PORT_CTRL 7 (wordOf (2 * 0)) ∧ (portIn 3).portState 7 ≠ 0) ∧
    (Accepted up 0 .PORT_CTRL 7 (wordOf (2 * 0)) ∧ up.portState 7 = 0) ∧
    ((portIn 1).ready = true ∧ (portIn 1).portState 7 = 1 ∧ (portIn 2).portState 7 = 2 ∧ (portIn 3).portState 7 = 3 ∧
      (portIn 4).portState 7 = 4 ∧ ((portIn 2).port 7).probeBad = false ∧
      (({ portIn 2 with ports := [(7, { PortSt.reset with probeBad := true })] } : Part).port 7).probeBad = true ∧
      (({ portIn 2 with ports := [(7, { PortSt.reset with far := some (9, 3) })] } : Part).port 7).far = some (9, 3)) ∧
    (lanesForm 0 0xFFFF ≠ none ∧ lanesForm 0 0 = none) :=
  ⟨⟨accepted (by decide +kernel), by decide +kernel⟩, ⟨accepted (by decide +kernel), by decide +kernel⟩,
    ⟨accepted (by decide +kernel), by decide +kernel⟩, by decide +kernel, by decide +kernel⟩

/-- Banks of every die in the states `b0` and `b1`, at a reference part with a node number. -/
def banks (b0 b1 : Nat) : Part :=
  (List.range 4).foldl (fun (p : Part) d => (p.put Fld.RT_STATUS.BANK0_STATE d b0).put Fld.RT_STATUS.BANK1_STATE d b1)
    (((up.put Fld.TIME_CTRL.ROLE 0 1).put Fld.TIME_STATUS.JOB_TIME_VALID 0 1).put Fld.FAB_NODE.NODE 0 5)

theorem witness_RoutingBanksFlipAtOneMoment :
    (Accepted (banks 0 0) 0 .RT_CTRL 1 (withBit 0 16) ∧ (banks 0 0).bankState 1 0 = 0) ∧
    Accepted (banks 2 1) 0 .EPOCH_FLIP_AT 0 (.full 9000) ∧
    (let p := (banks 2 1).put Fld.EPOCH_CTRL.FLIP_PENDING 0 1
     p.ready = true ∧ p.jobValid = true ∧ p.get Fld.EPOCH_CTRL.FLIP_PENDING 0 = 1 ∧ p.flipDone = false) ∧
    (let p : Part := { (banks 2 1).put Fld.EPOCH_CTRL.FLIP_PENDING 0 1 with flipDone := true }
     p.ready = true ∧ p.jobValid = true ∧ p.get Fld.EPOCH_CTRL.FLIP_PENDING 0 = 1 ∧ p.flipDone = true) :=
  ⟨⟨accepted (by decide +kernel), by decide +kernel⟩, accepted (by decide +kernel), by decide +kernel, by decide +kernel⟩

/-- A header of a WRITE packet from node 9 to this part's node 5. -/
def hdr : Hdr := ⟨5, 0x4000 + 0x2000 + 130, 9, 0x2001, 77, 4, 0x1000, 0, 0, 0, 0, 1, 3, 1⟩

theorem witness_PacketsReadBackAsFormed :
    ([1, 2, 3] : List Byte).length ≤ 512 ∧ hdr.dstNode < 2 ^ 16 ∧ hdr.dstUnit < 2 ^ 16 ∧ hdr.srcNode < 2 ^ 16 ∧ hdr.srcUnit < 2 ^ 16 ∧
      hdr.seq < 2 ^ 32 ∧ hdr.xfer < 2 ^ 32 ∧ hdr.addr < 2 ^ 48 ∧ hdr.offset < 2 ^ 32 ∧ hdr.epoch < 2 ∧ hdr.cls < 4 ∧ hdr.type < 32 ∧
      hdr.hop < 128 ∧ hdr.flags < 256 := by
  decide +kernel

/-- A frame that carries one packet. -/
def frameOf (h : Hdr) (pl : List Byte) : List Byte :=
  let l := packetFrame (packetOf h pl)
  l ++ List.replicate (576 - l.length) 0

/-- Port 7 of die 1 ACTIVE, its bank 0 LIVE. -/
def carrying : Part := ((banks 2 0).put Fld.PORT_STATUS.STATE 7 4).put Fld.RT_CTRL.BANK0_PORTS 1 0x3F

/-- The four dies at their sites, every lateral edge live. -/
def placed (p : Part) : Part := (List.range 4).foldl (fun (p : Part) d => p.put Fld.DIE_IDENT.SITE d d) p

/-- A packet on the on-package network, `hop` hops from its start. -/
def crossing (die hop : Nat) : NetPkt := ⟨die, 0, packetOf { hdr with hop := hop } [1, 2, 3]⟩

def netted (x : NetPkt) : Part := (placed carrying).modDie 1 (fun y => { y with net := { y.net with arrived := [(0, x)] } })

theorem witness_RouterMovesOneFrame :
    (carrying.ready = true ∧ Instr.wf (.routerFrame 1 [] []) = true ∧ carrying.domainOn 37 = true) ∧
    (∀ h0 ∈ [hdr, { hdr with dstUnit := 0x8000 }],
     let l := frameOf h0 [1, 2, 3]
     let h := hdrOf (framePacket l)
     let p := placed carrying
     l.length = 576 ∧ p.carries 1 0 1 = true ∧ frameKind l = 1 ∧ p.bankState 1 h.epoch ≠ 0 ∧ h.dstNode = p.node ∧
      h.len ≤ 512 ∧ crcOk (framePacket l) = true ∧ typeOk h = true ∧ h.type ∉ [4, 8, 9] ∧
      (p.die 1).net = ⟨(p.die 1).net.tie, [], [], []⟩) ∧
    (unitDie hdr.dstUnit = 1 ∧ unitDie 0x8000 = 2 ∧ (placed carrying).netProductive 1 0 2 = true) ∧
    (∀ x ∈ [crossing 1 2, crossing 3 32], ((netted x).die 1).net = ⟨((netted x).die 1).net.tie, [(0, x)], [], []⟩ ∧
      (netted x).netLive 1 0 = true ∧ x.half = 0 ∧ Instr.wf (.routerFrame 1 [] []) = true ∧ (netted x).domainOn 37 = true ∧
      (hdrOf x.pkt).len ≤ 512 ∧ crcOk x.pkt = true ∧ typeOk (hdrOf x.pkt) = true ∧ (hdrOf x.pkt).type ∉ [4, 8, 9]) ∧
    (let p := carrying.put Fld.PD_STATUS.ON 0 0
     p.ready = true ∧ p.domainOn 37 = false ∧ (p.die 1).net = ⟨(p.die 1).net.tie, [], [], []⟩) ∧
    ((carrying.modFab 1 (fun f => { f with bounce := [packetOf hdr [1]] })).die 1).fab.bounce.length = 1 := by
  decide +kernel

/-- A header of type `ty` from node 9, transfer 4, block 2. -/
def from9 (ty : Nat) : Hdr := ⟨5, 0, 9, 0, 77, 4, 0x1000, 0, 2, 0, 2, ty, 3, 1⟩

/-- `p` with a packet at the head of die 0's arrivals. -/
def arrived (l : List Byte) (p : Part) : Part := p.modFab 0 (fun f => { f with rx := [l] })

/-- The receiver's record of transfer 4, with the blocks applied. -/
def rec4 (a : List Nat) : RecvRec := ⟨9, 0, 4, a, [], none⟩

def known (a : List Nat) (p : Part) : Part := p.modFab 0 (fun f => { f with recvs := [rec4 a] })

/-- A WRITE of eight bytes, a SIG to counter 40 of core 17, a block of a relay tile. -/
def writePkt : List Byte := packetOf (from9 1) [1, 2, 3, 4, 5, 6, 7, 8]
def sigPkt : List Byte := packetOf (from9 3) (sigPayload 17 40 3)
def tilePkt : List Byte := packetOf (from9 2) [1, 2, 3]

/-- The state in which the WRITE is met, and the same with no translation. -/
def writing : Part := (known [] (arrived writePkt node5)).modDie 0 (fun x => { x with tlb := [leafAt 0] })
def untranslated : Part := known [] (arrived writePkt node5)

/-- The state of a packet's engine as it is applied. -/
def applying (p : Part) : Part := (p.dropRx 0).putRecv 0 (rec4 [])

/-- What a write's packet is in the state it is met in. -/
def meetsWrite (p : Part) : Prop :=
  p.ready = true ∧ (p.die 0).fab.rx = [writePkt] ∧ p.recvFor 0 (hdrOf writePkt) = some (rec4 []) ∧ isWrite writePkt = true ∧
    (rec4 []).applied.contains (hdrOf writePkt).offset = false

/-- The lines that it stores to. -/
def writeLines : List (Nat × Nat) := linesOf (hdrOf writePkt).addr (hdrOf writePkt).len

/-- The same where the address lies in the tile store of core 0, whose cluster is off. -/
def writingOff : Part := (writing.modDie 0 (fun x => { x with tlb := [leafAt (tileBase 0)] })).put Fld.PD_STATUS.ON 0 0

/-- The same where the line is held. -/
def writingHeld : Part := writing.modDie 0 (fun x => { x with holds := [(0x1000, 8, true)] })

theorem witness_PacketsAreAppliedOnce_write :
    (meetsWrite writing ∧ meetsWrite untranslated ∧ meetsWrite writingHeld) ∧
    (writeLines.all (fun y => !(applying writing).inOffCluster 0 y.1) = true ∧
      isOk ((applying writing).probe 0 .moverWr writeLines).2 = true ∧
      isOk (((applying writing).probe 0 .moverWr writeLines).1.writeDva 0 .moverWr (hdrOf writePkt).addr (pktPayload writePkt)).2 = true) ∧
    isFail ((applying untranslated).probe 0 .moverWr writeLines).2 = true ∧
    (match (applying writingHeld).applyWrite 0 writePkt false with | .wait _ => true | _ => false) = true ∧
    (writingOff.ready = true ∧ (writingOff.die 0).fab.rx = [writePkt] ∧
      writingOff.recvFor 0 (hdrOf writePkt) = some (rec4 []) ∧ writeLines.any (fun y => (applying writingOff).inOffCluster 0 y.1) = true) := by
  refine ⟨⟨?_, ?_, ?_⟩, ⟨?_, ?_, ?_⟩, ?_, ?_, ?_⟩ <;> first | decide +kernel | (unfold meetsWrite; decide +kernel)

/-- Block 0 of a relay tile for engine 0, and the RECV of core 0 that names engine 0 of node 9. -/
def openPkt : List Byte := packetOf { from9 2 with offset := 0 } (List.replicate 64 0)
def recvRemote : QEntry := { entry (word 0x34 4 0 0 0) with gs := [9] }
def opening : Part :=
  (known [] (arrived openPkt node5)).setCore 0 (CoreSt.reset.setFlying .me0 [⟨recvRemote, some Bank.reset, none, .relayWait⟩])

theorem witness_PacketsAreAppliedOnce_others :
    (∀ n : Fin 2, let p := known (if n = 0 then [] else [2]) (arrived sigPkt node5)
     p.ready = true ∧ p.recvFor 0 (hdrOf sigPkt) = some (rec4 (if n = 0 then [] else [2])) ∧ isType 3 sigPkt = true ∧
      p.sigCheck 17 40 3 = .ok) ∧
    (let p := (known [] (arrived sigPkt node5)).put Fld.PD_STATUS.ON 0 0
     p.ready = true ∧ p.recvFor 0 (hdrOf sigPkt) = some (rec4 []) ∧ p.sigCheck 17 40 3 ≠ .ok) ∧
    (let p := known [] (arrived tilePkt node5)
     p.recvFor 0 (hdrOf tilePkt) = some (rec4 []) ∧ isType 2 tilePkt = true ∧ (hdrOf tilePkt).offset = 2 ∧ (rec4 []).relay = none) ∧
    (let p := known [2] (arrived tilePkt node5)
     p.recvFor 0 (hdrOf tilePkt) = some (rec4 [2]) ∧ (rec4 [2]).applied.contains (hdrOf tilePkt).offset = true) ∧
    (let p := opening
     let h := hdrOf openPkt
     let pl := pktPayload openPkt
     p.ready = true ∧ p.recvFor 0 h = some (rec4 []) ∧ h.offset = 0 ∧ (rec4 []).tile = [] ∧ fieldAt pl 9 1 ≠ 1 ∧ bits h.dstUnit 8 0 = 0 ∧
      p.engineGone 0 0 = false ∧ p.domainOn 0 = true ∧ xbOf recvRemote.word = 0 ∧
      (applying opening).relays.find? (fun y => isRecv y.fly.e && y.fly.st == .relayWait &&
        ownEngine y.core y.fly.e.word == 0 && bankOf y.fly.e.word == fieldAt pl 8 1 && (applying opening).recvNames y h pl) =
        some ⟨0, .me0, ⟨recvRemote, some Bank.reset, none, .relayWait⟩⟩) := by
  decide +kernel

/-- A MOV.D that posts the 64 bytes at DVA 0x1000 to cluster 3, and its transfer. -/
def postDesc : List Byte :=
  bytesWith 128 [(0, 6, 0x1000), (8, 6, 3), (0xE, 2, 0xFFFF), (0x10, 4, 64), (0x14, 4, 1), (0x18, 4, 1), (0x1C, 4, 1), (0x20, 4, 1),
    (0x24, 1, 0x66), (0x25, 1, 2)]
def postXfer : Xfer := xferOf 9 (.core 0 (entry (word 0x60 1 0 0 0))) postDesc
def posting (t : List Leaf) : Part := up.modDie 0 (fun x => { x with tlb := t, active := [postXfer] })

theorem witness_PacketsAreAppliedOnce_post :
    (∀ t ∈ ([[], [leafAt 0]] : List (List Leaf)), (posting t).ready = true ∧
      ((posting t).die 0).active.find? (fun z => z.id == 9) = some postXfer) ∧
    ((mdescOf postDesc).post = true ∧ postDesc.length = 128 ∧ postXfer.waitHandle = none ∧ postXfer.posted = none ∧
      postXfer.status = 0) ∧
    (let r := (posting [leafAt 0]).readDva 0 .moverRd (mdescOf postDesc).src 64
     isOk r.2 = true ∧ (r.1.stageWrite (mdescOf postDesc).dst 0 0 (List.replicate 64 0)).2.isSome = true) ∧
    isFail ((posting []).readDva 0 .moverRd (mdescOf postDesc).src 64).2 = true := by
  decide +kernel

/-- A packet of transfer 12 sent to node 9 as SEQ 300, and the transfer, of `n` blocks. -/
def sent12 (resends : Nat) : SentPkt := ⟨9, 12, 300, 2, packetOf ⟨9, 0, 5, 0, 300, 12, 0x1000, 0, 2, 0, 0, 1, 3, 1⟩ [7, 7], resends, true, none, false⟩
def send12 : SendXfer := ⟨9, 0, 12, .mover 1 6, 3, [0, 1], false⟩

def source (resends : Nat) (p : Part) : Part := p.modFab 0 (fun f => { f with sent := [sent12 resends], sends := [send12] })

/-- Answers of node 9 about SEQ 300: ACK, the NACKs of kinds 0, 1 and 2, RELEASE. -/
def ackPkt : List Byte := packetOf (from9 5) (leBytes 8 300 ++ leBytes 56 1)
def nackPkt (kind : Nat) : List Byte := packetOf (from9 6) (leBytes 8 (300 + kind * 2 ^ 48))
def releasePkt : List Byte := packetOf (from9 7) []

/-- What the statement on answers asks of an answer but for its place at the head of the arrivals. -/
def answersB (l : List Byte) : Bool :=
  let f := ((source 1 (arrived l node5)).die 0).fab
  decide (f.sent.find? (fun z => z.node == (hdrOf l).srcNode && z.seq == fieldAt (pktPayload l) 0 8 % 2 ^ 32) = some (sent12 1)) &&
    decide (f.sends.find? (fun z => z.node == (hdrOf l).srcNode && z.xfer == (sent12 1).xfer) = some send12)

theorem witness_AnswersReachTheSource :
    (∀ l, ((source 1 (arrived l node5)).die 0).fab.rx = [l]) ∧ node5.ready = true ∧ send12.ended = false ∧
    (answersB ackPkt = true ∧ isType 5 ackPkt = true ∧ fieldAt (pktPayload ackPkt) 8 56 = 1) ∧
    (∀ k ∈ ([0, 1, 2] : List Nat), answersB (nackPkt k) = true ∧ isType 6 (nackPkt k) = true ∧
      bits (fieldAt (pktPayload (nackPkt k)) 0 8) 55 48 = k) ∧
    ((sent12 1).circuit = none ∧ (sent12 1).later = false) ∧
    (∀ l ∈ [ackPkt, nackPkt 0], (arrived l node5).ready = true ∧ ((arrived l node5).die 0).fab.sent = []) ∧
    isType 7 releasePkt = true :=
  ⟨fun _ => rfl, by decide +kernel, by decide +kernel, by decide +kernel, by decide +kernel, by decide +kernel, by decide +kernel,
    by decide +kernel⟩

/-- An add inside the part that has been resent `n` times. -/
def unanswered (n : Nat) : Part :=
  up.modDie 0 (fun x => { x with active := [xferOf 9 (.core 0 addOne) []], resent := [((0, 9, 0), 0, n)] })

theorem witness_EngineTimersAnswerAndResend :
    (let x : Flow := ⟨9, 0, 0, 50, [40], [30, 31]⟩
     let p : Part := { node5 with flows := [x] }
     p.ready = true ∧ p.flows[0]? = some x ∧ x.unacked ≠ [] ∧ (∀ y ∈ x.unacked, y < 2 ^ 32) ∧ p.sendDie x.die x.node = some 0 ∧
      x.missing[0]? = some 40 ∧ ({ up with flows := [x] } : Part).sendDie x.die x.node = none) ∧
    (let p := source 1 node5
     (p.die 0).fab.sent[0]? = some (sent12 1) ∧ (sent12 1).out = true ∧ (sent12 1).later = false ∧
      (sent12 1).resends < p.get Fld.E2E_CTRL.RESEND_LIMIT 0 ∧ (sent12 1).circuit = none) ∧
    (let p := source 200 node5
     (p.die 0).fab.sent[0]? = some (sent12 200) ∧ p.get Fld.E2E_CTRL.RESEND_LIMIT 0 ≤ (sent12 200).resends ∧
      (p.die 0).fab.sends.find? (fun z => z.node == 9 && z.xfer == 12) = some send12 ∧ send12.ended = false) ∧
    (∀ n ∈ [7, 8], let p := unanswered n
     p.ready = true ∧ packetAt (p.inPart 0) 0 = some ((0, 9, 0), 0) ∧ (p.die 0).fab.sent = [] ∧ (p.die 0).resent = [((0, 9, 0), 0, n)]) ∧
    (let p := node5.modFab 0 (fun f => { f with sends := [{ send12 with blocks := 2 }] })
     (p.die 0).fab.sends[0]? = some { send12 with blocks := 2 } ∧ p.sendDie 0 9 = some 0) := by
  decide +kernel

/-- Sixteen frames with a bad strobe, and an idle frame whose wires are all low. -/
def badFrames : List BundleFrame := List.replicate 16 ⟨false, 0, List.replicate 68 0⟩
def idleFrame : BundleFrame := ⟨true, 1, List.replicate 68 0⟩

/-- A retirement that awaits its acknowledgement. -/
def noticed (i : Nat) : Part := { up with retireNotices := [(1, i)] }

theorem witness_BundlesRetireAndArbitersCommit_bundles :
    (up.ready = true ∧ isRetired (up.repairEntry 1 2050) = false ∧ Instr.wf (.bundleRetireLive 1 (2050, badFrames)) = true ∧
      (badFrames.foldl (fun b f => b.take (up.repairEntry 1 2050) up.time.raw f) (up.bundle 1 2050)).strobeErrs = List.replicate 16 5000 ∧
      Instr.wf (.bundleRetireLive 1 (2050, [idleFrame])) = true ∧
      sixteenWithin up.time.raw ((up.bundle 1 2050).take 0 5000 idleFrame).strobeErrs = false) ∧
    (let p := up.setRepairEntry 1 2050 retiredEntry; p.ready = true ∧ isRetired (p.repairEntry 1 2050) = true) ∧
    (∀ i ∈ [7, 2048, 2112], (noticed i).ready = true ∧ isRetired ((noticed i).repairEntry 1 i) = false ∧
      (1, i) ∈ (noticed i).retireNotices) := by
  decide +kernel

theorem witness_BundlesRetireAndArbitersCommit_arbiters :
    Accepted up 0 .ARB_COMMIT 84 (wordOf 1) ∧
    (Tab.find? ({ up with arbSets := [(84, [1, 2, 3])] } : Part).arbSets 84 = some [1, 2, 3]) ∧
    (0 < (arbKind 3).instances ∧ 0 ≤ (arbKind 3).lastOwner ∧ (up.put Fld.ARB_STARVE.STARVE_EN 84 1).get Fld.ARB_STARVE.STARVE_EN 84 = 1) :=
  ⟨accepted (by decide +kernel), by decide +kernel, by decide +kernel⟩

/-- A parent port TESTED, and a lock state. -/
def locking (l : Nat) : Part := (up.put Fld.PORT_STATUS.STATE 0 3).put Fld.TIME_STATUS.LOCK 0 l

/-- A reference whose job time slews. -/
def slewing : Part :=
  { (up.put Fld.TIME_CTRL.ROLE 0 1).put Fld.TIME_STATUS.JOB_TIME_VALID 0 1 with time := ⟨5000, [], some ⟨100, 7, 4000⟩, none, []⟩ }

theorem witness_TimeIsKeptAndSlewed :
    up.ready = true ∧ ((locking 1).get Fld.TIME_STATUS.LOCK 0 = 1 ∧ (locking 1).portState ((locking 1).get Fld.TIME_CTRL.PARENT_PORT 0) = 3) ∧
    (locking 2).get Fld.TIME_STATUS.LOCK 0 = 2 ∧
    Accepted (up.put Fld.TIME_CTRL.ROLE 0 1) 0 .JOB_OFFSET 0 (.full 77) ∧ (up.put Fld.TIME_CTRL.ROLE 0 1).jobValid = false ∧
    (slewing.ready = true ∧ slewing.time.slew = some ⟨100, 7, 4000⟩ ∧ slewing.jobValid = true ∧
      ({ slewing with time := up.time } : Part).jobValid = true) ∧
    Accepted { slewing with time := up.time } 0 .JOB_OFFSET 0 (.full 77) :=
  ⟨by decide +kernel, by decide +kernel, by decide +kernel, accepted (by decide +kernel), by decide +kernel, by decide +kernel,
    accepted (by decide +kernel)⟩

/-- A member in a survey with exchanges kept and made. -/
def surveyWith (kept : List (Int × Int)) (made : Nat) (retry : Bool) : Survey := ⟨kept, made, 100, retry, 4000⟩
def surveying (x : Survey) : Part := { up.put Fld.TIME_CTRL.ROLE 0 2 with time := ⟨5000, [], none, some x, []⟩ }

/-- The exchanges kept after one with offset 0 and round trip 6. -/
def keptThen (x : Survey) : List (Int × Int) := ((0, 6) :: x.kept).filter (fun y => y.2 ≤ x.kept.foldl (fun m y => min m y.2) 6 + 8)

theorem witness_SurveyKeepsFourExchanges :
    Accepted (up.put Fld.TIME_CTRL.ROLE 0 2) 0 .TIME_CTRL 0 (withBit 2 2) ∧
    (∀ st ∈ [3, 4], let p := up.put Fld.PORT_STATUS.STATE 3 st; p.ready = true ∧ p.portState 3 = st) ∧
    (∀ x ∈ [surveyWith [(1, 5), (1, 6), (1, 7)] 3 false, surveyWith [(1, 5)] 15 false, surveyWith [(1, 5), (1, 20)] 2 false],
      (surveying x).ready = true ∧ (surveying x).time.survey = some x ∧ x.retry = false ∧ x.t1 ≤ (4000#64).toNat ∧
        (4000#64).toNat ≤ (4008#64).toNat ∧
        signed 64 (((4003 : Int) - 4000 + (4005 - 4008)) % (2 ^ 64 : Int)).toNat = 0 ∧
        signed 64 (((4008 : Int) - 4000 - (4005 - 4003)) % (2 ^ 64 : Int)).toNat = 6) ∧
    (keptThen (surveyWith [(1, 5), (1, 6), (1, 7)] 3 false)).length = 4 ∧ (keptThen (surveyWith [(1, 5)] 15 false)).length = 2 ∧
    (keptThen (surveyWith [(1, 5), (1, 20)] 2 false)).length = 2 ∧
    ((surveying (surveyWith [(1, 5)] 3 true)).ready = true ∧ (surveyWith [(1, 5)] 3 true).retry = true) :=
  ⟨accepted (by decide +kernel), by decide +kernel, by decide +kernel, by decide +kernel, by decide +kernel, by decide +kernel,
    by decide +kernel⟩

/-- Tandem mode with node 9, whose digest record has arrived. -/
def tandem (l : List Byte) : Part :=
  arrived l ((((up.put Fld.FAB_NODE.NODE 0 5).put Fld.RT_STATUS.BANK0_STATE 0 2).put Fld.TANDEM_CTRL.ENABLE 0 1).put Fld.TANDEM_CTRL.PEER_NODE 0 9)

/-- A digest record of the peer, or a notice (flags 2). -/
def digestPkt (fl : Nat) : List Byte :=
  packetOf ⟨5, wardenUnit 0, 9, wardenUnit 0, 77, 4, 0, 32, 0, 0, 0, 1, 3, 1⟩ (digestRecord 7 3 2 fl 99 5)

def digestIn (y : List MatchRec) (fl : Nat) : Part :=
  { tandem (digestPkt fl) with time := { up.time with table := y } }

/-- What is asked of the packet but for the match table. -/
def digestB (p : Part) (fl : Nat) : Bool :=
  p.ready && decide ((p.die 0).fab.rx = [digestPkt fl]) && decide (p.recvFor 0 (hdrOf (digestPkt fl)) = some (rec4 [])) && p.tandemOn &&
    isDigest (digestPkt fl) && !(rec4 []).applied.contains (hdrOf (digestPkt fl)).offset

/-- The entry of the table that the record meets. -/
def otherOf (y : List MatchRec) : Option MatchRec :=
  let m := digestOf (digestPkt 0)
  (digestIn y 0).time.table.find? (fun y => y.own != m.own && y.key == m.key && y.interval == m.interval)

theorem witness_TandemComparesAndHalts :
    (∀ y ∈ ([[], [⟨true, 7, 3, 2, 99⟩], [⟨true, 7, 3, 2, 98⟩]] : List (List MatchRec)), digestB (digestIn y 0) 0 = true ∧
      otherOf y = y.head?) ∧
    ((digestOf (digestPkt 0)).digest = 99 ∧ (digestOf (digestPkt 0)).events = 2) ∧
    (digestB (digestIn [] 2) 2 = true ∧ isNotice (digestPkt 0) = false ∧ isNotice (digestPkt 2) = true ∧
      (digestIn [] 2).get Fld.TANDEM_STATUS.MISMATCH 0 = 0) ∧
    (let p := digestIn [⟨true, 7, 3, 2, 99⟩] 0
     p.time.table[0]? = some ⟨true, 7, 3, 2, 99⟩ ∧ p.get Fld.TANDEM_STATUS.MISMATCH 0 = 0) ∧
    Accepted ((up.put Fld.TANDEM_STATUS.HALTED 0 1).put Fld.TANDEM_CTRL.ENABLE 0 1) 0 .TANDEM_CTRL 0 (withBit 1 1) :=
  ⟨by decide +kernel, by decide +kernel, by decide +kernel, by decide +kernel, accepted (by decide +kernel)⟩

theorem witness_TandemComparesAndHalts_pair :
    Accepted (up.put Fld.TANDEM_CTRL.ENABLE 0 0) 0 .PAIR_CTRL 6 (withBit 0x8108 16) ∧ up.get Fld.PAIR_CTRL.ENABLE 6 = 0 ∧
      bit ((after (.pairEnable 0 1 2 0x8108) up).get Fld.PAIR_CTRL.CORE_MASK 6) 7 = true :=
  ⟨accepted (by decide +kernel), by decide +kernel, by decide +kernel⟩

/-- Core 4 with a span that has been replayed `n` times, FAULTED on slot 3 by a parity error of its own registers. -/
def spanOf (n : Nat) : SpanSt :=
  ⟨0x50, [(1, 5)], [], 7, 1, false, List.replicate 128 0, [], n, [], [], 0, false, false, 0, [], []⟩

def faultOf (unit : Nat) (parity inData : Bool) : FaultRec :=
  ⟨Status.uncorrectable.code, unit, parity, false, inData, false, 0, [1], [2], 0x8000000000210001, 0x60⟩

def replaying (r : FaultRec) (n : Nat) : Part :=
  ((up.put Fld.RECOVERY_CTRL.REPLAY_EN 0 1).setCore 4 { CoreSt.reset with
    phase := .faulted 3, fault := some r, span := some (spanOf n), pc := 0x60 }).setSlot 0 3
    ⟨.faulted, List.replicate 64 0, 0x21, 0, 0, 4, 0⟩

theorem witness_FaultsAreReplayedOrGivenUp :
    (let p := replaying (faultOf 0 false true) 0
     p.ready = true ∧ (p.core 4).phase = .faulted 3 ∧ (p.core 4).fault = some (faultOf 0 false true) ∧ (p.core 4).span = some (spanOf 0) ∧
      (p.core 4).quiet = true ∧ (p.core 4).seek = false ∧ (p.core 4).decision = none ∧
      (∀ h ∈ coresOf (clusterOf 4), (p.core h).helperFor ≠ some 4) ∧ p.get Fld.RECOVERY_CTRL.REPLAY_EN 0 = 1 ∧
      (faultOf 0 false true).kind = .same ∧ (spanOf 0).replays < 2) ∧
    (faultOf 0 false false).kind = .none ∧ (faultOf 0 false true).parity = false ∧ 2 ≤ (spanOf 2).replays ∧
    (up.put Fld.RECOVERY_CTRL.REPLAY_EN 0 0).get Fld.RECOVERY_CTRL.REPLAY_EN 0 = 0 ∧
    (((replaying (faultOf 0 false true) 0).modCore 4 (fun x => { x with seek := true })).core 4).seek = true ∧
    (let p := (replaying (faultOf 0 false true) 0).modCore 6 (fun x => { x with helperFor := some 4 })
     (coresOf (clusterOf 4)).find? (fun e => (p.core e).helperFor == some 4) = some 6 ∧ (p.core 6).phase = .idle ∧ (p.core 6).quiet = true) := by
  decide +kernel

/-- A decision replay of core 4 whose item has been captured. -/
def deciding4 (d : Decision) : Part := up.modCore 4 (fun x => { x with decision := some d })
def drainDecision : Decision := ⟨1, 0, [1], false, [2], 4, false, some [9], false⟩
def pairDecision : Decision := { drainDecision with pairDrop := true, got := some [1] }

theorem witness_FaultsAreReplayedOrGivenUp_verdict :
    (let p := deciding4 drainDecision
     p.ready = true ∧ (p.core 4).decision = some drainDecision ∧ drainDecision.got = some [9] ∧ drainDecision.pairDrop = false ∧
      drainDecision.gotBad = false ∧ drainDecision.second = false ∧ drainDecision.first < 256 ∧ (p.die (dieOf drainDecision.first)).passed = []) ∧
    ({ drainDecision with second := true } : Decision).second = true ∧
    (let p := (deciding4 pairDecision).wr .PAIR_CTRL 1 0x1FF08
     pairDecision.pairDrop = true ∧ pairDecision.got = some pairDecision.output ∧ (p.pairOf 4).map (·.1) = some true) := by
  decide +kernel

/-- Die 1 with the farrier enabled. -/
def farrier (f : DieSt → DieSt) : Part := ((up.put Fld.FARRIER_CTRL.TEST_EN 1 1).put Fld.RECOVERY_AREA.SET 1 1).modDie 1 f

theorem witness_FarrierTestsCores :
    (let p := farrier id; p.ready = true ∧ p.isDue 1 5 = false ∧ p.coreRetired 69 = false) ∧
    (let p := farrier (fun x => { x with dues := [⟨5, 100⟩] })
     p.ready = true ∧ (p.die 1).testing = none ∧ p.get Fld.FARRIER_CTRL.TEST_EN 1 = 1 ∧ p.get Fld.RECOVERY_AREA.SET 1 = 1 ∧
      p.nextTest 1 = some 5 ∧ (p.die 1).dues.find? (fun z => z.core == 5) = some ⟨5, 100⟩ ∧
      bit (p.rd .FARRIER_OVERDUE 1).toNat 5 = false) ∧
    ((farrier (fun x => { x with testing := some 5 })).die 1).testing = some 5 ∧
    Accepted (farrier id) 0 .FARRIER_ORDER 1 (wordOf (0x100 + 5)) ∧
    Accepted (farrier (fun x => { x with dues := [⟨5, 100⟩] })) 0 .FARRIER_ORDER 1 (wordOf (0x200 + 5)) :=
  ⟨by decide +kernel, by decide +kernel, by decide +kernel, accepted (by decide +kernel), accepted (by decide +kernel)⟩

/-- A part paired with node 9, whose die 1 can reach it. -/
def paired : Part :=
  (List.range 4).foldl (fun (p : Part) d => (p.put Fld.RT_STATUS.BANK0_STATE d 2).wr .ROUTE ((2 * d) * 32768 + 4) (BitVec.ofNat 64 (2 ^ 63 + 2 ^ 56)))
    (((up.put Fld.PARTNER_CTRL.ENABLE 0 1).put Fld.PARTNER_CTRL.PEER_NODE 0 9).put Fld.FAB_NODE.NODE 0 5)

def copying1 (failed : Option Nat) : Part := paired.modDie 1 (fun x => { x with copy := some ⟨1, 7, [], 9, 512, 0, failed⟩ })

theorem witness_PartnerCopiesAndPairing :
    (let p : Part := { paired with copyHeld := some (some 77) }
     p.ready = true ∧ p.copyHeld = some (some 77) ∧ p.copying = false ∧ p.get Fld.PARTNER_CTRL.ENABLE 0 = 1) ∧
    (((copying1 none).die 1).copy = some ⟨1, 7, [], 9, 512, 0, none⟩ ∧
      ((copying1 none).sendDie 1 ((copying1 none).get Fld.PARTNER_CTRL.PEER_NODE 0)).isSome = true) ∧
    ((copying1 (some 0x22)).die 1).copy = some ⟨1, 7, [], 9, 512, 0, some 0x22⟩ ∧
    (Accepted (up.put Fld.FAB_NODE.NODE 0 5) 0 .PARTNER_CTRL 0 (withBit (BitVec.ofNat 64 (9 * 2 ^ 48 + 4)) 0) ∧
      (up.put Fld.FAB_NODE.NODE 0 5).get Fld.PARTNER_CTRL.ENABLE 0 = 0) ∧
    (up.put Fld.PARTNER_STATUS.STATE 0 1).get Fld.PARTNER_STATUS.STATE 0 = 1 :=
  ⟨by decide +kernel, by decide +kernel, by decide +kernel, ⟨accepted (by decide +kernel), by decide +kernel⟩, by decide +kernel⟩

/-- The header of a recovery slot that holds `n` zero bytes of the DVAs from 0. -/
def slotHeader (n : Nat) : List Byte :=
  let l := [0x47, 0x4C, 0x44, 0x50, 2, 0, 0, 1] ++ List.replicate 16 0 ++ leBytes 8 n ++
    leBytes 8 (blockDigest (List.replicate n 0)).toNat
  l ++ List.replicate (0x100 - l.length) 0 ++ leBytes 8 0 ++ leBytes 8 n

/-- Die 1 that can remount its slot towards node 9. -/
def remounting : Part :=
  (((paired.modDie 1 (fun x => { x with tlb := [leafAt 0x30_0000_0000] })).put Fld.CIRCUIT.ENABLE 1024 1).put
    Fld.CIRCUIT.PEER_NODE 1024 9).setBytes 0x30_0000_0000 (slotHeader 8)

def toNode9 : BitVec 64 := BitVec.ofNat 64 (9 * 2 ^ 48)

/-- A remount order for node 9 in force. -/
def ordered (p : Part) : Part :=
  p.wr .REMOUNT_CTRL 1 (p.stored ⟨0, .REMOUNT_CTRL, 1, barMask (withBit toNode9 0), barVal (withBit toNode9 0)⟩)

theorem witness_PartnerCopiesAndPairing_remount :
    (Accepted paired 0 .REMOUNT_CTRL 1 (withBit toNode9 0) ∧ paired.get Fld.REMOUNT_STATUS.BUSY 1 = 0 ∧
      (match ((ordered paired).remountCheck 1).2 with | .error _ => true | .ok _ => false) = true) ∧
    (Accepted remounting 0 .REMOUNT_CTRL 1 (withBit toNode9 0) ∧ remounting.get Fld.REMOUNT_STATUS.BUSY 1 = 0 ∧
      (match ((ordered remounting).remountCheck 1).2 with | .error _ => false | .ok bs => !bs.isEmpty) = true ∧
      ((((ordered remounting).remountCheck 1).1.sendDie 1
        (((ordered remounting).remountCheck 1).1.get Fld.REMOUNT_CTRL.TARGET_NODE 1)).isSome = true)) ∧
    ((paired.modDie 1 (fun x => { x with remount := some (some 0) })).die 1).remount = some (some 0) :=
  ⟨⟨accepted (by decide +kernel), by decide +kernel, by decide +kernel⟩,
    ⟨accepted (by decide +kernel), by decide +kernel, by decide +kernel, by decide +kernel⟩, by decide +kernel⟩

/-- BAR2 of a port onto its physical memory, or onto the DVAs of a die. -/
def bar2 (port enable physical : Nat) : Part :=
  ((up.put Fld.BAR2_CTRL.ENABLE port enable).put Fld.BAR2_CTRL.PHYSICAL port physical).modDie 0 (fun x => { x with tlb := [leafAt 0] })

/-- Where an access to offset 0x1000 of BAR2 of port 0 goes. -/
def goes (p : Part) (n : Nat) : Nat := match p.bar2Where 0 0x1000 n with | .ok (true, a) => a | .ok (false, a) => a + 2 ^ 60 | .error _ => 2 ^ 61

theorem witness_HostReachesMemoryThroughBar2 :
    Instr.wf (.bar2Read 0 0x1000 8) = true ∧ Instr.wf (.bar2Write 0 0x1000 [1, 2]) = true ∧
    (let p := bar2 0 1 1
     p.ready = true ∧ p.linkUp 0 = true ∧ goes p 8 = 0x1000 ∧ goes p 2 = 0x1000 ∧ p.upsets = [] ∧
      (∀ x ∈ linesOf 0x1000 8, p.heldBack 0 .barRd x.1 x.2 = false) ∧ (∀ x ∈ linesOf 0x1000 2, p.heldBack 0 .barWr x.1 x.2 = false) ∧
      ∀ d : Fin 4, p.get Fld.UPD_RING.ENABLE d = 0) ∧
    (let p := (bar2 0 1 1).modDie 1 (fun x => { x with holds := [(0x1001, 1, true)] })
     p.ready = true ∧ p.linkUp 0 = true ∧ goes p 8 = 0x1000 ∧ goes p 2 = 0x1000 ∧ p.upsets = [] ∧
      (∃ x ∈ linesOf 0x1000 8, p.heldBack 0 .barRd x.1 x.2 = true) ∧ ∃ x ∈ linesOf 0x1000 2, p.heldBack 0 .barWr x.1 x.2 = true) ∧
    (goes (bar2 0 1 0) 8 = 2 ^ 60 + 0x1000 ∧ isOk ((bar2 0 1 0).readDva 0 .barRd 0x1000 8).2 = true) ∧
    goes (bar2 0 0 0) 8 = 2 ^ 61 := by
  decide +kernel

def headsB (p : Part) (port k op i : Nat) (cmd : List Byte) (named : List (Nat × Nat)) : Bool :=
  p.ready && p.linkUp port && p.get Fld.STREAM_RING.ENABLE (streamIdx port k) == 1 &&
    p.get Fld.STREAM_STATUS.STATE (streamIdx port k) == 1 && p.get Fld.STREAM_STATUS.CONSUMER (streamIdx port k) == i &&
    (p.stream port k).producer != i &&
    p.hostBytes port (p.get Fld.STREAM_RING.ADDR (streamIdx port k) * 4096 + 64 * (i % p.streamSize (streamIdx port k))) 64 == cmd &&
    fieldAt cmd 0 1 == op && bits (fieldAt cmd 1 1) 7 3 == 0 && (!bit (fieldAt cmd 1 1) 0 || (p.stream port k).busy == []) &&
    !unnamedSet cmd (headerNamed ++ named)

theorem heads {p : Part} {port k op i : Nat} {cmd : List Byte} {named : List (Nat × Nat)}
    (h : headsB p port k op i cmd named = true) : Heads p port k op i cmd named := by
  simp only [headsB, Bool.and_eq_true, beq_iff_eq, bne_iff_ne, Bool.or_eq_true, Bool.not_eq_true'] at h
  obtain ⟨⟨⟨⟨⟨⟨⟨⟨⟨⟨h1, h2⟩, h3⟩, h4⟩, h5⟩, h6⟩, h7⟩, h8⟩, h9⟩, h10⟩, h11⟩ := h
  exact ⟨h1, h2, h3, h4, h5, h6, h7, h8, h9, h10, h11⟩

/-- A command: 64 bytes with the fields `l` (offset, size, value). -/
def command (op : Nat) (l : List (Nat × Nat × Nat)) : List Byte :=
  (List.range 64).map (fun i =>
    if i = 0 then BitVec.ofNat 8 op
    else match l.find? (fun x => Nat.ble x.1 i && Nat.blt i (x.1 + x.2.1)) with
      | some x => BitVec.ofNat 8 (x.2.2 / 2 ^ (8 * (i - x.1)))
      | none => 0)

/-- Stream 5 of port 0 enabled with a ring of 16 commands at host address 0, `cmd` the first, and records at 0x9000. -/
def streaming (cmd : List Byte) : Part :=
  let x := streamIdx 0 5
  let p := (((up.put Fld.STREAM_RING.ENABLE x 1).put Fld.STREAM_RING.SIZE_LOG2 x 4).put Fld.STREAM_STATUS.STATE x 1).put
    Fld.STREAM_CPL.ADDR x 9
  (p.setHostBytes 0 0 cmd).setStream 0 5 { p.stream 0 5 with producer := 1 }

def cmdLaunch : List Byte := command 1 [(8, 2, 3), (10, 2, 1), (0x10, 8, 0x4000)]
def cmdCopy : List Byte := command 2 [(8, 1, 0), (0x10, 8, 0x1000), (0x18, 6, 0x4000), (0x20, 8, 64)]
def cmdReserve : List Byte := command 3 [(8, 1, 2), (0x10, 8, 0x200000), (0x18, 8, 5)]
def cmdMgmt (r : Reg) (v gen : Nat) : List Byte := command 4 [(8, 4, r.off 0), (12, 4, 8), (0x10, 8, v), (0x18, 8, gen)]
def cmdQuery (r : Reg) : List Byte := command 5 [(8, 4, r.off 0), (12, 4, 8)]

theorem witness_StreamCommandsRunAndReport :
    (let p := streaming cmdLaunch
     let x := streamIdx 0 5
     p.ready = true ∧ p.linkUp 0 = true ∧ p.get Fld.STREAM_RING.ENABLE x = 1 ∧ p.get Fld.STREAM_STATUS.STATE x = 1 ∧
      (16 + 2 ^ 32 - p.get Fld.STREAM_STATUS.CONSUMER x) % 2 ^ 32 ≤ p.streamSize x ∧
      p.streamSize x < (17 + 2 ^ 32 - p.get Fld.STREAM_STATUS.CONSUMER x) % 2 ^ 32) ∧
    (let p := streaming cmdLaunch
     Heads p 0 5 1 0 cmdLaunch launchNamed ∧ fieldAt cmdLaunch 8 2 < 32 ∧ fieldAt cmdLaunch 10 2 = 1 ∧
      fieldAt cmdLaunch 0x10 8 % 64 = 0 ∧ (p.stage 3 256).length = 64 ∧ p.postStatus 3 (p.hostBytes 0 0x4000 64) = .ok ∧
      p.freeSlot 3 = some 0) ∧
    (Heads (streaming cmdCopy) 0 5 2 0 cmdCopy copyNamed ∧ copyCheck cmdCopy = none) ∧
    (let p := streaming cmdReserve
     Heads p 0 5 3 0 cmdReserve reserveNamed ∧ fieldAt cmdReserve 8 1 = (2 : Fin 4).val ∧ fieldAt cmdReserve 0x10 8 % 2 ^ 21 = 0 ∧
      fieldAt cmdReserve 0x18 8 < 2 ^ 20 ∧ fieldAt cmdReserve 0x10 8 + fieldAt cmdReserve 0x18 8 * 2 ^ 21 ≤ 2 ^ 44 ∧
      p.handlesOf 2 = [] ∧ (p.die 2).pgWait = []) :=
  ⟨by decide +kernel, ⟨heads (by decide +kernel), by decide +kernel⟩, ⟨heads (by decide +kernel), by decide +kernel⟩,
    ⟨heads (by decide +kernel), by decide +kernel⟩⟩

/-- The hypotheses of a MGMT write of `v` to `r`, with the lease generation `gen`. -/
def mgmtB (r : Reg) (v gen : Nat) : Bool :=
  let cmd := cmdMgmt r v gen
  let p := streaming cmd
  headsB p 0 5 4 0 cmd mgmtNamed && Instr.wf (.mgmt 0 5 env) && !bit (fieldAt cmd 1 1) 2 && p.holdsLease 0 &&
    fieldAt cmd 8 4 == r.off 0 && fieldAt cmd 12 4 == 8 && fieldAt cmd 0x18 8 == gen && p.get Fld.LEASE_STATUS.GEN 0 == 0 &&
    decide (p.orderStatus ⟨0, r, 0, 2 ^ 64 - 1, fieldAt cmd 0x10 8⟩ = .ok)

theorem witness_StreamCommandsRunAndReport_mgmt :
    [(Reg.LEASE_CTRL, 0x5050), (.REPRO_CTRL, 1), (.POWER_CTRL, 0x25800000000), (.THERM_CTRL, 0x5050)].all (fun x => mgmtB x.1 x.2 0) = true ∧
    [Reg.LEASE_CTRL, .REPRO_CTRL, .POWER_CTRL, .THERM_CTRL].all (fun r => headsB (streaming (cmdMgmt r 9 1)) 0 5 4 0 (cmdMgmt r 9 1) mgmtNamed) = true ∧
    [Reg.LEASE_CTRL, .REPRO_CTRL, .POWER_CTRL, .THERM_CTRL].all (fun r => headsB (streaming (cmdQuery r)) 0 5 5 0 (cmdQuery r) queryNamed &&
      fieldAt (cmdQuery r) 8 4 == r.off 0 && fieldAt (cmdQuery r) 12 4 == 8) = true := by
  decide +kernel

/-- The link of a port down. -/
def linkDown (port : Nat) (p : Part) : Part := p.put Fld.HOST_PORT_STATUS.LINK_UP port 0

def prefetching9 : Part := { up with handles := [(9, ⟨.prefetching, 0x40000000, 1, [0x200000], [2], true, false, false, false, 0, 0, 0, true⟩)] }

theorem witness_HostLinksComeAndGo :
    (up.alive = true ∧ up.linkUp 1 = true ∧ up.get Fld.LEASE_STATUS.HOLDER 0 = 0 ∧ up.barServed 1 = true ∧ (linkDown 0 up).barServed 0 = false ∧
      up.linkUp 0 = true) ∧
    ({ up with run := .failed } : Part).barServed 0 = false ∧
    (let p := streaming cmdLaunch
     let x := streamIdx 0 5
     p.ready = true ∧ p.linkUp 0 = true ∧ p.get Fld.STREAM_RING.ENABLE x = 1 ∧ p.get Fld.STREAM_STATUS.STATE x = 1 ∧
      p.get Fld.STREAM_STATUS.CONSUMER x ≠ (p.stream 0 5).producer) ∧
    (let p := prefetching9
     p.ready = true ∧ p.linkUp 0 = true ∧ (p.handle 9).st = .prefetching ∧ (p.handle 9).entry = true ∧
      (p.die (9 / 16384)).pgWait = []) ∧
    Instr.wf (.hostLinkUp 0 5 16 true (some [(3, 5)])) = true ∧ ((linkDown 0 (linkDown 1 up)).mayTrain 0 = true ∧
      (linkDown 0 (linkDown 1 up)).linkUp 1 = false) ∧
    (∀ r ∈ [RunSt.starting 14, .starting 7],
      let p : Part := { linkDown 0 up with run := r }
      p.mayTrain 0 = true ∧ p.linkUp 1 = true) := by
  decide +kernel

/-- Safe mode, and the first stage answering before mask ROM (R531). -/
def safe : Part := { up.put Fld.START_STATUS.SAFE_MODE 0 1 with run := .starting 4 }
def rom : Part := { (up.put Fld.START_STATUS.SAFE_MODE 0 1).put Fld.START_STATUS.STOP_STEP 0 4 with run := .failed }

def held (thermtripN : Bool) : Part := { up with run := .reset, pins := { up.pins with resetN := false, thermtripN := thermtripN } }

/-- Facts in which the base die at site 3 has no recovery record. -/
def unknownDie : StartFacts := { facts with tries := facts.tries.set 7 [] }

/-- Facts of a warm start in which two digests of die 0 came that differ, so that one is not that of its map. -/
def differing : StartFacts := { facts with digests := [(0, 0), (0, 1)] }

theorem witness_PartStartsStepByStep :
    facts.wf = true ∧ (unknownDie.wf = true ∧ unknownDie.overrun = none ∧ unresolvedDies ((held true).flash.resolved unknownDie) ≠ []) ∧
    up.flash.update = none ∧ (held true).pins.resetN = false ∧ (held true).pins.thermtripN = true ∧
    ((held false).pins.resetN = false ∧ (held false).pins.thermtripN = false ∧
      ({ facts with cool := false } : StartFacts).wf = true ∧ ({ facts with cool := true } : StartFacts).wf = true) ∧
    (∀ n ∈ [2, 10, 11, 14],
      let p : Part := { up with run := .starting n }
      p.run = .starting n ∧ p.safeMode = false) ∧
    up.pins.resetN = true ∧ Accepted safe 0 .START_CTRL 0 (wordOf 2) := by
  refine ⟨by decide +kernel, by decide +kernel, by decide +kernel, by decide +kernel, by decide +kernel, by decide +kernel,
    by decide +kernel, by decide +kernel, accepted (by decide +kernel)⟩

theorem witness_PartStartsStepByStep_warm :
    Accepted up 0 .START_CTRL 0 (wordOf 1) ∧
    (({ facts with overrun := some 12 } : StartFacts).wf = true ∧
      (after (.warmStart 0 { facts with overrun := some 12 }) up).get Fld.START_STATUS.ABANDONED_WARM 0 = 0) ∧
    (differing.wf = true ∧ differing.overrun = none ∧ ∃ y ∈ differing.digests, y.2 ≠ up.mapDigest y.1) := by
  refine ⟨accepted (by decide +kernel), by decide +kernel, by decide +kernel, by decide +kernel, ?_⟩
  by_cases h : up.mapDigest (0 : Fin 4) = 0
  · exact ⟨(0, 1), by simp [differing], by simp only [h]; decide⟩
  · exact ⟨(0, 0), by simp [differing], fun e => h e.symm⟩

/-- A signed object of TYPE 2 in SIGNED_WINDOW. -/
def submitting : Part := up.wr .SIGNED_WINDOW 0 (BitVec.ofNat 64 (2 * 2 ^ 32))

/-- A part whose flash holds certificate 0 of root 0 for DEBUG, and the object that this certificate signs. -/
def certified : Part :=
  { up with flash := up.flash.write 0x2_0000 ([0x47, 0x4C, 0x44, 0x4B, 0, 4] ++ List.replicate 10 0) }
def debugObject : List Byte :=
  [0x47, 0x4C, 0x44, 0x53] ++ leBytes 2 2 ++ leBytes 2 0 ++ leBytes 8 (certified.rd .PKG_SERIAL 0).toNat ++
    leBytes 8 certified.mgmt.nonce.1.toNat ++ leBytes 8 certified.mgmt.nonce.2.toNat ++ leBytes 4 5 ++ leBytes 28 0

theorem witness_FirmwareIsKeptAndUpdated :
    Accepted up 0 .START_CTRL 0 (wordOf 3) ∧ Accepted up 0 .START_CTRL 0 (wordOf (4 + 256 * 1)) ∧
    Accepted up 0 .FW_UPDATE 0 (withBit 0x10002#64 0) ∧
    ({ up with flash := { up.flash with update := some (4096, 1) } } : Part).flash.update = some (4096, 1) ∧
    (Accepted submitting 0 .SIGNED_CTRL 0 (wordOf 1) ∧ fieldAt (submitting.signedWindow 0x40) 4 2 = 2 ∧
      (⟨true, true, false⟩ : CertFacts).itemOk = false) ∧
    (certified.alive = true ∧ certified.mgmt.unlockFails < 3 ∧ certified.objectFor debugObject 2 = true ∧
      certified.objectSigned debugObject 2 ⟨true, true, true⟩ = true ∧
      fieldAt debugObject 0x10 16 = certified.mgmt.nonce.1.toNat + certified.mgmt.nonce.2.toNat * 2 ^ 64) :=
  ⟨accepted (by decide +kernel), accepted (by decide +kernel), accepted (by decide +kernel), by decide +kernel,
    ⟨accepted (by decide +kernel), by decide +kernel⟩, by decide +kernel⟩

/-- SPDM over port 0 with a version and algorithms negotiated, and with neither. -/
def attesting : Part := { up with mgmt := { up.mgmt with spdm := [(0, (0x14, true))] } }

theorem witness_AttestationAnswers :
    attesting.spdmServed 0 = true ∧ (attesting.spdm 0).1 ≠ 0 ∧ (attesting.spdm 0).2 = true ∧ (1 : Fin 8).val ∈ attesting.spdmSlots 0 ∧
    (up.spdmServed 2 = true ∧ (up.spdm 2).2 = false ∧ ¬ ((5 : Fin 8).val ∈ attesting.spdmSlots 0)) ∧
    (List.replicate 32 (7 : Byte)).length = 32 := by
  decide +kernel

def noImage : ImageFacts := ⟨false, false, false, false⟩

theorem witness_ManagementBusAndTestPort :
    facts.wf = true ∧ up.alive = true ∧ rom.romAnswers = true ∧ (safe.safeMode = true ∧ (1 : Fin 3) ≠ 2) ∧ safe.updating = false ∧ rom.updating = false ∧
    safe.flash.verify (bytesAt [] 0 0x80) 1 noImage ≠ .ok ∧ rom.flash.verify (bytesAt [] 0 0x80) 2 noImage ≠ .ok ∧
    safe.pins.resetN = true ∧ up.ready = true ∧ ({ up with pins := { up.pins with smbAlertN := false } } : Part).pins.smbAlertN = false := by
  decide +kernel

end Sys2Proof.Tests
end

/-! ## The group sum (R174, R175)

`groupSum_eq` says once what the group sum is: the special values in the order of the table of R175, and for a group of
finite terms `finiteSum`, which takes its quantum from the alignment exponent `alignExp`. The rows of the table and the
independence of the order of the terms (R177) follow from that equation. -/

namespace Sys2Proof.Machine

/-! ### The alignment exponent -/

/-- The alignment exponent of R174: the largest leading exponent of a live term, none when no term is live. -/
def alignExp (ts : List FVal) : Option Int := ((ts.filter FVal.live).map FVal.lead).max?

theorem alignExp_eq_none_iff {ts : List FVal} : alignExp ts = none ↔ ∀ t ∈ ts, t.live = false := by
  simp [alignExp]

theorem alignExp_eq_some_iff {ts : List FVal} {e : Int} :
    alignExp ts = some e ↔ (∃ t ∈ ts, t.live = true ∧ t.lead = e) ∧ ∀ t ∈ ts, t.live = true → t.lead ≤ e := by
  rw [alignExp, List.max?_eq_some_iff, List.forall_mem_map]
  simp only [List.mem_map, List.mem_filter, and_assoc, and_imp]

theorem alignExp_perm {ts us : List FVal} (h : ts.Perm us) : alignExp ts = alignExp us := by
  ext e
  simp only [alignExp_eq_some_iff, h.mem_iff]

/-! ### The group sum as one equation -/

/-- A finite term with a negative sign, a negative zero included. -/
def FVal.finNeg : FVal → Bool
  | .fin s _ _ => s
  | _ => false

/-- The last three rows of R175: with no live term a zero, negative when every term is; else the exact sum of the terms cut
at the quantum. -/
def finiteSum (ts : List FVal) : FVal :=
  match alignExp ts with
  | none => .fin (ts.all FVal.finNeg) 0 0
  | some e => ofSigned ((ts.map (truncTo (e - 26))).sum) (e - 26) false

theorem finiteSum_perm {ts us : List FVal} (h : ts.Perm us) : finiteSum ts = finiteSum us := by
  simp only [finiteSum, alignExp_perm h, h.all_eq, (h.map _).sum_eq]

theorem finiteSum_of_alignExp_none {ts : List FVal} (h : alignExp ts = none) :
    finiteSum ts = .fin (ts.all FVal.finNeg) 0 0 := by
  simp only [finiteSum, h]

theorem finiteSum_of_alignExp_some {ts : List FVal} {e : Int} (h : alignExp ts = some e) :
    finiteSum ts = ofSigned ((ts.map (truncTo (e - 26))).sum) (e - 26) false := by
  simp only [finiteSum, h]

theorem groupSum_eq (ts : List FVal) :
    groupSum ts =
      if ts.any FVal.isNan = true ∨ (.inf false ∈ ts ∧ .inf true ∈ ts) then qnan
      else if .inf false ∈ ts then .inf false
      else if .inf true ∈ ts then .inf true
      else finiteSum ts := by
  unfold groupSum finiteSum alignExp
  simp only [Bool.or_eq_true, Bool.and_eq_true, List.contains_iff_mem]
  cases (ts.filter FVal.live).map FVal.lead with
  | nil => rfl
  | cons e r => simp only [List.max?_cons', List.sum_eq_foldl]

theorem FVal.not_isNan_of_isFin : ∀ {x : FVal}, x.isFin = true → ¬ x.isNan = true
  | .fin _ _ _, _ => Bool.false_ne_true

/-! ### The rows of the table -/

theorem groupSum_perm {ts us : List FVal} (h : ts.Perm us) : groupSum ts = groupSum us := by
  simp only [groupSum_eq, h.any_eq, h.mem_iff, finiteSum_perm h]

theorem groupSum_eq_qnan {ts : List FVal}
    (h : ts.any FVal.isNan = true ∨ (.inf false ∈ ts ∧ .inf true ∈ ts)) : groupSum ts = qnan := by
  rw [groupSum_eq, if_pos h]

theorem groupSum_eq_posInf {ts : List FVal} (hnan : ts.any FVal.isNan = false) (hp : .inf false ∈ ts)
    (hn : .inf true ∉ ts) : groupSum ts = .inf false := by
  simp [groupSum_eq, hnan, hp, hn]

theorem groupSum_eq_negInf {ts : List FVal} (hnan : ts.any FVal.isNan = false) (hn : .inf true ∈ ts)
    (hp : .inf false ∉ ts) : groupSum ts = .inf true := by
  simp [groupSum_eq, hnan, hp, hn]

theorem groupSum_eq_finiteSum {ts : List FVal} (h : ∀ t ∈ ts, t.isFin = true) : groupSum ts = finiteSum ts := by
  have hnan : ts.any FVal.isNan = false := List.any_eq_false.mpr fun t ht => FVal.not_isNan_of_isFin (h t ht)
  have hinf : ∀ s, .inf s ∉ ts := fun s hs => Bool.false_ne_true (h _ hs)
  simp [groupSum_eq, hnan, hinf]

theorem groupSum_of_zeros {ts : List FVal} (h : ∀ t ∈ ts, ∃ s e, t = .fin s 0 e) :
    groupSum ts = .fin (ts.all FVal.finNeg) 0 0 := by
  have hfin : ∀ t ∈ ts, t.isFin = true := fun t ht => by obtain ⟨s, e, rfl⟩ := h t ht; rfl
  have hlive : ∀ t ∈ ts, t.live = false := fun t ht => by obtain ⟨s, e, rfl⟩ := h t ht; rfl
  rw [groupSum_eq_finiteSum hfin, finiteSum_of_alignExp_none (alignExp_eq_none_iff.mpr hlive)]

theorem groupSum_of_negZeros {ts : List FVal} (h : ∀ t ∈ ts, ∃ e, t = .fin true 0 e) :
    groupSum ts = .fin true 0 0 := by
  have hneg : ts.all FVal.finNeg = true := List.all_eq_true.mpr fun t ht => by obtain ⟨e, rfl⟩ := h t ht; rfl
  rw [groupSum_of_zeros fun t ht => ⟨true, h t ht⟩, hneg]

theorem groupSum_of_zeros_of_posZero {ts : List FVal} (h : ∀ t ∈ ts, ∃ s e, t = .fin s 0 e)
    (hpos : ∃ t ∈ ts, ∃ e, t = .fin false 0 e) : groupSum ts = .fin false 0 0 := by
  obtain ⟨_, ht, e, rfl⟩ := hpos
  have hneg : ts.all FVal.finNeg = false := List.all_eq_false.mpr ⟨_, ht, Bool.false_ne_true⟩
  rw [groupSum_of_zeros h, hneg]

theorem groupSum_of_live {ts : List FVal} {e : Int} (hfin : ∀ t ∈ ts, t.isFin = true)
    (hmem : ∃ t ∈ ts, t.live = true ∧ t.lead = e) (hmax : ∀ t ∈ ts, t.live = true → t.lead ≤ e) :
    groupSum ts = ofSigned ((ts.map (truncTo (e - 26))).sum) (e - 26) false := by
  rw [groupSum_eq_finiteSum hfin, finiteSum_of_alignExp_some (alignExp_eq_some_iff.mpr ⟨hmem, hmax⟩)]

/-- Settles O6: each clause is a row of the table, read off the one equation `groupSum_eq`. -/
theorem groupSumsFollowTheTable : Obligations.GroupSumsFollowTheTable := by
  intro ts us
  refine ⟨groupSum_perm, fun h => ?_, groupSum_eq_posInf, groupSum_eq_negInf, groupSum_of_negZeros,
    groupSum_of_zeros_of_posZero, fun _ => groupSum_of_live⟩
  rw [groupSum_eq_qnan h]
  rfl

end Sys2Proof.Machine

/-! ## The check code (R264 to R268)

Two roots show the distance of the code. `evalBits β s` reads a syndrome as a polynomial over GF(2) and evaluates it at β.
At a root β of g(x) the step of the generator is multiplication by β, so the syndrome of a list of positions becomes the sum
of their powers of β. For a root α of x^7 + x^3 + 1 both α and α^3 are roots of g, and the powers of α below 127 are
distinct; at most four distinct positions whose powers sum to 0, and whose cubes do, are none. Two patterns of at most four
positions between them with one syndrome are therefore the same pattern, and the rows of R267 give the guarantees of R268. -/

namespace Sys2Proof.Machine

/-! ### Bits and their positions -/

/-- The positions of the set bits among the `n` low bits of `v`, whose bit 0 lies at position `at_`. -/
def bitsAt (at_ n v : Nat) : List Nat := ((List.range n).filter (bit v)).map (at_ + ·)

theorem mem_bitsAt {at_ n v q : Nat} : q ∈ bitsAt at_ n v ↔ ∃ k, (k < n ∧ bit v k = true) ∧ at_ + k = q := by
  simp [bitsAt]

theorem nodup_bitsAt (at_ n v : Nat) : (bitsAt at_ n v).Nodup :=
  (List.nodup_range.filter _).map (add_right_injective at_)

theorem disjoint_bitsAt {a n v b m w : Nat} (h : a + n ≤ b) : (bitsAt a n v).Disjoint (bitsAt b m w) := by
  intro q hq hq'
  obtain ⟨k, ⟨hk, -⟩, rfl⟩ := mem_bitsAt.mp hq
  obtain ⟨j, -, hj⟩ := mem_bitsAt.mp hq'
  omega

theorem length_bitsAt (at_ n v : Nat) : (bitsAt at_ n v).length = (List.range n).countP (bit v) := by
  rw [bitsAt, List.length_map, List.countP_eq_length_filter]

theorem bit_eq_testBit (v : Nat) : bit v = v.testBit := by
  funext k
  rw [bit, Nat.testBit_eq_decide_div_mod_eq]
  rfl

theorem bit_toNat {w : Nat} (v : BitVec w) : bit v.toNat = v.getLsbD := bit_eq_testBit _

theorem bit_mod_two_pow {n k : Nat} (v : Nat) (h : k < n) : bit (v % 2 ^ n) k = bit v k := by
  simp [bit_eq_testBit, Nat.testBit_mod_two_pow, h]

theorem bnat_le_one (b : Bool) : bnat b ≤ 1 := by cases b <;> decide

theorem eq_decide_odd_bnat (b : Bool) : b = decide (bnat b % 2 = 1) := by cases b <;> rfl

theorem decide_odd_bne (a b : Nat) : (decide (a % 2 = 1) != decide (b % 2 = 1)) = decide ((a + b) % 2 = 1) := by
  rw [Bool.eq_iff_iff]
  simp
  omega

theorem parity_eq (n v : Nat) : parity n v = decide ((List.range n).countP (bit v) % 2 = 1) := by
  unfold parity
  induction n with
  | zero => rfl
  | succ n ih =>
    have last : [n].countP (bit v) = bnat (bit v n) := List.countP_singleton
    rw [List.range_succ, List.foldl_append, List.countP_append, ih, last, ← decide_odd_bne, ← eq_decide_odd_bnat]
    rfl

/-! ### Syndromes of lists of positions -/

/-- x^i modulo g(x). -/
def bchPower (i : Nat) : Nat := bchStep^[i] 1

theorem bchPows_eq (n s : Nat) : bchPows n s = (List.range n).map (fun i => bchStep^[i] s) := by
  induction n generalizing s with
  | zero => rfl
  | succ n ih => rw [bchPows, ih, List.range_succ_eq_map, List.map_cons, List.map_map]; rfl

theorem mem_bchPositions {x : Nat × Nat} : x ∈ bchPositions ↔ x.1 < 127 ∧ x.2 = bchPower x.1 := by
  have h : bchPositions = (List.range 127).map (fun i => (i, bchPower i)) := by
    rw [bchPositions, bchPows_eq, ← List.map_prod_left_eq_zip]; rfl
  obtain ⟨i, s⟩ := x
  simp [h, eq_comm]

/-- The syndrome of errors at the positions of a list. -/
def syndrome (l : List Nat) : Nat := (l.map bchPower).foldr (· ^^^ ·) 0

@[simp] theorem syndrome_nil : syndrome [] = 0 := rfl

@[simp] theorem syndrome_cons (i : Nat) (l : List Nat) : syndrome (i :: l) = bchPower i ^^^ syndrome l := rfl

theorem syndrome_append (l l' : List Nat) : syndrome (l ++ l') = syndrome l ^^^ syndrome l' := by
  induction l with
  | nil => simp
  | cons i l ih => rw [List.cons_append, syndrome_cons, syndrome_cons, ih, Nat.xor_assoc]

theorem bchOf_eq_syndrome (v at_ n : Nat) : bchOf v at_ n = syndrome (bitsAt at_ n v) := by
  have h : ((bchPows (at_ + n) 1).drop at_).zip (List.range n) =
      (List.range n).map (fun k => (bchPower (at_ + k), k)) := by
    rw [bchPows_eq, List.range_add, List.map_append, List.drop_left' (by simp), List.map_map,
      ← List.map_prod_right_eq_zip]; rfl
  rw [bchOf, h, List.foldl_map, ← List.foldl_filter, syndrome, bitsAt, List.map_map, ← List.foldl_eq_foldr,
    List.foldl_map]
  rfl

/-! ### Syndromes at the roots of the generator -/

section Roots
variable {K : Type*} [Field K] {α β : K}

/-- The bits of `s` as the coefficients of a polynomial over GF(2), evaluated at `β`. -/
def evalBits (β : K) (s : Nat) : K := Nat.ofDigits β (Nat.digits 2 s)

@[simp] theorem evalBits_zero (β : K) : evalBits β 0 = 0 := by simp [evalBits, Nat.ofDigits]

@[simp] theorem evalBits_one (β : K) : evalBits β 1 = 1 := by simp [evalBits, Nat.ofDigits]

theorem evalBits_eq (β : K) (s : Nat) : evalBits β s = (s % 2 : Nat) + β * evalBits β (s / 2) := by
  obtain rfl | h := Nat.eq_zero_or_pos s
  · simp
  · rw [evalBits, Nat.digits_def' (by decide) h]; rfl

/-- β is a root of g(x) (R265). -/
def IsBchRoot (β : K) : Prop := evalBits β 0x4377 = 0

theorem isBchRoot_iff :
    IsBchRoot β ↔ β ^ 14 + β ^ 9 + β ^ 8 + β ^ 6 + β ^ 5 + β ^ 4 + β ^ 2 + β + 1 = 0 := by
  have h : evalBits β 0x4377 = β ^ 14 + β ^ 9 + β ^ 8 + β ^ 6 + β ^ 5 + β ^ 4 + β ^ 2 + β + 1 := by
    simp [evalBits, Nat.ofDigits]
    ring
  rw [IsBchRoot, h]

/-- α is a root of m1(x) = x^7 + x^3 + 1, the primitive polynomial of R265. -/
def IsAlpha (α : K) : Prop := α ^ 7 = α ^ 3 + 1

theorem IsAlpha.ne_zero (h : IsAlpha α) : α ≠ 0 := by
  rintro rfl
  simp [IsAlpha] at h

theorem IsAlpha.ne_one (h : IsAlpha α) : α ≠ 1 := by
  rintro rfl
  simp [IsAlpha] at h

variable [CharP K 2]

theorem evalBits_xor (β : K) (s t : Nat) : evalBits β (s ^^^ t) = evalBits β s + evalBits β t := by
  induction s using Nat.strong_induction_on generalizing t with
  | _ s ih =>
    obtain rfl | h := Nat.eq_zero_or_pos s
    · simp
    · have low : (((s ^^^ t) % 2 : Nat) : K) = (s % 2 : Nat) + (t % 2 : Nat) := by
        rw [Nat.xor_mod_two_eq, ← CharTwo.natCast_eq_mod, Nat.cast_add, CharTwo.natCast_eq_mod s, CharTwo.natCast_eq_mod t]
      rw [evalBits_eq, Nat.xor_div_two, ih _ (by omega), low, evalBits_eq β s, evalBits_eq β t]
      ring

theorem evalBits_bchStep (h : IsBchRoot β) (s : Nat) : evalBits β (bchStep s) = β * evalBits β s := by
  have double : evalBits β (2 * s) = β * evalBits β s := by rw [evalBits_eq]; simp
  rw [bchStep]
  split
  · exact double
  · rw [evalBits_xor, h, add_zero, double]

theorem evalBits_bchPower (h : IsBchRoot β) (i : Nat) : evalBits β (bchPower i) = β ^ i := by
  induction i with
  | zero => simp [bchPower]
  | succ i ih =>
    rw [pow_succ', ← ih, ← evalBits_bchStep h, bchPower, Function.iterate_succ_apply']; rfl

theorem evalBits_syndrome (h : IsBchRoot β) (l : List Nat) : evalBits β (syndrome l) = (l.map (β ^ ·)).sum := by
  induction l with
  | nil => simp
  | cons i l ih => rw [syndrome_cons, evalBits_xor, ih, evalBits_bchPower h, List.map_cons, List.sum_cons]

/-- g = m1 · m3 (R265), in its expansion before the coefficients are reduced modulo 2. -/
theorem isBchRoot_of_mul (h : (β ^ 7 + β ^ 3 + 1) * (β ^ 7 + β ^ 3 + β ^ 2 + β + 1) = 0) : IsBchRoot β := by
  rw [isBchRoot_iff]
  linear_combination h - (β ^ 10 + β ^ 7 + β ^ 3) * CharTwo.two_eq_zero (R := K)

theorem IsAlpha.isBchRoot (h : IsAlpha α) : IsBchRoot α := by
  have m1 : α ^ 7 + α ^ 3 + 1 = 0 := by rw [h, add_assoc, CharTwo.add_self_eq_zero]
  exact isBchRoot_of_mul (by rw [m1, zero_mul])

theorem IsAlpha.isBchRoot_cube (h : IsAlpha α) : IsBchRoot (α ^ 3) := by
  have m3 : (α ^ 3) ^ 7 + (α ^ 3) ^ 3 + (α ^ 3) ^ 2 + α ^ 3 + 1 = 0 := by
    rw [pow_right_comm, h]
    linear_combination (α ^ 9 + 2 * α ^ 6 + 2 * α ^ 3 + 1) * CharTwo.two_eq_zero (R := K)
  exact isBchRoot_of_mul (by rw [m3, mul_zero])

theorem IsAlpha.pow_127 (h : IsAlpha α) : α ^ 127 = 1 := by
  have h8 : α ^ 8 = α ^ 4 + α := by rw [pow_succ, h]; ring
  have h16 : α ^ 16 = α ^ 4 + α ^ 2 + α := by
    rw [pow_mul α 8 2, h8, CharTwo.add_sq, ← pow_mul, h8]; ring
  have h64 : α ^ 64 = α ^ 4 + α ^ 2 := by
    rw [pow_mul α 16 4, h16, pow_mul _ 2 2]
    simp only [CharTwo.add_sq, ← pow_mul, h8]
    linear_combination (α ^ 4 + α) * CharTwo.two_eq_zero (R := K)
  have h128 : α ^ 127 * α = 1 * α := by
    rw [← pow_succ, pow_mul α 64 2, h64, CharTwo.add_sq, ← pow_mul, h8]
    linear_combination α ^ 4 * CharTwo.two_eq_zero (R := K)
  exact mul_right_cancel₀ h.ne_zero h128

theorem IsAlpha.pow_injOn (h : IsAlpha α) : (Set.Iio 127).InjOn (α ^ ·) := by
  have : Fact (Nat.Prime 127) := ⟨by norm_num⟩
  have order : orderOf α = 127 := orderOf_eq_prime h.pow_127 h.ne_one
  simpa only [order] using pow_injOn_Iio_orderOf (x := α)

/-- In characteristic 2, a^3 + b^3 + c^3 + (a + b + c)^3 = (a + b) (b + c) (a + c). -/
theorem eq_or_eq_of_sum_eq_zero {a b c d : K} (h : a + b + c + d = 0) (h3 : a ^ 3 + b ^ 3 + c ^ 3 + d ^ 3 = 0) :
    a = b ∨ b = c ∨ a = c := by
  obtain rfl : a + b + c = d := CharTwo.add_eq_zero.mp h
  have : (a + b) * ((b + c) * (a + c)) = 0 := by
    linear_combination h3 - (a ^ 3 + b ^ 3 + c ^ 3 + a ^ 2 * b + a ^ 2 * c + b ^ 2 * a + b ^ 2 * c + c ^ 2 * a
      + c ^ 2 * b + 2 * a * b * c) * CharTwo.two_eq_zero (R := K)
  simpa only [mul_eq_zero, CharTwo.add_eq_zero] using this

/-- At most four elements other than 0 with a vanishing sum and a vanishing sum of cubes are none. -/
theorem eq_empty_of_sum_eq_zero {S : Finset K} (h0 : (0 : K) ∉ S) (hS : S.card ≤ 4) (h : ∑ x ∈ S, x = 0)
    (h3 : ∑ x ∈ S, x ^ 3 = 0) : S = ∅ := by
  classical
  rw [← Finset.card_eq_zero]
  interval_cases hc : S.card
  · rfl
  · obtain ⟨a, rfl⟩ := Finset.card_eq_one.mp hc
    simp_all
  · obtain ⟨a, b, hab, rfl⟩ := Finset.card_eq_two.mp hc
    simp_all [CharTwo.add_eq_zero]
  · obtain ⟨a, b, c, hab, hac, hbc, rfl⟩ := Finset.card_eq_three.mp hc
    have := eq_or_eq_of_sum_eq_zero (a := a) (b := b) (c := c) (d := 0)
    simp_all [add_assoc]
  · obtain ⟨a, T, ha, rfl, hT⟩ := Finset.card_eq_succ.mp hc
    obtain ⟨b, c, d, hbc, hbd, hcd, rfl⟩ := Finset.card_eq_three.mp hT
    have := eq_or_eq_of_sum_eq_zero (a := a) (b := b) (c := c) (d := d)
    simp_all [add_assoc]

theorem sum_symmDiff (A B : Finset Nat) (f : Nat → K) :
    ∑ i ∈ symmDiff A B, f i = ∑ i ∈ A, f i + ∑ i ∈ B, f i := by
  have union : ∑ i ∈ symmDiff A B, f i = ∑ i ∈ A \ B, f i + ∑ i ∈ B \ A, f i :=
    Finset.sum_union disjoint_sdiff_sdiff
  rw [union, ← Finset.sum_inter_add_sum_sdiff A B, ← Finset.sum_inter_add_sum_sdiff B A, Finset.inter_comm B A]
  linear_combination - (∑ i ∈ A ∩ B, f i) * CharTwo.two_eq_zero (R := K)

/-- At a root of g the powers of the positions in which two patterns of one syndrome differ sum to 0. -/
theorem sum_symmDiff_pow_eq_zero (hβ : IsBchRoot β) {l l' : List Nat} (hl : l.Nodup) (hl' : l'.Nodup)
    (h : syndrome l = syndrome l') : ∑ i ∈ symmDiff l.toFinset l'.toFinset, β ^ i = 0 := by
  rw [sum_symmDiff, List.sum_toFinset _ hl, List.sum_toFinset _ hl', ← evalBits_syndrome hβ, ← evalBits_syndrome hβ, h,
    CharTwo.add_self_eq_zero]

end Roots

section
open Polynomial

theorem exists_isAlpha : ∃ α : AlgebraicClosure (ZMod 2), IsAlpha α := by
  obtain ⟨α, h⟩ := IsAlgClosed.exists_root (X ^ 7 + X ^ 3 + 1 : (AlgebraicClosure (ZMod 2))[X]) (by
    have : (X ^ 7 + X ^ 3 + 1 : (AlgebraicClosure (ZMod 2))[X]).degree = 7 := by compute_degree!
    rw [this]; decide)
  refine ⟨α, ?_⟩
  simpa [IsAlpha, add_assoc, CharTwo.add_eq_zero] using h

end

/-! ### The distance of the code -/

/-- Two patterns of at most four positions between them that have one syndrome are the same. -/
theorem perm_of_syndrome_eq {l l' : List Nat} (hl : l.Nodup) (hl' : l'.Nodup) (h : ∀ i ∈ l, i < 127)
    (h' : ∀ i ∈ l', i < 127) (len : l.length + l'.length ≤ 4) (hs : syndrome l = syndrome l') : l.Perm l' := by
  classical
  obtain ⟨α, hα⟩ := exists_isAlpha
  let D := symmDiff l.toFinset l'.toFinset
  have inj : Set.InjOn (α ^ ·) (D : Set Nat) := hα.pow_injOn.mono fun i hi => by
    rcases Finset.mem_symmDiff.mp hi with ⟨hi, -⟩ | ⟨hi, -⟩
    · exact h i (List.mem_toFinset.mp hi)
    · exact h' i (List.mem_toFinset.mp hi)
  have card : (D.image (α ^ ·)).card ≤ 4 := by
    have cl := l.toFinset_card_le
    have cl' := l'.toFinset_card_le
    have cD : D.card ≤ l.toFinset.card + l'.toFinset.card :=
      (Finset.card_le_card symmDiff_le_sup).trans (Finset.card_union_le _ _)
    have cI := Finset.card_image_le (s := D) (f := (α ^ ·))
    omega
  have empty : D.image (α ^ ·) = ∅ := by
    apply eq_empty_of_sum_eq_zero _ card
    · rw [Finset.sum_image inj]
      exact sum_symmDiff_pow_eq_zero hα.isBchRoot hl hl' hs
    · rw [Finset.sum_image inj]
      simpa only [pow_right_comm α _ 3] using sum_symmDiff_pow_eq_zero hα.isBchRoot_cube hl hl' hs
    · simp [hα.ne_zero]
  have same : l.toFinset = l'.toFinset := symmDiff_eq_bot.mp (Finset.image_eq_empty.mp empty)
  exact List.perm_of_nodup_nodup_toFinset_eq hl hl' same

/-! ### The pattern of a syndrome (R267) -/

theorem bchPattern_sound {s : Nat} {ps : List Nat} (h : bchPattern s = some ps) :
    ps.Nodup ∧ ps.length ≤ 2 ∧ (∀ i ∈ ps, i < 127) ∧ syndrome ps = s := by
  unfold bchPattern at h
  split at h
  · obtain rfl := Option.some.inj h
    simp_all
  · rename_i hs
    split at h
    · rename_i x hx
      obtain rfl := Option.some.inj h
      obtain ⟨hlt, hpow⟩ := mem_bchPositions.mp (List.mem_of_find?_eq_some hx)
      have hxs : x.2 = s := by simpa using List.find?_some hx
      simp [hlt, ← hpow, hxs]
    · obtain ⟨x, hx, hxy⟩ := List.exists_of_findSome?_eq_some h
      obtain ⟨y, hy, rfl⟩ := Option.map_eq_some_iff.mp hxy
      obtain ⟨hxlt, hxpow⟩ := mem_bchPositions.mp hx
      obtain ⟨hylt, hypow⟩ := mem_bchPositions.mp (List.mem_of_find?_eq_some hy)
      have hyx : y.2 = s ^^^ x.2 := by simpa using List.find?_some hy
      have hs' : x.2 ^^^ y.2 = s := by rw [hyx, Nat.xor_comm s, Nat.xor_xor_cancel_left]
      have hne : x.1 ≠ y.1 := by
        intro e
        rw [hxpow, hypow, e, Nat.xor_self] at hs'
        exact hs hs'.symm
      simp [hne, hxlt, hylt, ← hxpow, ← hypow, hs']

theorem bchPattern_complete {l : List Nat} (hlen : l.length ≤ 2) (h : ∀ i ∈ l, i < 127) :
    ∃ ps, bchPattern (syndrome l) = some ps := by
  rw [← Option.ne_none_iff_exists']
  intro hnone
  unfold bchPattern at hnone
  split at hnone
  · cases hnone
  rename_i hs
  split at hnone
  · cases hnone
  rename_i hone
  have pos : ∀ i ∈ l, (i, bchPower i) ∈ bchPositions := fun i hi => mem_bchPositions.mpr ⟨h i hi, rfl⟩
  match l, hlen with
  | [], _ => exact hs rfl
  | [i], _ => simpa using List.find?_eq_none.mp hone _ (pos i (by simp))
  | [i, j], _ =>
    have htwo := List.findSome?_eq_none_iff.mp hnone _ (pos i (by simp))
    rw [Option.map_eq_none_iff] at htwo
    simpa [Nat.xor_comm (bchPower i)] using List.find?_eq_none.mp htwo _ (pos j (by simp))

/-- The pattern of at most two errors is where they are. -/
theorem bchPattern_of_length_le_two {l : List Nat} (hl : l.Nodup) (h : ∀ i ∈ l, i < 127) (hlen : l.length ≤ 2) :
    ∃ ps, bchPattern (syndrome l) = some ps ∧ ps.Perm l := by
  obtain ⟨ps, hps⟩ := bchPattern_complete hlen h
  obtain ⟨hnd, hle, hlt, hs⟩ := bchPattern_sound hps
  exact ⟨ps, hps, perm_of_syndrome_eq hnd hl hlt h (by omega) hs⟩

/-- Three errors have no pattern, or one of two positions. -/
theorem bchPattern_of_length_eq_three {l : List Nat} (hl : l.Nodup) (h : ∀ i ∈ l, i < 127) (hlen : l.length = 3)
    {ps : List Nat} (hps : bchPattern (syndrome l) = some ps) : ps.length = 2 := by
  obtain ⟨hnd, hle, hlt, hs⟩ := bchPattern_sound hps
  by_contra hne
  have := (perm_of_syndrome_eq hnd hl hlt h (by omega) hs).length_eq
  omega

/-! ### The outcome of a read (R267) -/

/-- The codeword positions of what differs (R265). -/
def Upset.positions (u : Upset) : List Nat :=
  bitsAt 0 14 (u.check.toNat % 2 ^ 14) ++ bitsAt 14 64 u.data.toNat ++ bitsAt 78 28 u.addr.toNat

theorem Upset.nodup_positions (u : Upset) : u.positions.Nodup := by
  refine ((nodup_bitsAt ..).append (nodup_bitsAt ..) (disjoint_bitsAt (by decide))).append (nodup_bitsAt ..) ?_
  exact List.disjoint_append_left.mpr ⟨disjoint_bitsAt (by decide), disjoint_bitsAt (by decide)⟩

theorem Upset.mem_positions_data {u : Upset} {k : Nat} (hk : k < 64) : 14 + k ∈ u.positions ↔ u.data.getLsbD k = true := by
  simp only [Upset.positions, List.mem_append, mem_bitsAt, bit_toNat]
  constructor
  · rintro ((⟨j, ⟨hj, -⟩, h⟩ | ⟨j, ⟨-, hb⟩, h⟩) | ⟨j, -, h⟩)
    · omega
    · rwa [← Nat.add_left_cancel h]
    · omega
  · exact fun hb => .inl (.inr ⟨k, ⟨hk, hb⟩, rfl⟩)

theorem Upset.mem_positions_lt {u : Upset} {q : Nat} (h : q ∈ u.positions) : q < 106 := by
  simp only [Upset.positions, List.mem_append, mem_bitsAt] at h
  omega

/-- Flip the data bit at a position, if it is one of a data bit. -/
def flipData (m : BitVec 64) (q : Nat) : BitVec 64 :=
  if 14 ≤ q ∧ q < 78 then m ^^^ BitVec.ofNat 64 (2 ^ (q - 14)) else m

theorem dataFlips_eq_foldl (ps : List Nat) : dataFlips ps = ps.foldl flipData 0 := rfl

theorem getLsbD_flipData (m : BitVec 64) (q : Nat) {k : Nat} (hk : k < 64) :
    (flipData m q).getLsbD k = (m.getLsbD k != decide (14 + k = q)) := by
  unfold flipData
  split
  · have e : (q - 14 = k) = (14 + k = q) := propext (by omega)
    rw [BitVec.getLsbD_xor, BitVec.getLsbD_ofNat, Nat.testBit_two_pow]
    simp [hk, e]
  · have e : 14 + k ≠ q := by omega
    simp [e]

theorem getLsbD_dataFlips {ps : List Nat} (h : ps.Nodup) {k : Nat} (hk : k < 64) :
    (dataFlips ps).getLsbD k = decide (14 + k ∈ ps) := by
  suffices fold : ∀ m, (ps.foldl flipData m).getLsbD k = (m.getLsbD k != decide (14 + k ∈ ps)) by
    rw [dataFlips_eq_foldl, fold]
    simp
  induction ps with
  | nil => simp
  | cons q ps ih =>
    obtain ⟨hq, hps⟩ := List.nodup_cons.mp h
    intro m
    rw [List.foldl_cons, ih hps, getLsbD_flipData m q hk]
    by_cases e : 14 + k = q
    · subst e; simp [hq]
    · simp [e]

/-- The pattern that is where the errors are flips the data bits that differ. -/
theorem Upset.dataFlips_eq {u : Upset} {ps : List Nat} (h : ps.Perm u.positions) : dataFlips ps = u.data := by
  refine BitVec.eq_of_getLsbD_eq fun k hk => ?_
  rw [getLsbD_dataFlips (h.nodup_iff.mpr u.nodup_positions) hk, Bool.eq_iff_iff, decide_eq_true_iff, h.mem_iff,
    u.mem_positions_data hk]

/-! ### The errors of a word, counted -/

namespace Upset
variable (u : Upset)

/-- Errors among the stored bits of the BCH part: data and b. -/
def bchErrors : Nat := (List.range 64).countP u.data.getLsbD + (List.range 14).countP u.check.getLsbD

/-- Errors of the stored P. -/
def pErrors : Nat := bnat (u.check.getLsbD 14)

/-- Errors of the stored AF. -/
def afErrors : Nat := bnat (u.check.getLsbD 15)

/-- Bits in which the address read differs from the address written. -/
def addrErrors : Nat := (List.range 28).countP u.addr.getLsbD

/-- The P check of R267. -/
def pCheck : Bool :=
  (parity 64 u.data.toNat != parity 14 (u.check.toNat % 2 ^ 14)) != bit u.check.toNat 14

/-- The AF check of R267. -/
def afCheck : Bool := parity 28 u.addr.toNat != bit u.check.toNat 15

theorem countP_check : (List.range 16).countP u.check.getLsbD =
    (List.range 14).countP u.check.getLsbD + u.pErrors + u.afErrors := by
  simp only [List.range_succ (n := 15), List.range_succ (n := 14), List.countP_append, List.countP_singleton]
  rfl

theorem countP_bit_check : (List.range 14).countP (bit (u.check.toNat % 2 ^ 14)) =
    (List.range 14).countP u.check.getLsbD :=
  List.countP_congr fun k hk => by rw [bit_mod_two_pow _ (List.mem_range.mp hk), bit_toNat]

theorem pErrors_le : u.pErrors ≤ 1 := bnat_le_one _

theorem afErrors_le : u.afErrors ≤ 1 := bnat_le_one _

theorem length_positions : u.positions.length = u.bchErrors + u.addrErrors := by
  simp only [positions, List.length_append, length_bitsAt, countP_bit_check, bit_toNat, bchErrors, addrErrors]
  omega

theorem pCheck_iff : u.pCheck = true ↔ (u.bchErrors + u.pErrors) % 2 = 1 := by
  rw [pCheck, parity_eq, parity_eq, countP_bit_check, bit_toNat, bit_toNat, eq_decide_odd_bnat (u.check.getLsbD 14),
    decide_odd_bne, decide_odd_bne, decide_eq_true_iff]
  rfl

theorem afCheck_iff : u.afCheck = true ↔ (u.addrErrors + u.afErrors) % 2 = 1 := by
  rw [afCheck, parity_eq, bit_toNat, bit_toNat, eq_decide_odd_bnat (u.check.getLsbD 15), decide_odd_bne,
    decide_eq_true_iff]
  rfl

variable {u}

theorem lt_of_mem_positions (h : u.addrErrors = 0) {q : Nat} (hq : q ∈ u.positions) : q < 78 := by
  have none : bitsAt 78 28 u.addr.toNat = [] := by
    rw [← List.length_eq_zero_iff, length_bitsAt, bit_toNat]
    exact h
  simp only [positions, none, List.append_nil, List.mem_append, mem_bitsAt] at hq
  omega

theorem exists_mem_positions_of_addrErrors (h : 0 < u.addrErrors) : ∃ q ∈ u.positions, 78 ≤ q ∧ q < 106 := by
  have some : 0 < (bitsAt 78 28 u.addr.toNat).length := by
    rw [length_bitsAt, bit_toNat]
    exact h
  obtain ⟨q, hq⟩ := List.exists_mem_of_length_pos some
  obtain ⟨k, ⟨hk, -⟩, rfl⟩ := mem_bitsAt.mp hq
  exact ⟨_, List.mem_append_right _ hq, by omega, by omega⟩

end Upset

/-! ### The rows of R267 -/

section Rows
variable {u : Upset} {ps : List Nat}

theorem Upset.syndrome_positions (u : Upset) : syndrome u.positions =
    bchOf (u.check.toNat % 2 ^ 14) 0 14 ^^^ bchOf u.data.toNat 14 64 ^^^ bchOf u.addr.toNat 78 28 := by
  simp only [bchOf_eq_syndrome, ← syndrome_append, Upset.positions]

theorem eccDecode_of_none (h : bchPattern (syndrome u.positions) = none) : eccDecode u = .bad false := by
  rw [Upset.syndrome_positions] at h
  simp only [eccDecode, h]

theorem eccDecode_of_nil (h : bchPattern (syndrome u.positions) = some []) :
    eccDecode u = if u.pCheck || u.afCheck then .corrected 0 else .clean := by
  rw [Upset.syndrome_positions] at h
  simp only [eccDecode, h]
  rfl

/-- Whether the row of R267 for a number of positions and the two checks corrects the positions. -/
def correctable (positions : Nat) (pc af : Bool) : Bool :=
  (positions == 1 && (pc || !af)) || (positions == 2 && !pc && !af)

theorem correctable_iff {n : Nat} {pc af : Bool} :
    correctable n pc af = true ↔ (n = 1 ∧ (af = true → pc = true)) ∨ (n = 2 ∧ ¬ pc = true ∧ ¬ af = true) := by
  cases pc <;> cases af <;> simp [correctable]

/-- The rows of R267 for a pattern of one or two positions. -/
theorem eccDecode_of_ne_nil (h : bchPattern (syndrome u.positions) = some ps) (hne : ps ≠ []) :
    eccDecode u =
      if ps.any (fun q => 78 ≤ q && q < 106) then .bad true
      else if ps.any (fun q => 106 ≤ q) then .bad false
      else if correctable ps.length u.pCheck u.afCheck then .corrected (dataFlips ps)
      else .bad false := by
  rw [Upset.syndrome_positions] at h
  obtain ⟨p, r, rfl⟩ := List.exists_cons_of_ne_nil hne
  unfold eccDecode
  simp only [h]
  refine if_congr Iff.rfl rfl (if_congr Iff.rfl rfl ?_)
  change _ = if correctable _ ((parity 64 _ != parity 14 _) != bit _ 14) (parity 28 _ != bit _ 15) then _ else _
  generalize (p :: r).length = n
  generalize ((parity 64 _ != parity 14 _) != bit _ 14) = pc
  generalize (parity 28 _ != bit _ 15) = af
  split
  case h_5 =>
    have : ¬ correctable n pc af = true := by
      rw [correctable_iff]
      cases pc <;> cases af <;> simp_all
    rw [if_neg this]
  all_goals rfl

/-- A pattern with a position of the address is a misdirected write. -/
theorem eccDecode_of_mem_address (h : bchPattern (syndrome u.positions) = some ps) {q : Nat} (hq : q ∈ ps)
    (hq78 : 78 ≤ q) (hq106 : q < 106) : eccDecode u = .bad true := by
  have any : ps.any (fun q => 78 ≤ q && q < 106) = true := List.any_eq_true.mpr ⟨q, hq, by simp [hq78, hq106]⟩
  rw [eccDecode_of_ne_nil h (List.ne_nil_of_mem hq), if_pos any]

theorem eccDecode_of_correctable (h : bchPattern (syndrome u.positions) = some ps) (hne : ps ≠ []) (hlt : ∀ q ∈ ps, q < 78)
    (hc : correctable ps.length u.pCheck u.afCheck = true) : eccDecode u = .corrected (dataFlips ps) := by
  have any78 : ¬ ps.any (fun q => 78 ≤ q && q < 106) = true := by
    simpa using fun q hq hle => absurd hle (hlt q hq).not_ge
  have any106 : ¬ ps.any (fun q => 106 ≤ q) = true := by
    simpa using fun q hq => (hlt q hq).trans (by decide)
  rw [eccDecode_of_ne_nil h hne, if_neg any78, if_neg any106, if_pos hc]

theorem eccDecode_of_not_correctable (h : bchPattern (syndrome u.positions) = some ps) (hne : ps ≠ [])
    (hc : ¬ correctable ps.length u.pCheck u.afCheck = true) : ∃ b, eccDecode u = .bad b := by
  rw [eccDecode_of_ne_nil h hne, if_neg hc]
  split_ifs <;> exact ⟨_, rfl⟩

end Rows

/-! ### The guarantees (R268) -/

section Guarantees
variable {u : Upset}

theorem Upset.exists_pattern (h : u.positions.length ≤ 2) :
    ∃ ps, bchPattern (syndrome u.positions) = some ps ∧ ps.Perm u.positions :=
  bchPattern_of_length_le_two u.nodup_positions (fun _ hq => (Upset.mem_positions_lt hq).trans (by decide)) h

theorem eccDecode_clean (haddr : u.addrErrors = 0) (h : u.bchErrors + (u.pErrors + u.afErrors) = 0) :
    eccDecode u = .clean := by
  have hpos : u.positions = [] := List.length_eq_zero_iff.mp (by rw [u.length_positions]; omega)
  have pc : u.pCheck = false := by rw [Bool.eq_false_iff, ne_eq, u.pCheck_iff]; omega
  have af : u.afCheck = false := by rw [Bool.eq_false_iff, ne_eq, u.afCheck_iff]; omega
  rw [eccDecode_of_nil (by rw [hpos]; rfl), pc, af]
  rfl

theorem eccDecode_corrects (haddr : u.addrErrors = 0) (h1 : 1 ≤ u.bchErrors + (u.pErrors + u.afErrors))
    (h2 : u.bchErrors + (u.pErrors + u.afErrors) ≤ 2) : eccDecode u = .corrected u.data := by
  have hp := u.pErrors_le
  have ha := u.afErrors_le
  have hlen := u.length_positions
  obtain ⟨ps, hps, hperm⟩ := Upset.exists_pattern (u := u) (by omega)
  have hlt : ∀ q ∈ ps, q < 78 := fun q hq => Upset.lt_of_mem_positions haddr (hperm.mem_iff.mp hq)
  have hpslen := hperm.length_eq
  rw [← Upset.dataFlips_eq hperm]
  by_cases hzero : u.bchErrors = 0
  · obtain rfl : ps = [] := List.length_eq_zero_iff.mp (by omega)
    have check : (u.pCheck || u.afCheck) = true := by
      rw [Bool.or_eq_true, u.pCheck_iff, u.afCheck_iff]; omega
    rw [eccDecode_of_nil hps, check]
    rfl
  · refine eccDecode_of_correctable hps (List.ne_nil_of_length_pos (by omega)) hlt ?_
    rw [correctable_iff, u.pCheck_iff, u.afCheck_iff]
    omega

/-- Three errors of the BCH part, the address among it, with a check that is 1. -/
theorem eccDecode_bad_of_three (h : u.positions.length = 3) (hc : u.pCheck = true ∨ u.afCheck = true) :
    ∃ b, eccDecode u = .bad b := by
  cases hps : bchPattern (syndrome u.positions) with
  | none => exact ⟨_, eccDecode_of_none hps⟩
  | some ps =>
    have two : ps.length = 2 := bchPattern_of_length_eq_three u.nodup_positions
      (fun _ hq => (Upset.mem_positions_lt hq).trans (by decide)) h hps
    refine eccDecode_of_not_correctable hps (by rintro rfl; cases two) ?_
    rw [correctable_iff]
    rintro (⟨one, -⟩ | ⟨-, hpc, haf⟩)
    · omega
    · exact hc.elim hpc haf

theorem eccDecode_reports_three (haddr : u.addrErrors = 0) (h : u.bchErrors + (u.pErrors + u.afErrors) = 3) :
    ∃ b, eccDecode u = .bad b := by
  have hp := u.pErrors_le
  have ha := u.afErrors_le
  have hlen := u.length_positions
  by_cases h3 : u.bchErrors = 3
  · exact eccDecode_bad_of_three (by omega) (by rw [u.pCheck_iff]; omega)
  · obtain ⟨ps, hps, hperm⟩ := Upset.exists_pattern (u := u) (by omega)
    have hpslen := hperm.length_eq
    refine eccDecode_of_not_correctable hps (List.ne_nil_of_length_pos (by omega)) ?_
    rw [correctable_iff, u.pCheck_iff, u.afCheck_iff]
    omega

/-- A misdirected write, alone or with one stored bit in error. -/
theorem eccDecode_detects_address (h1 : 1 ≤ u.addrErrors) (h2 : u.addrErrors ≤ 2)
    (h : u.bchErrors + (u.pErrors + u.afErrors) ≤ 1) : ∃ b, eccDecode u = .bad b := by
  have hlen := u.length_positions
  by_cases h3 : u.positions.length = 3
  · exact eccDecode_bad_of_three h3 (by rw [u.pCheck_iff]; omega)
  · obtain ⟨ps, hps, hperm⟩ := Upset.exists_pattern (u := u) (by omega)
    obtain ⟨q, hq, hq78, hq106⟩ := Upset.exists_mem_positions_of_addrErrors h1
    exact ⟨_, eccDecode_of_mem_address hps (hperm.mem_iff.mpr hq) hq78 hq106⟩

theorem eccDecode_detects_three_address (haddr : u.addrErrors = 3) (h : u.bchErrors + (u.pErrors + u.afErrors) = 0) :
    ∃ b, eccDecode u = .bad b := by
  have hlen := u.length_positions
  exact eccDecode_bad_of_three (by omega) (by rw [u.afCheck_iff]; omega)

end Guarantees

/-- Settles O7: two patterns with one syndrome are the same while they have at most four positions between them
(`perm_of_syndrome_eq`), so each guarantee is a row of the table of R267. -/
theorem checkCodeKeepsItsGuarantees : Obligations.CheckCodeKeepsItsGuarantees := by
  intro u n m bad
  have hn : n = u.bchErrors + (u.pErrors + u.afErrors) := by
    change _ + (List.range 16).countP u.check.getLsbD = _
    rw [u.countP_check, Nat.add_assoc _ u.pErrors, ← Nat.add_assoc]
    rfl
  have hm : m = u.addrErrors := rfl
  rw [hn, hm]
  exact ⟨eccDecode_clean, eccDecode_corrects, eccDecode_reports_three, eccDecode_detects_address,
    eccDecode_detects_three_address⟩

end Sys2Proof.Machine
